-- ==== Sys2Proof/Word.lean ====
section
/-! DEFINITION. The word types of the WT16: what the manual treats as bits, at the widths of the table of section 2.1. -/

namespace Sys2Proof

/-- An octet: eight bits, bit 7 the first on the line (section 12). -/
abbrev Byte := BitVec 8

/-- A time value modulo 2^32: LT, stamps, captures and RT_int (R19, R20, R26). -/
abbrev Ticks := BitVec 32

/-- A sequence number modulo 2^16 (R23). -/
abbrev SeqNo := BitVec 16

/-- Recovered time: fine ticks modulo 2^59, one fine tick being 2^-27 of a tick (R26). -/
abbrev FineTicks := BitVec 59

/-- An Ethernet address (R47). -/
abbrev Address := BitVec 48

end Sys2Proof
end

