-- ==== Sys2Proof/Syntax.lean ====
section
/-! DEFINITION. The commands of the WT16: one constructor for each row of spec/opcode_table.json, with its operands. -/

namespace Sys2Proof

/-- A trunk port, and the path of a circuit that carries the port's name (00_scope.md section 3.2). -/
inductive Port where
  | A
  | B
  deriving DecidableEq, Repr

/-- A field item of a TABLE_WRITE: a field code and its value octets (R190). -/
structure FieldItem where
  code  : Byte
  value : List Byte
  deriving DecidableEq, Repr

/-- The commands. A tributary is 0..15, a circuit 0..63 (00_scope.md section 3.2). The object kinds, indices, paths and
counts of requests are octets, as a request record carries them (R190), so that every refusal of R32, R53 and R173 can
be asked for. The line commands carry the received bits of their tributary since the previous line command, ending
with the bit that brings the event they name (log 3). -/
inductive Instr where
  /-- POWER_ON, with the 16-bit unit number on the strap inputs (R49, R184). -/
  | powerOn (unit : BitVec 16)
  /-- LOSS_OF_SIGNAL_DECLARED (R2). -/
  | lossOfSignalDeclared (t : Fin 16) (bits : List Bool)
  /-- LOSS_OF_SIGNAL_CLEARED (R2). -/
  | lossOfSignalCleared (t : Fin 16) (bits : List Bool)
  /-- AIS_BLOCK_END (R3). -/
  | aisBlockEnd (t : Fin 16) (bits : List Bool)
  /-- ALIGNMENT_DECLARED (R4). -/
  | alignmentDeclared (t : Fin 16) (bits : List Bool)
  /-- ALIGNMENT_LOST (R5). -/
  | alignmentLost (t : Fin 16) (bits : List Bool)
  /-- REMOTE_ALARM_STATE_CHANGE (R6). -/
  | remoteAlarmStateChange (t : Fin 16) (bits : List Bool)
  /-- RECEIVE_FRAME_EVENT (R8). -/
  | receiveFrameEvent (t : Fin 16) (bits : List Bool)
  /-- GENERATED_FRAME_EVENT (R8). -/
  | generatedFrameEvent (t : Fin 16)
  /-- TRANSMIT_FRAME_START (R11). -/
  | transmitFrameStart (t : Fin 16)
  /-- LINK_UP (R86). -/
  | linkUp (p : Port)
  /-- LINK_DOWN (R86). -/
  | linkDown (p : Port)
  /-- FRAME_ARRIVAL (R87): the frame's octets, taken `age` ticks after its arrival capture (R20, R131, log 8). -/
  | frameArrival (p : Port) (age : Ticks) (octets : List Byte)
  /-- COPY_DEPARTURE (R81). -/
  | copyDeparture (p : Port)
  /-- RESPONSE_DEPARTURE (R79). -/
  | responseDeparture (p : Port)
  /-- ENGAGE_TIMER_EXPIRY (R59). -/
  | engageTimerExpiry (c : Fin 64)
  /-- STARVATION_TIMER_EXPIRY (R63). -/
  | starvationTimerExpiry (c : Fin 64)
  /-- PATH_TIMER_EXPIRY (R92). -/
  | pathTimerExpiry (c : Fin 64) (p : Port)
  /-- RESTORE_HOLD_OFF_EXPIRY (R97). -/
  | restoreHoldOffExpiry (c : Fin 64)
  /-- MANAGEMENT_FRAME (R170): the oldest accepted management frame of the port is executed. -/
  | managementFrame (p : Port)
  /-- TABLE_READ (R175). -/
  | tableRead (kind index count : Byte)
  /-- TABLE_WRITE (R31). -/
  | tableWrite (kind index : Byte) (items : List FieldItem)
  /-- ENGAGE (R55). -/
  | engage (index : Byte)
  /-- RELEASE (R56). -/
  | release (index : Byte)
  /-- REACQUIRE (R57). -/
  | reacquire (index : Byte)
  /-- FORCE_PATH (R58). -/
  | forcePath (index path : Byte)
  /-- STATUS_READ (R176). -/
  | statusRead (kind index : Byte)
  /-- COUNTERS_READ (R177). -/
  | countersRead (kind index clear : Byte)
  /-- FLAGS_CLEAR (R178). -/
  | flagsClear (kind index : Byte) (mask : BitVec 32)
  /-- EVENTS_TAKE (R179). -/
  | eventsTake (n : Byte)
  /-- RESTART (R183). -/
  | restart
  /-- LAST_OCTET_SENT (R79). -/
  | lastOctetSent (p : Port)
  deriving DecidableEq, Repr

end Sys2Proof
end

