-- ==== Sys2Proof/Decode.lean ====
section
/-! DEFINITION. The command a table word spells. No row of spec/opcode_table.json gives bits ("fields": [], no "fixed"),
so no word spells a command (log 24). The octet formats of chapter 12 are decoded in Machine/Operands.lean. -/

namespace Sys2Proof

/-- No row of the table gives bits, so every word is refused, whatever its length. -/
def decodeTableWord (_nbits _w : Nat) : Option Instr := none

end Sys2Proof
end

