-- ==== Sys2Proof/Config.lean ====
section
/-! DEFINITION. What the manual leaves open and no rule fixes: free values, which no proof can see. -/

namespace Sys2Proof

/-- FREE VALUE (log 2). The manual says of events that reach the part together that they are taken "in whichever
order they come" (R70, R105, R124, R145, R160, R168, R185) and gives no rule for the choice. The n-th choice the
machine makes is `Config.choice n`; nothing constrains it. -/
opaque Config.choice : Nat → Nat

end Sys2Proof
end

