-- ==== Sys2Proof/Machine/State.lean ====
section
/-! DEFINITION. The state of the WT16: every piece of state chapters 1 to 11 name, block by block, as plain data. The
default of each field is its power-on value (R184 and the rule named beside the block). -/

namespace Sys2Proof.Machine

/-- One value for each of path or port A and B. -/
structure Pair (α : Type) where
  a : α
  b : α
  deriving DecidableEq, Repr

/-! ### Names of the manual's enumerated values -/

/-- The five circuit states (section 4). -/
inductive CircuitState where
  | disabled | awaiting | acquiring | playing | starved
  deriving DecidableEq, Repr

/-- Framing of a tributary (section 1.1). -/
inductive Framing where
  | off | framed | unframed
  deriving DecidableEq, Repr

/-- Clock modes, requested, in force or actual (R147). -/
inductive ClockMode where
  | free | loop | adaptive | holdover
  deriving DecidableEq, Repr

/-- Signal state (R2). -/
inductive SignalState where
  | lost | present
  deriving DecidableEq, Repr

/-- Alignment state (R4, R5). -/
inductive AlignmentState where
  | searching | aligned | notFramed
  deriving DecidableEq, Repr

/-- AIS state and remote alarm state (R3, R6). -/
inductive SeenState where
  | clear | seen
  deriving DecidableEq, Repr

/-- Phase of the alignment search (R4); `idle` when no search is in progress (R17). -/
inductive SearchPhase where
  | idle | hunt | confirmOdd | confirmEven
  deriving DecidableEq, Repr

/-- Where receive frame events come from (R8). -/
inductive EventSource where
  | line | generated
  deriving DecidableEq, Repr

/-- Transmit frame parity (R11). -/
inductive Parity where
  | even | odd
  deriving DecidableEq, Repr

/-- Path state (R92) and link state (R86). -/
inductive UpDown where
  | down | up
  deriving DecidableEq, Repr

/-- Receive policy (R30, R94). -/
inductive Policy where
  | merge | preferA | preferB
  deriving DecidableEq, Repr

/-- Late policy (R30, R67). -/
inductive LatePolicy where
  | keepDelay | realign
  deriving DecidableEq, Repr

/-- Substitution (R30, R122). -/
inductive Substitution where
  | allOnes | idle | repeatLast
  deriving DecidableEq, Repr

/-- Packetizer phase (R72). -/
inductive Phase where
  | idle | armed | collecting
  deriving DecidableEq, Repr

/-- Outcome of a play history record (R114). -/
inductive PlayOutcome where
  | played | missed
  deriving DecidableEq, Repr

/-- Kind of a slip (R119, R120). -/
inductive SlipKind where
  | delete | repeated
  deriving DecidableEq, Repr

/-! ### Flags, details, event records, counters -/

/-- The circuit flags (R30, section 11.3). -/
inductive CircuitFlag where
  | stateChanged | engageTimeout | lockGained | lockLost
  | pathChange (p : Port)
  | pathSwitch | delayStep | farEndRestart | delayLimit | skewLimit | slip | remoteFault | localFaultSeen
  deriving DecidableEq, Repr

/-- The tributary flags (R44, section 11.3). -/
inductive TributaryFlag where
  | signalChange | alignChange | aisChange | remoteAlarmChange | clockModeChange
  deriving DecidableEq, Repr

/-- The port flags (R47, section 11.3). -/
inductive PortFlag where
  | linkChange | txDrop | mgmtDrop
  deriving DecidableEq, Repr

/-- One flag of one object. -/
inductive FlagRef where
  | circuit (c : Fin 64) (f : CircuitFlag)
  | tributary (t : Fin 16) (f : TributaryFlag)
  | port (p : Port) (f : PortFlag)
  deriving DecidableEq, Repr

/-- The detail a set flag holds (section 11.3). -/
inductive Detail where
  | none
  | circuitState (st : CircuitState)
  | path (p : Port)
  | upDown (st : UpDown)
  | signal (st : SignalState)
  | alignment (st : AlignmentState)
  | seen (st : SeenState)
  | clockMode (m : ClockMode)
  | slip (k : SlipKind)
  | circuit (c : Fin 64)
  deriving DecidableEq, Repr

/-- An event record (R180). -/
structure EventRecord where
  flag   : FlagRef
  lt     : Ticks
  detail : Detail
  deriving DecidableEq, Repr

/-- The circuit counters (R182). -/
inductive CircuitCounter where
  | received (p : Port) | firstCopies | duplicates | late | lost | overrun | stampMismatch | malformed
  | repeatSlips | deleteSlips | substitutedFrames
  | sent (p : Port) | notSent (p : Port)
  deriving DecidableEq, Repr

/-- The port counters (R182). -/
inductive PortCounter where
  | framesReceived | badFrames | unknownLabel | managementFrames | managementDiscarded | txDrops
  deriving DecidableEq, Repr

/-! ### The circuit table entry (R30) -/

/-- A path's tag (R35). -/
structure Tag where
  networkTag : Nat
  priority   : Nat
  deriving DecidableEq, Repr

/-- A path record (R35). -/
structure PathRecord where
  destination : Address
  outLabel    : Nat
  tag         : Option Tag
  deriving DecidableEq, Repr

/-- A circuit table entry, with its power-on values (R30). -/
structure CircuitEntry where
  tributary         : Option (Fin 16) := none
  /-- Bit k for timeslot k (R190); bit 0 is never set (R33). -/
  slotSet           : BitVec 32 := 0
  /-- Frames per packet, F. -/
  frames            : Nat := 8
  inLabel           : Nat := 0
  paths             : Pair (Option PathRecord) := ⟨none, none⟩
  depth             : Nat := 32
  /-- Playout delay PD, in frames. -/
  playoutDelay      : Nat := 16
  /-- The window W, in packets. -/
  window            : Nat := 32
  shiftA            : Nat := 3
  shiftB            : Nat := 7
  lockThreshold     : Nat := 8
  unlockThreshold   : Nat := 32
  reentryTolerance  : Nat := 256
  starvationTimeout : Nat := 8
  pathTimeout       : Nat := 4
  engageTimeout     : Nat := 10
  restoreHoldOff    : Nat := 5
  policy            : Policy := .merge
  latePolicy        : LatePolicy := .keepDelay
  substitution      : Substitution := .allOnes
  /-- In microseconds; 0 is off (R28). -/
  rttLimit          : Nat := 0
  skewLimit         : Nat := 0
  /-- Bit k for the circuit flag of code k (R190). -/
  enables           : BitVec 14 := BitVec.allOnes 14
  deriving DecidableEq, Repr

/-! ### The blocks of a circuit -/

/-- What circuit control holds (R52), and the circuit's memory reservation (R41, R54). The anchor, the reference pair of
R25, is carried with the play pointer and held there. A stopped timer is `none`, a running one its expiry (R27). -/
structure Control where
  state           : CircuitState := .disabled
  acquired        : Bool := false
  engageTimer     : Option Ticks := none
  starvationTimer : Option Ticks := none
  mismatchRun     : Nat := 0
  lateRun         : Nat := 0
  reserved        : Nat := 0
  deriving DecidableEq, Repr

/-- The packet under assembly (R72). -/
structure Assembly where
  ts      : Ticks
  /-- Frames taken so far. -/
  taken   : Nat
  octets  : List Byte
  faulted : Bool
  deriving DecidableEq, Repr

/-- A send log entry (R77). -/
structure SendLogEntry where
  ts   : Ticks
  sent : Pair (Option Ticks)
  deriving DecidableEq, Repr

/-- What the packetizer holds (R72), and the send log, oldest first (R77). -/
structure Packetizer where
  phase    : Phase := .idle
  nextSeq  : SeqNo := 0
  assembly : Option Assembly := none
  sendLog  : List SendLogEntry := []
  deriving DecidableEq, Repr

/-- What arrival and merge holds (R92 to R97, R104): path states and timers, active and forced path, the restore
hold-off, the skew samples oldest first. -/
structure Merge where
  up          : Pair UpDown := ⟨.down, .down⟩
  timers      : Pair (Option Ticks) := ⟨none, none⟩
  active      : Option Port := none
  forced      : Option Port := none
  holdOff     : Option Ticks := none
  skewSamples : List Int := []
  deriving DecidableEq, Repr

/-- A held entry of a buffer slot (R108). -/
structure HeldEntry where
  seq        : SeqNo
  ts         : Ticks
  l          : Bool
  r          : Bool
  payload    : List Byte
  arrival    : Pair (Option Ticks)
  storedFrom : Port
  sampled    : Bool
  deriving DecidableEq, Repr

/-- A play history record (R114). -/
structure HistoryRecord where
  seq       : SeqNo
  outcome   : PlayOutcome
  arrival   : Pair (Option Ticks)
  firstPath : Option Port
  sampled   : Bool
  deriving DecidableEq, Repr

/-- The play pointer (p, f) with the reference stamp TS_p: the reference pair of R25 is (seq, ts). -/
structure Pointer where
  seq   : SeqNo
  frame : Nat
  ts    : Ticks
  deriving DecidableEq, Repr

/-- What the playout buffer holds (R107). A buffer slot is EMPTY (`none`) or a held entry; the depth is at most 128 and
only the first depth places are used, sequence q at place q modulo depth (R108, log 21). The history is oldest first. -/
structure Buffer where
  slots           : Vector (Option HeldEntry) 128 := Vector.replicate 128 none
  pointer         : Option Pointer := none
  history         : List HistoryRecord := []
  lastFrame       : Option (List Byte) := none
  substitutionRun : Nat := 0
  startMark       : Bool := false
  lastLead        : Option Int := none
  deriving DecidableEq, Repr

/-- The window in progress (R127); an empty window is `none`. -/
structure Window where
  count   : Nat
  minimum : Int
  length  : Nat
  deriving DecidableEq, Repr

/-- What clock recovery holds (R127), and the FREQ at which RT advanced over the latest tick of LT (R129): a working value of
the model's, by which a frame start inside that tick reads RT, whatever FREQ has become since (R145, log 32). -/
structure Recovery where
  rt         : Option FineTicks := none
  freq       : Int := 0
  integrator : Int := 0
  window     : Option Window := none
  locked     : Bool := false
  towardLock : Nat := 0
  towardLoss : Nat := 0
  lastError  : Option Int := none
  /-- Oldest first. -/
  history    : List Int := []
  tickFreq   : Int := 0
  deriving DecidableEq, Repr

/-- Echo state of a path: the last marked arrival's stamp and capture (R161). -/
structure Echo where
  ts      : Ticks
  capture : Ticks
  deriving DecidableEq, Repr

/-- What delay measurement holds for one path (R161). -/
structure Delay where
  echo     : Option Echo := none
  lastEcho : Option Ticks := none
  runCount : Nat := 0
  runMin   : Option Nat := none
  rtt      : Option Nat := none
  deriving DecidableEq, Repr

/-- One of the 64 circuits: its table entry and its blocks. -/
structure Circuit where
  entry      : CircuitEntry := {}
  control    : Control := {}
  packetizer : Packetizer := {}
  merge      : Merge := {}
  buffer     : Buffer := {}
  recovery   : Recovery := {}
  delay      : Pair Delay := ⟨{}, {}⟩
  /-- In the order of R182. -/
  counters   : Vector Nat 16 := Vector.replicate 16 0
  /-- By flag code (R190); a CLEAR flag is `none`. -/
  flags      : Vector (Option Detail) 14 := Vector.replicate 14 none
  deriving DecidableEq, Repr

/-! ### A tributary -/

/-- A tributary table entry (R44). -/
structure TributaryEntry where
  framing   : Framing := .off
  clockMode : ClockMode := .free
  timing    : Fin 64 := 0
  idle      : Byte := 255
  enables   : BitVec 5 := BitVec.allOnes 5
  deriving DecidableEq, Repr

/-- The receive side of a line unit (section 1.1, R17): the states status shows, and the detectors' working counts. -/
structure LineUnit where
  signal        : SignalState := .lost
  alignment     : AlignmentState := .notFramed
  ais           : SeenState := .clear
  remoteAlarm   : SeenState := .clear
  source        : EventSource := .generated
  frameCount    : Ticks := 0
  /-- Run of zero bits while PRESENT (R2). -/
  zeroRun       : Nat := 0
  /-- Bits and ones of the clearing block in progress while LOST (R2). -/
  blockBits     : Nat := 0
  blockOnes     : Nat := 0
  /-- Bits and zeros of the AIS block in progress (R3). -/
  aisBits       : Nat := 0
  aisZeros      : Nat := 0
  erroredRun    : Nat := 0
  search        : SearchPhase := .idle
  /-- In HUNT, bits since it began; in a confirm phase, bits since the candidate's bit 2 (R4). -/
  searchBits    : Nat := 0
  /-- The last eight received bits, the newest lowest (log 23). -/
  recent        : BitVec 8 := 0
  /-- Bits of the frame in progress received so far, while the source is LINE (R8). -/
  frameBits     : Nat := 0
  /-- Whether the frame in progress is odd (section 1.3). -/
  oddFrame      : Bool := false
  /-- Whole octets of the frame in progress received so far. -/
  gathered      : List Byte := []
  lastIndicator : Option Bool := none
  alarmRun      : Nat := 0
  /-- LT of the previous receive frame event (R8). -/
  lastEvent     : Ticks := 0
  deriving DecidableEq, Repr

/-- The transmit side of a line unit (R11, R17) and its bit timing (R148, R149). A transmit frame start is due when the
256 bits of the frame in progress have been sent; one is due at power-on (log 6). -/
structure Transmit where
  parity  : Parity := .even
  /-- Whether a frame has begun since power-on. -/
  begun   : Bool := false
  frame   : List Byte := List.replicate 32 255
  bits    : Nat := 256
  /-- The part of the bit in progress already sent, in fine ticks of the source's time, of 4 × 2^27 (R149). -/
  bitTime : Nat := 0
  /-- The fine ticks of that source's time in one tick of LT, at which `bitTime` last advanced: a working value of the model's,
  by which the time since the latest bit edge is reckoned whatever the source has become since (R129, R149, log 32). -/
  tickRate : Nat := 2 ^ 27
  deriving DecidableEq, Repr

/-- What the tributary clocking block holds (R147). A pending write is `some refresh`, with its HOLDOVER refresh mark. -/
structure Clocking where
  inForce      : ClockMode := .free
  timing       : Fin 64 := 0
  pendingWrite : Option Bool := none
  actual       : ClockMode := .free
  holdover     : Int := 0
  valid        : Bool := false
  deriving DecidableEq, Repr

/-- One of the 16 tributaries. -/
structure Tributary where
  entry    : TributaryEntry := {}
  line     : LineUnit := {}
  transmit : Transmit := {}
  clocking : Clocking := {}
  flags    : Vector (Option Detail) 5 := Vector.replicate 5 none
  deriving DecidableEq, Repr

/-! ### A trunk port -/

/-- A port table entry (R47). -/
structure PortEntry where
  address   : Address
  accept    : Bool := true
  frameType : BitVec 16 := 0xB7A4
  enables   : BitVec 3 := BitVec.allOnes 3
  deriving DecidableEq, Repr

/-- The address and frame type value a port write replaced, and the LT of the write (R48, log 8). -/
structure EarlierValues where
  replacedAt : Ticks
  address   : Address
  frameType : BitVec 16
  deriving DecidableEq, Repr

/-- A copy waiting in a circuit queue (R76). Addresses, frame type and echo fields are those at departure. -/
structure Copy where
  circuit : Fin 64
  record  : PathRecord
  seq     : SeqNo
  ts      : Ticks
  frames  : Nat
  l       : Bool
  r       : Bool
  payload : List Byte
  deriving DecidableEq, Repr

/-- A response waiting in a management response queue: its destination and its octets from the common header on
(R174, R192, R194). -/
structure Response where
  destination : Address
  octets      : List Byte
  deriving DecidableEq, Repr

/-- An accepted management frame handed to execution and not yet executed (R88, R170): the source address it carried, its
request identifier and request count, and the octets of its request records. -/
structure AcceptedFrame where
  source     : Address
  identifier : BitVec 16
  count      : Nat
  records    : List Byte
  deriving DecidableEq, Repr

/-- One of the two trunk ports (R47, R79, R86, R90). Queues are oldest first. -/
structure PortState where
  entry         : PortEntry
  earlier       : List EarlierValues := []
  link          : UpDown := .down
  circuitQueue  : List Copy := []
  responseQueue : List Response := []
  /-- The frame being sent, if the port is sending one (R79). -/
  sending       : Option (List Byte) := none
  waiting       : List AcceptedFrame := []
  /-- In the order of R182. -/
  counters      : Vector Nat 6 := Vector.replicate 6 0
  flags         : Vector (Option Detail) 3 := Vector.replicate 3 none
  deriving DecidableEq, Repr

/-! ### Results of requests -/

/-- The codes of a result (R192). -/
inductive Code where
  | ok | badObject | badIndex | badValue | circuitActive | slotConflict | labelInUse | modeSequence | notReady
  | noMemory | wrongState | malformed | notExecuted
  deriving DecidableEq, Repr

/-- A result record (R192): what it echoes, its code, its request note and its data. -/
structure Result where
  verb    : Byte
  kind    : Byte
  index   : Byte
  code    : Code
  clamped : Bool := false
  data    : List Byte := []
  deriving DecidableEq, Repr

/-! ### The state -/

/-- The state of the part. `answer` is the result of the latest request, `draws` how many free choices have been made
(log 2), `pending` the commands that wait, first in first out. -/
structure State where
  lt          : Ticks := 0
  circuits    : Vector Circuit 64 := Vector.replicate 64 {}
  tributaries : Vector Tributary 16 := Vector.replicate 16 {}
  ports       : Pair PortState
  events      : List EventRecord := []
  overflow    : Bool := false
  answer      : Option Result := none
  draws       : Nat := 0
  pending     : List Instr := []
  deriving DecidableEq, Repr

/-- The faults of the part. The spec names no condition in which the part stops, so there is none: the type is empty, and
no step ever answers a fault (safe: nothing is claimed of a stop the hardware does not have). -/
inductive Fault where
  deriving DecidableEq, Repr

/-- The refusals of the model. -/
inductive Refusal where
  /-- Raised only by an arm of `exec` whose command has no meaning yet, by its mnemonic. Safe: the model stops where the
  hardware goes on. No arm of this model raises it. -/
  | notModelled (mnemonic : String)
  deriving DecidableEq, Repr

/-- The station address a port takes from the straps (R49): 0x02, 0x4C, 0x45, the unit number's high and low octets, and
0 for port A or 1 for port B. -/
def strapAddress (unit : BitVec 16) : Port → Address
  | .A => 0x024C45#24 ++ unit ++ 0#8
  | .B => 0x024C45#24 ++ unit ++ 1#8

/-- A trunk port at power-on (R49, R84, R86, R90). -/
def powerOnPort (unit : BitVec 16) (p : Port) : PortState := { entry := { address := strapAddress unit p } }

/-- The part as power-on leaves it, with the given unit number on the straps (R184). -/
def powerOnState (unit : BitVec 16) : State := { ports := ⟨powerOnPort unit .A, powerOnPort unit .B⟩ }

/-- The part right after reset: power-on with the straps at 0 (DESIGN CHOICE, log 5: the strapping is a board matter). -/
def State.reset : State := powerOnState 0

end Sys2Proof.Machine
end

