-- ==== Sys2Proof/Machine/Ops.lean ====
section
/-! DEFINITION. The shared operations: the arithmetic of time, stamps and limits (chapter 2), octet order (chapter 12),
timers (R27), counters (R182), and the named reads and writes of the parts of State. -/

namespace Sys2Proof.Machine

/-! ### Paths and ports -/

/-- The other path, or the other port. -/
def otherPort : Port → Port
  | .A => .B
  | .B => .A

/-- The component of a pair for a path or port. -/
def Pair.get {α : Type} (x : Pair α) : Port → α
  | .A => x.a
  | .B => x.b

/-- A pair with the component for one path or port replaced. -/
def Pair.set {α : Type} (x : Pair α) (p : Port) (v : α) : Pair α :=
  match p with
  | .A => { x with a := v }
  | .B => { x with b := v }

/-! ### Octets: most significant first (chapter 12) -/

/-- The `n` octets of a number, most significant first, modulo 256^n. -/
def octets : Nat → Nat → List Byte
  | 0, _ => []
  | n + 1, v => octets n (v / 256) ++ [BitVec.ofNat 8 v]

/-- The number that octets spell, most significant first. -/
def number (o : List Byte) : Nat := o.foldl (fun acc b => acc * 256 + b.toNat) 0

/-- A signed number in `n` octets of two's complement (R193). -/
def signedOctets (n : Nat) (v : Int) : List Byte := octets n (v % ((256 ^ n : Nat) : Int)).toNat

/-- The number in `n` octets at an offset. -/
def numberAt (o : List Byte) (offset n : Nat) : Nat := number ((o.drop offset).take n)

/-! ### Signed modulo differences and stamp arithmetic -/

/-- signed32(x − y) (R22). -/
def signed32 (x y : Ticks) : Int := (x - y).toInt

/-- signed16(q − u) (R23). -/
def signed16 (q u : SeqNo) : Int := (q - u).toInt

/-- "x has reached y" (R22). -/
def reached (x y : Ticks) : Bool := decide (0 ≤ signed32 x y)

/-- The stamp `k` packets of `f` frames after a stamp (R24, R25). -/
def stampAfter (ts : Ticks) (f : Nat) (k : Int) : Ticks := ts + BitVec.ofInt 32 (k * f * 1024)

/-- The expected stamp of sequence `q` from the reference pair (`u`, `ts`) (R24). -/
def expectedStamp (u : SeqNo) (ts : Ticks) (f : Nat) (q : SeqNo) : Ticks := stampAfter ts f (signed16 q u)

/-- A whole number of ticks in fine ticks, modulo 2^59 (R26). -/
def fineTicks (t : Int) : FineTicks := BitVec.ofInt 59 (t * 2 ^ 27)

/-- RT_int, the whole ticks of recovered time (R26). -/
def rtInt (rt : FineTicks) : Ticks := rt.extractLsb' 27 32

/-- The advance of a time base with an offset, in fine ticks, over a number of ticks of LT (R129, R148). -/
def fineAdvance (ticks offset : Int) : FineTicks := BitVec.ofInt 59 (ticks * (2 ^ 27 + offset))

/-! ### Durations and limits -/

/-- A duration given in seconds, in ticks (R27). -/
def secondsToTicks (n : Nat) : Nat := n * 8192000

/-- A duration given in packet periods of `f` frames, in ticks (R27). -/
def periodsToTicks (n f : Nat) : Nat := n * f * 1024

/-- The expiry value of a timer started at `lt` (R27). -/
def expiryAfter (lt : Ticks) (duration : Nat) : Ticks := lt + BitVec.ofNat 32 duration

/-- A timer expires when it is running and LT has reached its expiry value (R27). -/
def expired (lt : Ticks) : Option Ticks → Bool
  | none => false
  | some e => reached lt e

/-- A limit in microseconds, in ticks (R28). -/
def limitTicks (us : Nat) : Nat := us * 1024 / 125

/-- A measured magnitude exceeds a limit: the limit is not off and the value is strictly greater (R28). -/
def exceedsLimit (value us : Nat) : Bool := us != 0 && decide (limitTicks us < value)

/-- The mean of numbers rounded toward zero; absent for none (R104, R143). -/
def meanTowardZero (l : List Int) : Option Int :=
  if l.isEmpty then none else some (l.sum.tdiv l.length)

/-- A value taken into a range (R34, R136, R137). -/
def clampInt (low high v : Int) : Int := if v < low then low else if high < v then high else v

/-- A number taken into a range (R34). -/
def clampNat (low high v : Nat) : Nat := if v < low then low else if high < v then high else v

/-- A list with an entry added at its end, holding at most `n`: the oldest is removed for it (R77, R104, R114, R142). -/
def pushBounded {α : Type} (n : Nat) (l : List α) (x : α) : List α := (l ++ [x]).drop (l.length + 1 - n)

/-! ### Free choice -/

/-- `x` put into a list at a place. -/
def insertAt {α : Type} (x : α) : List α → Nat → List α
  | [], _ => [x]
  | y :: ys, 0 => x :: y :: ys
  | y :: ys, n + 1 => y :: insertAt x ys n

/-- A list in a free order: the first element's place among the rest is choice `n`, and so on (log 2). -/
def freeOrder {α : Type} : Nat → List α → List α
  | _, [] => []
  | n, x :: xs =>
    match freeOrder (n + 1) xs with
    | [] => [x]
    | ys => insertAt x ys (Config.choice n % (ys.length + 1))

/-! ### Counters -/

/-- The place of a circuit counter in the order of R182. -/
def CircuitCounter.place : CircuitCounter → Fin 16
  | .received .A => 0
  | .received .B => 1
  | .firstCopies => 2
  | .duplicates => 3
  | .late => 4
  | .lost => 5
  | .overrun => 6
  | .stampMismatch => 7
  | .malformed => 8
  | .repeatSlips => 9
  | .deleteSlips => 10
  | .substitutedFrames => 11
  | .sent .A => 12
  | .sent .B => 13
  | .notSent .A => 14
  | .notSent .B => 15

/-- The place of a port counter in the order of R182. -/
def PortCounter.place : PortCounter → Fin 6
  | .framesReceived => 0
  | .badFrames => 1
  | .unknownLabel => 2
  | .managementFrames => 3
  | .managementDiscarded => 4
  | .txDrops => 5

/-- A counter counts upward and holds at 4,294,967,295 (R182). -/
def countUp (n : Nat) : Nat := if n < 4294967295 then n + 1 else n

/-- One counter of a row counted up. -/
def bump {n : Nat} (v : Vector Nat n) (i : Fin n) : Vector Nat n := v.set i.val (countUp v[i.val])

/-! ### Parts of the state -/

/-- All circuits, in ascending index. -/
def allCircuits : List (Fin 64) := List.finRange 64

/-- All tributaries, in ascending index. -/
def allTributaries : List (Fin 16) := List.finRange 16

/-- A circuit of the state. -/
def State.circuit (s : State) (c : Fin 64) : Circuit := s.circuits[c.val]

/-- A tributary of the state. -/
def State.tributary (s : State) (t : Fin 16) : Tributary := s.tributaries[t.val]

/-- A trunk port of the state. -/
def State.port (s : State) (p : Port) : PortState := s.ports.get p

/-- One circuit changed. -/
def State.onCircuit (s : State) (c : Fin 64) (f : Circuit → Circuit) : State :=
  { s with circuits := s.circuits.set c.val (f (s.circuit c)) }

/-- One tributary changed. -/
def State.onTributary (s : State) (t : Fin 16) (f : Tributary → Tributary) : State :=
  { s with tributaries := s.tributaries.set t.val (f (s.tributary t)) }

/-- One trunk port changed. -/
def State.onPort (s : State) (p : Port) (f : PortState → PortState) : State :=
  { s with ports := s.ports.set p (f (s.port p)) }

/-- Circuit control of one circuit changed. -/
def State.onControl (s : State) (c : Fin 64) (f : Control → Control) : State :=
  s.onCircuit c (fun k => { k with control := f k.control })

/-- Arrival and merge of one circuit changed. -/
def State.onMerge (s : State) (c : Fin 64) (f : Merge → Merge) : State :=
  s.onCircuit c (fun k => { k with merge := f k.merge })

/-- The playout buffer of one circuit changed. -/
def State.onBuffer (s : State) (c : Fin 64) (f : Buffer → Buffer) : State :=
  s.onCircuit c (fun k => { k with buffer := f k.buffer })

/-- Clock recovery of one circuit changed. -/
def State.onRecovery (s : State) (c : Fin 64) (f : Recovery → Recovery) : State :=
  s.onCircuit c (fun k => { k with recovery := f k.recovery })

/-- The packetizer of one circuit changed. -/
def State.onPacketizer (s : State) (c : Fin 64) (f : Packetizer → Packetizer) : State :=
  s.onCircuit c (fun k => { k with packetizer := f k.packetizer })

/-- Delay measurement of one path of one circuit changed. -/
def State.onDelay (s : State) (c : Fin 64) (p : Port) (f : Delay → Delay) : State :=
  s.onCircuit c (fun k => { k with delay := k.delay.set p (f (k.delay.get p)) })

/-- The receive side of one line unit changed. -/
def State.onLine (s : State) (t : Fin 16) (f : LineUnit → LineUnit) : State :=
  s.onTributary t (fun k => { k with line := f k.line })

/-- The transmit side of one line unit changed. -/
def State.onTransmit (s : State) (t : Fin 16) (f : Transmit → Transmit) : State :=
  s.onTributary t (fun k => { k with transmit := f k.transmit })

/-- The clocking block of one tributary changed. -/
def State.onClocking (s : State) (t : Fin 16) (f : Clocking → Clocking) : State :=
  s.onTributary t (fun k => { k with clocking := f k.clocking })

/-- A circuit counter increased by one (R182). -/
def State.count (s : State) (c : Fin 64) (k : CircuitCounter) : State :=
  s.onCircuit c (fun x => { x with counters := bump x.counters k.place })

/-- A port counter increased by one (R182). -/
def State.countPort (s : State) (p : Port) (k : PortCounter) : State :=
  s.onPort p (fun x => { x with counters := bump x.counters k.place })

/-- A command's change applied to each of a list of objects in turn. -/
def forEach {α : Type} (l : List α) (f : α → State → State) (s : State) : State := l.foldl (fun s x => f x s) s

/-! ### A circuit's size and place on its tributary -/

/-- Timeslots of a slot set, ascending (R10, R13). -/
def slotsOf (m : BitVec 32) : List Nat := (List.range 32).filter (fun k => m.getLsbD k)

/-- A circuit is engaged: its state is other than DISABLED (R38). -/
def Circuit.engaged (k : Circuit) : Bool := k.control.state != .disabled

/-- The circuit's table entry names the tributary. -/
def Circuit.names (k : Circuit) (t : Fin 16) : Bool := k.entry.tributary == some t

/-- n, the octets a circuit carries from each frame: the timeslots of its slot set on a FRAMED tributary, 32 on an
UNFRAMED one (R30, R41). -/
def octetsPerFrame (framing : Framing) (e : CircuitEntry) : Nat :=
  match framing with
  | .framed => (slotsOf e.slotSet).length
  | .unframed => 32
  | .off => 0

/-- The framing of the tributary an entry names; OFF when it names none. -/
def State.framingOf (s : State) (e : CircuitEntry) : Framing :=
  match e.tributary with
  | none => .off
  | some t => (s.tributary t).entry.framing

/-- n of a circuit as the tables stand. -/
def State.width (s : State) (c : Fin 64) : Nat :=
  octetsPerFrame (s.framingOf (s.circuit c).entry) (s.circuit c).entry

/-- The memory a circuit reserves: depth × P, with P the payload F × n rounded up to a multiple of 64 (R41). -/
def reservationSize (framing : Framing) (e : CircuitEntry) : Nat :=
  e.depth * ((e.frames * octetsPerFrame framing e + 63) / 64 * 64)

/-- The total memory reserved, over the circuits not DISABLED (R54, R176). -/
def State.totalReserved (s : State) : Nat :=
  (allCircuits.map (fun c => if (s.circuit c).engaged then (s.circuit c).control.reserved else 0)).sum

/-- The size of the shared packet memory in octets (R54). -/
def packetMemory : Nat := 2097152

end Sys2Proof.Machine
end

