-- ==== Sys2Proof/Machine/Flags.lean ====
section
/-! DEFINITION. Sticky flags, their details and codes, and the event queue (section 11.3, R180, R181, R190, R193). -/

namespace Sys2Proof.Machine

/-! ### Codes -/

/-- The code of a circuit flag (R190). -/
def CircuitFlag.code : CircuitFlag → Fin 14
  | .stateChanged => 0
  | .engageTimeout => 1
  | .lockGained => 2
  | .lockLost => 3
  | .pathChange .A => 4
  | .pathChange .B => 5
  | .pathSwitch => 6
  | .delayStep => 7
  | .farEndRestart => 8
  | .delayLimit => 9
  | .skewLimit => 10
  | .slip => 11
  | .remoteFault => 12
  | .localFaultSeen => 13

/-- The code of a tributary flag (R190). -/
def TributaryFlag.code : TributaryFlag → Fin 5
  | .signalChange => 0
  | .alignChange => 1
  | .aisChange => 2
  | .remoteAlarmChange => 3
  | .clockModeChange => 4

/-- The code of a port flag (R190). -/
def PortFlag.code : PortFlag → Fin 3
  | .linkChange => 0
  | .txDrop => 1
  | .mgmtDrop => 2

/-- The code of a circuit state (R193). -/
def CircuitState.code : CircuitState → Nat
  | .disabled => 0
  | .awaiting => 1
  | .acquiring => 2
  | .playing => 3
  | .starved => 4

/-- The code of a path, or of none (R193). -/
def pathCode : Option Port → Nat
  | none => 0
  | some .A => 1
  | some .B => 2

/-- The code of a path or link state (R193). -/
def UpDown.code : UpDown → Nat
  | .down => 0
  | .up => 1

/-- The code of a clock mode, as the requested clock mode field has it (R190, R193). -/
def ClockMode.code : ClockMode → Nat
  | .free => 0
  | .loop => 1
  | .adaptive => 2
  | .holdover => 3

/-- The codes of the line states (R193). -/
def SignalState.code : SignalState → Nat
  | .lost => 0
  | .present => 1

/-- The codes of the line states (R193). -/
def AlignmentState.code : AlignmentState → Nat
  | .searching => 0
  | .aligned => 1
  | .notFramed => 2

/-- The codes of the line states (R193). -/
def SeenState.code : SeenState → Nat
  | .clear => 0
  | .seen => 1

/-- The code of a slip kind (R193). -/
def SlipKind.code : SlipKind → Nat
  | .delete => 0
  | .repeated => 1

/-- The octet of a detail: 255 for none (R193). -/
def Detail.octet : Detail → Byte
  | .none => 255
  | .circuitState st => BitVec.ofNat 8 st.code
  | .path p => BitVec.ofNat 8 (pathCode (some p))
  | .upDown st => BitVec.ofNat 8 st.code
  | .signal st => BitVec.ofNat 8 st.code
  | .alignment st => BitVec.ofNat 8 st.code
  | .seen st => BitVec.ofNat 8 st.code
  | .clockMode m => BitVec.ofNat 8 m.code
  | .slip k => BitVec.ofNat 8 k.code
  | .circuit c => BitVec.ofNat 8 c.val

/-- The index octet of a port: 0 is A and 1 is B (R190). -/
def portIndex : Port → Nat
  | .A => 0
  | .B => 1

/-- The object kind, index and flag octets of an event record: the codes of R190 for the object (R193, log 20). -/
def FlagRef.octets : FlagRef → List Byte
  | .circuit c f => [4, BitVec.ofNat 8 c.val, BitVec.ofNat 8 f.code.val]
  | .tributary t f => [5, BitVec.ofNat 8 t.val, BitVec.ofNat 8 f.code.val]
  | .port p f => [6, BitVec.ofNat 8 (portIndex p), BitVec.ofNat 8 f.code.val]

/-! ### Reading and setting -/

/-- A flag: CLEAR (`none`) or SET with its detail. -/
def State.flag (s : State) : FlagRef → Option Detail
  | .circuit c f => (s.circuit c).flags[f.code.val]
  | .tributary t f => (s.tributary t).flags[f.code.val]
  | .port p f => (s.port p).flags[f.code.val]

/-- Whether a flag's name is in the event enables of its object (R180). -/
def State.enabled (s : State) : FlagRef → Bool
  | .circuit c f => (s.circuit c).entry.enables.getLsbD f.code.val
  | .tributary t f => (s.tributary t).entry.enables.getLsbD f.code.val
  | .port p f => (s.port p).entry.enables.getLsbD f.code.val

/-- A flag given a value. -/
def State.withFlag (s : State) (r : FlagRef) (v : Option Detail) : State :=
  match r with
  | .circuit c f => s.onCircuit c (fun k => { k with flags := k.flags.set f.code.val v })
  | .tributary t f => s.onTributary t (fun k => { k with flags := k.flags.set f.code.val v })
  | .port p f => s.onPort p (fun k => { k with flags := k.flags.set f.code.val v })

/-- A record joins the tail of the event queue when it holds fewer than 64; otherwise it is discarded and the overflow
indicator becomes SET (R181). -/
def State.queueRecord (s : State) (r : EventRecord) : State :=
  if s.events.length < 64 then { s with events := s.events ++ [r] } else { s with overflow := true }

/-- A rule sets a flag (R180): a SET flag stays as it is; a CLEAR one becomes SET with the detail and, if its enable is on,
queues a record. -/
def State.raise (s : State) (r : FlagRef) (d : Detail) : State :=
  match s.flag r with
  | some _ => s
  | none =>
    if s.enabled r then (s.withFlag r (some d)).queueRecord ⟨r, s.lt, d⟩ else s.withFlag r (some d)

/-- A circuit flag set. -/
def State.raiseCircuit (s : State) (c : Fin 64) (f : CircuitFlag) (d : Detail) : State := s.raise (.circuit c f) d

/-- A tributary flag set. -/
def State.raiseTributary (s : State) (t : Fin 16) (f : TributaryFlag) (d : Detail) : State := s.raise (.tributary t f) d

/-- A port flag set. -/
def State.raisePort (s : State) (p : Port) (f : PortFlag) (d : Detail) : State := s.raise (.port p f) d

/-- The set flags of an object as a mask of 4 octets and then one detail octet for each, in bit order (R193). -/
def flagOctets {n : Nat} (flags : Vector (Option Detail) n) : List Byte :=
  octets 4 ((flags.toList.zipIdx.map (fun x => if x.1.isSome then 2 ^ x.2 else 0)).sum)
    ++ flags.toList.filterMap (fun x => x.map Detail.octet)

/-- The flags whose bits are in a mask cleared (R178). -/
def clearMasked {n : Nat} (mask : BitVec 32) (flags : Vector (Option Detail) n) : Vector (Option Detail) n :=
  flags.mapIdx (fun i x => if mask.getLsbD i then none else x)

/-- A mask names no flag beyond the object's own (R178, R191). -/
def maskFits (n : Nat) (mask : BitVec 32) : Bool := decide (mask.toNat < 2 ^ n)

end Sys2Proof.Machine
end

