-- ==== Sys2Proof/Machine/Clocking.lean ====
section
/-! DEFINITION. Tributary transmit clocking (chapter 9): clock modes, the holdover value, the transmit bit timing. -/

namespace Sys2Proof.Machine

/-- The timing circuit of a tributary: the timing circuit in force, while its tributary field names the tributary (R147). -/
def State.timingCircuit (s : State) (t : Fin 16) : Option (Fin 64) :=
  if (s.circuit (s.tributary t).clocking.timing).names t then some (s.tributary t).clocking.timing else none

/-- The history mean of a circuit (R143). -/
def Recovery.mean (r : Recovery) : Option Int := meanTowardZero r.history

/-- One transmit bit in fine ticks of its source's time: 4 ticks (R148, R149). -/
def bitFine : Nat := 2 ^ 29

/-- The bit in progress when LOOP gives way to another source (R149). Of a bit that began less than 4 ticks ago the fraction
sent is kept (`bitTime` stays); of one that began 4 ticks ago or more the fraction is 1 and nothing remains, so the bit ends at
the change and the next begins there. -/
def Transmit.leaveLoop (x : Transmit) : Transmit :=
  if bitFine ≤ x.bitTime then { x with bits := x.bits + 1, bitTime := 0 } else x

/-- The actual mode given, with what the change does to the bit in progress (R149): between two sources of the part's own, and
to LOOP, the fraction already sent is kept (`bitTime` stays). DESIGN CHOICE (log 29): a bit that meets two or more changes keeps
the sum of the fractions its sources have sent. -/
def Tributary.changeMode (k : Tributary) (m : ClockMode) : Tributary :=
  { k with
    clocking := { k.clocking with actual := m }
    transmit := if k.clocking.actual = .loop ∧ m ≠ .loop then k.transmit.leaveLoop else k.transmit }

/-- The actual mode changed: a change sets CLOCK_MODE_CHANGE with the new mode (R156). -/
def State.setActual (s : State) (t : Fin 16) (m : ClockMode) : State :=
  if (s.tributary t).clocking.actual = m then s
  else (s.onTributary t (fun k => k.changeMode m)).raiseTributary t .clockModeChange (.clockMode m)

/-- H set from a history mean (R151, R153). -/
def State.setHoldover (s : State) (t : Fin 16) (h : Int) : State :=
  s.onClocking t (fun k => { k with holdover := h, valid := true })

/-- R153: circuit `c` leaves PLAYING, with its FREQ history mean as it stood. A tributary whose timing circuit it is and
whose actual mode is ADAPTIVE goes to HOLDOVER with H the mean, or to FREE when the history is empty. -/
def State.timingLeavesPlaying (s : State) (c : Fin 64) (mean : Option Int) : State :=
  match (s.circuit c).entry.tributary with
  | none => s
  | some t =>
    if (s.tributary t).clocking.timing = c ∧ (s.tributary t).clocking.actual = .adaptive then
      match mean with
      | some h => (s.setHoldover t h).setActual t .holdover
      | none => s.setActual t .free
    else s

/-- R153 for a circuit that was in the given state: nothing when it was not PLAYING. -/
def State.leavesPlaying (s : State) (c : Fin 64) (was : CircuitState) (mean : Option Int) : State :=
  if was = .playing then s.timingLeavesPlaying c mean else s

/-- R155: the receive signal state has changed while LOOP is in force. -/
def State.loopFollows (s : State) (t : Fin 16) : State :=
  let k := s.tributary t
  if k.clocking.inForce = .loop then
    match k.line.signal, k.clocking.actual with
    | .lost, .loop => s.setActual t .free
    | .present, .free => s.setActual t .loop
    | _, _ => s
  else s

/-- R151 step 2: H is recomputed when the applied write carried the refresh mark and the timing circuit has a history. -/
def State.refreshHoldover (s : State) (t : Fin 16) : State :=
  match s.timingCircuit t with
  | none => s
  | some c =>
    match (s.circuit c).recovery.mean with
    | none => s
    | some h => s.setHoldover t h

/-- R151: a transmit frame start applies the table to the block. -/
def State.applyClockTable (s : State) (t : Fin 16) : State :=
  let pending := (s.tributary t).clocking.pendingWrite
  let s := s.onTributary t (fun k => { k with clocking :=
    { k.clocking with inForce := k.entry.clockMode, timing := k.entry.timing, pendingWrite := none } })
  if pending = some true then s.refreshHoldover t else s

/-- The timing circuit in force names the tributary, is PLAYING and its lock is LOCKED (R152). -/
def State.adaptiveReady (s : State) (t : Fin 16) : Bool :=
  match s.timingCircuit t with
  | none => false
  | some c => (s.circuit c).control.state == .playing && (s.circuit c).recovery.locked

/-- The timing circuit in force names the tributary and is PLAYING (R152: a tributary already ADAPTIVE keeps it). -/
def State.adaptiveKept (s : State) (t : Fin 16) : Bool :=
  match s.timingCircuit t with
  | none => false
  | some c => (s.circuit c).control.state == .playing

/-- R152: the actual mode a transmit frame start gives, from the mode in force. -/
def State.judgedMode (s : State) (t : Fin 16) : ClockMode :=
  let k := (s.tributary t).clocking
  match k.inForce with
  | .free => .free
  | .holdover => if k.valid then .holdover else .free
  | .loop => if (s.tributary t).line.signal = .present then .loop else .free
  | .adaptive =>
    if s.adaptiveReady t then .adaptive
    else
      match k.actual with
      | .free => .free
      | .holdover => .holdover
      | .loop => .free
      | .adaptive => if s.adaptiveKept t then .adaptive else .free

/-- R159: the mode in force, timing circuit in force and actual mode recomputed by a soft restart, with no refresh and no
flag. -/
def Tributary.recomputed (k : Tributary) : Tributary :=
  let actual : ClockMode :=
    match k.entry.clockMode with
    | .free => .free
    | .holdover => if k.clocking.valid then .holdover else .free
    | .adaptive => if k.clocking.valid then .holdover else .free
    | .loop => if k.line.signal = .present then .loop else .free
  ({ k with clocking :=
    { k.clocking with inForce := k.entry.clockMode, timing := k.entry.timing, pendingWrite := none } } : Tributary).changeMode actual

/-- The offset applied to the transmit rate, in units of 2^-27; absent in LOOP (R148, R157). -/
def State.rateOffset (s : State) (t : Fin 16) : Option Int :=
  match (s.tributary t).clocking.actual with
  | .free => some 0
  | .loop => none
  | .adaptive => some (s.circuit (s.tributary t).clocking.timing).recovery.freq
  | .holdover => some (s.tributary t).clocking.holdover

/-- The fine ticks in one tick of LT of a time base with the given offset in units of 2^-27 (R129, R148). -/
def fineRate (offset : Int) : Nat := ((2 ^ 27 : Int) + offset).toNat

/-- The fine ticks of its own time by which the source of the tributary's bit timing advanced over the latest tick of LT (R148); in
LOOP LT's own. A FREQ made since that tick governs the ticks that follow (R138, R145), so that the timing circuit counts with the
FREQ of that tick. -/
def State.sourceRate (s : State) (t : Fin 16) : Nat :=
  let k := (s.tributary t).clocking
  match k.actual with
  | .free => fineRate 0
  | .loop => fineRate 0
  | .adaptive => fineRate (s.circuit k.timing).recovery.tickFreq
  | .holdover => fineRate k.holdover

/-- One tick of LT passes for the transmit bit timing (R148, R149). A bit ends when its source's time has advanced by
4 ticks since it began, and the next begins there; in LOOP the elapsed LT is kept, at most one bit, and the bit ends at a
bit of the receive clock. The rate at which the time advanced is kept (log 32). -/
def Transmit.tick (x : Transmit) : Option Int → Transmit
  | none => { x with bitTime := min (x.bitTime + fineRate 0) bitFine, tickRate := fineRate 0 }
  | some offset =>
    let now := x.bitTime + fineRate offset
    if bitFine ≤ now then { x with bits := x.bits + 1, bitTime := now - bitFine, tickRate := fineRate offset }
    else { x with bitTime := now, tickRate := fineRate offset }

/-- A bit of the receive clock ends the transmit bit in progress while LOOP is the actual mode (R148). DESIGN CHOICE (log 26):
a transmit frame start is an event of its own, taken from the queue or on an empty one, so that bits received before it is taken
count on past 256 into the frame it begins. -/
def State.loopBit (s : State) (t : Fin 16) : State :=
  if (s.tributary t).clocking.actual = .loop then
    s.onTransmit t (fun x => { x with bits := x.bits + 1, bitTime := 0 })
  else s

end Sys2Proof.Machine
end

