-- ==== Sys2Proof/Machine/Packetizer.lean ====
section
/-! DEFINITION. Building circuit packets (chapter 5): the packetizer, copies, the send log, the circuit queues. -/

namespace Sys2Proof.Machine

/-- The octets a circuit takes from a frame of 32 (R10, R74): on a FRAMED tributary those of its slot set in ascending
slot number, on an UNFRAMED one all of them. -/
def takeOctets (framing : Framing) (e : CircuitEntry) (frame : List Byte) : List Byte :=
  match framing with
  | .framed => (slotsOf e.slotSet).map (fun k => frame.getD k 0)
  | .unframed => frame
  | .off => []

/-- A frame added to the packet under assembly; an ARMED packetizer, or a COLLECTING one with no packet open, opens the
packet with the event's stamp as TS and its fault mark (R73, R74, R75). -/
def Packetizer.addFrame (z : Packetizer) (stamp : Ticks) (octets : List Byte) (faulted : Bool) : Packetizer :=
  match z.phase with
  | .idle => z
  | _ =>
    let a : Assembly := z.assembly.getD ⟨stamp, 0, [], false⟩
    { z with phase := .collecting, assembly := some ⟨a.ts, a.taken + 1, a.octets ++ octets, a.faulted || faulted⟩ }

/-- A marked packet: its sequence number modulo 64 is 0 (section 5.4). -/
def marked (seq : SeqNo) : Bool := seq.toNat % 64 == 0

/-- Flag R of a packet completed in a circuit state (R68): clear in PLAYING, set in the others. -/
def flagR (st : CircuitState) : Bool := st != .playing

/-- R78: a copy joins the tail of a port's circuit queue when it holds fewer than 64; otherwise it is discarded, tx drops
counts one and TX_DROP is set with the circuit's index. -/
def State.queueCopy (s : State) (p : Port) (x : Copy) : State :=
  if (s.port p).circuitQueue.length < 64 then
    s.onPort p (fun k => { k with circuitQueue := k.circuitQueue ++ [x] })
  else (s.countPort p .txDrops).raisePort p .txDrop (.circuit x.circuit)

/-- R76: a completed packet on one path: a copy when the record is present and the port's link is UP, a not-sent count
when the record is present and the link DOWN, nothing when the record is absent. -/
def State.makeCopy (s : State) (c : Fin 64) (a : Assembly) (seq : SeqNo) (r : Bool) (p : Port) : State :=
  match (s.circuit c).entry.paths.get p with
  | none => s
  | some record =>
    match (s.port p).link with
    | .up => s.queueCopy p
        { circuit := c, record := record, seq := seq, ts := a.ts, frames := (s.circuit c).entry.frames,
          l := a.faulted, r := r, payload := a.octets }
    | .down => s.count c (.notSent p)

/-- R75, R76, R77: the packet under assembly is complete: a send log entry if it is marked, its copies, and the next
sequence number advances with no packet open. DESIGN CHOICE (log 27): the copy of path A is made before the copy of path B. -/
def State.completePacket (s : State) (c : Fin 64) (a : Assembly) : State :=
  let z := (s.circuit c).packetizer
  let r := flagR (s.circuit c).control.state
  let log := if marked z.nextSeq then pushBounded 32 z.sendLog ⟨a.ts, ⟨none, none⟩⟩ else z.sendLog
  let s := s.onPacketizer c (fun z => { z with nextSeq := z.nextSeq + 1, assembly := none, sendLog := log })
  (s.makeCopy c a z.nextSeq r .A).makeCopy c a z.nextSeq r .B

/-- R10, R73 to R75: a receive frame event reaches the packetizer of one circuit. -/
def State.collectFrame (s : State) (c : Fin 64) (stamp : Ticks) (frame : List Byte) (faulted : Bool) : State :=
  let k := s.circuit c
  let z := k.packetizer.addFrame stamp (takeOctets (s.framingOf k.entry) k.entry frame) faulted
  let s := s.onPacketizer c (fun _ => z)
  match z.assembly with
  | none => s
  | some a => if k.entry.frames ≤ a.taken then s.completePacket c a else s

/-- R9, R10: a receive frame event hands its frame, stamp and fault mark to the packetizer of every non-DISABLED circuit
that names the tributary, in ascending index (log 12); then the receive frame count advances by 1024. -/
def State.receiveFrame (s : State) (t : Fin 16) (frame : List Byte) (faulted : Bool) : State :=
  let stamp := (s.tributary t).line.frameCount
  let s := forEach allCircuits (fun c s =>
    if (s.circuit c).engaged && (s.circuit c).names t then s.collectFrame c stamp frame faulted else s) s
  s.onLine t (fun u => { u with frameCount := stamp + 1024, lastEvent := s.lt })

/-- LT_sent of a path recorded in the entry of a stamp, if the log still holds it (R77, R81). -/
def recordSent (log : List SendLogEntry) (ts : Ticks) (p : Port) (lt : Ticks) : List SendLogEntry :=
  log.map (fun e => if e.ts = ts then { e with sent := e.sent.set p (some lt) } else e)

/-- R56 step 1: the copies of a circuit leave the circuit queues of both ports, neither sent nor counted. -/
def State.removeCopies (s : State) (c : Fin 64) : State :=
  let strip : PortState → PortState := fun k => { k with circuitQueue := k.circuitQueue.filter (fun x => x.circuit != c) }
  (s.onPort .A strip).onPort .B strip

end Sys2Proof.Machine
end

