-- ==== Sys2Proof/Machine/Measurement.lean ====
section
/-! DEFINITION. Delay and skew measurement (chapter 10, R103, R104, R161 to R167). -/

namespace Sys2Proof.Machine

/-- A marked arrival becomes the path's echo state, unless its stamp is the one already held (R163 part 1). -/
def Delay.echoArrival (d : Delay) (ts capture : Ticks) : Delay :=
  match d.echo with
  | some e => if e.ts = ts then d else { d with echo := some ⟨ts, capture⟩ }
  | none => { d with echo := some ⟨ts, capture⟩ }

/-- The RTT sample of an echo found in the send log (R164, R165): none when it is discarded. -/
def rttSample (log : List SendLogEntry) (p : Port) (echoTs capture : Ticks) (echoAge : Nat) : Option Nat :=
  match log.find? (fun e => e.ts == echoTs) with
  | none => none
  | some e =>
    match e.sent.get p with
    | none => none
    | some sent =>
      if echoAge = 65535 then none
      else
        let x := capture - sent - BitVec.ofNat 32 echoAge
        if 0 < x.toInt then some x.toNat else none

/-- A kept sample entered into a path's run, before publication (R166). -/
def Delay.keep (d : Delay) (x : Nat) : Delay :=
  { d with runCount := d.runCount + 1, runMin := some (match d.runMin with | none => x | some m => min m x) }

/-- R166, R167: a run of 16 samples publishes its minimum as the path's RTT, which is compared with the RTT limit. -/
def State.publishRtt (s : State) (c : Fin 64) (p : Port) (m : Nat) : State :=
  let s := s.onDelay c p (fun d => { d with rtt := some m, runCount := 0, runMin := none })
  if exceedsLimit m (s.circuit c).entry.rttLimit then s.raiseCircuit c .delayLimit (.path p) else s

/-- R166: a kept sample enters the path's run; the sixteenth completes it. -/
def State.keepRtt (s : State) (c : Fin 64) (p : Port) (x : Nat) : State :=
  let d := ((s.circuit c).delay.get p).keep x
  let s := s.onDelay c p (fun _ => d)
  if 16 ≤ d.runCount then s.publishRtt c p (d.runMin.getD x) else s

/-- R163 part 2: the echo fields of an arrival with E set are examined unless its echo TS is the last one taken. -/
def State.examineEcho (s : State) (c : Fin 64) (p : Port) (echoTs capture : Ticks) (echoAge : Nat) : State :=
  if ((s.circuit c).delay.get p).lastEcho = some echoTs then s
  else
    let s := s.onDelay c p (fun d => { d with lastEcho := some echoTs })
    match rttSample (s.circuit c).packetizer.sendLog p echoTs capture echoAge with
    | none => s
    | some x => s.keepRtt c p x

/-- The skew estimate (R104). -/
def Merge.skewEstimate (m : Merge) : Option Int := meanTowardZero m.skewSamples

/-- R103, R104: a skew sample is added, at most 8 held, and the new estimate compared with the skew limit. -/
def State.skewSample (s : State) (c : Fin 64) (x : Int) : State :=
  let s := s.onMerge c (fun m => { m with skewSamples := pushBounded 8 m.skewSamples x })
  match (s.circuit c).merge.skewEstimate with
  | none => s
  | some e => if exceedsLimit e.natAbs (s.circuit c).entry.skewLimit then s.raiseCircuit c .skewLimit .none else s

end Sys2Proof.Machine
end

