-- ==== Sys2Proof/Machine/Paths.lean ====
section
/-! DEFINITION. Path supervision, the active path and the restore hold-off (sections 6.4 and 6.5, R92 to R97). -/

namespace Sys2Proof.Machine

/-- The preferred path of a policy; none under MERGE (R94). -/
def Policy.preferred : Policy → Option Port
  | .merge => none
  | .preferA => some .A
  | .preferB => some .B

/-- The active path set afresh (R43, R95): under PREFER the preferred path if it is UP, else the other if it is UP, else
none; under MERGE none. -/
def freshActive (policy : Policy) (up : Pair UpDown) : Option Port :=
  match policy.preferred with
  | none => none
  | some p =>
    if up.get p = .up then some p else if up.get (otherPort p) = .up then some (otherPort p) else none

/-- On every entry to AWAITING or ACQUIRING the active path is set afresh and any restore hold-off is stopped (R95). -/
def State.refreshActive (s : State) (c : Fin 64) : State :=
  let policy := (s.circuit c).entry.policy
  s.onMerge c (fun m => { m with active := freshActive policy m.up, holdOff := none })

/-- The active path passes from one path to the other: PATH_SWITCH with the new active path (R96), and any hold-off ends
(R97). -/
def State.switchActive (s : State) (c : Fin 64) (p : Port) : State :=
  (s.onMerge c (fun m => { m with active := some p, holdOff := none })).raiseCircuit c .pathSwitch (.path p)

/-- R97: the restore hold-off starts; one of 0 s expires at once. -/
def State.startHoldOff (s : State) (c : Fin 64) (preferred : Port) : State :=
  let seconds := (s.circuit c).entry.restoreHoldOff
  if seconds = 0 then s.switchActive c preferred
  else s.onMerge c (fun m => { m with holdOff := some (expiryAfter s.lt (secondsToTicks seconds)) })

/-- R95, R96: the active path after a path of an engaged circuit has come UP. -/
def State.activeAfterUp (s : State) (c : Fin 64) (p : Port) : State :=
  let k := s.circuit c
  match k.entry.policy.preferred with
  | none => s
  | some preferred =>
    match k.control.state with
    | .disabled => s
    | .awaiting | .acquiring => s.onMerge c (fun m => { m with active := freshActive k.entry.policy m.up })
    | .playing | .starved =>
      match k.merge.active with
      | none => s.onMerge c (fun m => { m with active := some p })
      | some a => if p = preferred ∧ a ≠ preferred then s.startHoldOff c preferred else s

/-- R95, R96, R97: the active path and the hold-off after a path of an engaged circuit has gone DOWN. -/
def State.activeAfterDown (s : State) (c : Fin 64) (p : Port) : State :=
  let k := s.circuit c
  match k.entry.policy.preferred with
  | none => s
  | some preferred =>
    match k.control.state with
    | .disabled => s
    | .awaiting | .acquiring => s.onMerge c (fun m => { m with active := freshActive k.entry.policy m.up })
    | .playing | .starved =>
      if k.merge.active = some p then
        if k.merge.up.get (otherPort p) = .up then s.switchActive c (otherPort p)
        else s.onMerge c (fun m => { m with active := none })
      else if p = preferred then s.onMerge c (fun m => { m with holdOff := none })
      else s

/-- R92: a path that is DOWN comes UP, with its change flag, and the active path follows. Its timer is (re)started in
either case. -/
def State.pathAlive (s : State) (c : Fin 64) (p : Port) : State :=
  let k := s.circuit c
  let timer := expiryAfter s.lt (periodsToTicks k.entry.pathTimeout k.entry.frames)
  let was := k.merge.up.get p
  let s := s.onMerge c (fun m => { m with up := m.up.set p .up, timers := m.timers.set p (some timer) })
  match was with
  | .up => s
  | .down => (s.raiseCircuit c (.pathChange p) (.upDown .up)).activeAfterUp c p

/-- R92, R93: a path that is UP goes DOWN: its timer is stopped, its change flag set, and the active path follows. A path
that is DOWN is left as it is. -/
def State.pathDown (s : State) (c : Fin 64) (p : Port) : State :=
  match (s.circuit c).merge.up.get p with
  | .down => s
  | .up =>
    let s := s.onMerge c (fun m => { m with up := m.up.set p .down, timers := m.timers.set p none })
    (s.raiseCircuit c (.pathChange p) (.upDown .down)).activeAfterDown c p

/-- PATH_TIMER_EXPIRY (R92): a running path timer whose expiry LT has reached takes the path DOWN; otherwise no expiry
occurs (log 4). -/
def execPathTimerExpiry (c : Fin 64) (p : Port) (s : State) : Host.Outcome State Fault Refusal :=
  .next (if expired s.lt ((s.circuit c).merge.timers.get p) then s.pathDown c p else s)

/-- RESTORE_HOLD_OFF_EXPIRY (R97): the preferred path becomes the active path, with PATH_SWITCH, and the hold-off stops;
without an expired hold-off nothing occurs (log 4). -/
def execRestoreHoldOffExpiry (c : Fin 64) (s : State) : Host.Outcome State Fault Refusal :=
  .next (
    if expired s.lt (s.circuit c).merge.holdOff then
      match (s.circuit c).entry.policy.preferred with
      | none => s.onMerge c (fun m => { m with holdOff := none })
      | some p => s.switchActive c p
    else s)

/-- The sampling paths (R94): whether a path of a circuit is one, as the arrival is taken. -/
def Circuit.samples (k : Circuit) (p : Port) : Bool :=
  match k.merge.forced with
  | some q => p == q
  | none =>
    match k.entry.policy with
    | .merge => true
    | _ => k.merge.active == some p

/-- An arrival that a forced path excludes (R98). -/
def Circuit.excludes (k : Circuit) (p : Port) : Bool :=
  match k.merge.forced with
  | some q => p != q
  | none => false

end Sys2Proof.Machine
end

