-- ==== Sys2Proof/Machine/Playout.lean ====
section
/-! DEFINITION. The playout buffer (chapter 7): slots, the play pointer and history, the frame start rule. -/

namespace Sys2Proof.Machine

/-- The place of a sequence in the slot array: sequence modulo depth (R108). -/
def slotPlace (depth : Nat) (seq : SeqNo) : Fin 128 := Fin.ofNat 128 (seq.toNat % depth)

/-- The buffer slot at the index of a sequence (R100, R108). -/
def Buffer.slot (b : Buffer) (depth : Nat) (seq : SeqNo) : Option HeldEntry := b.slots[(slotPlace depth seq).val]

/-- The slot at the index of a sequence given a content. -/
def Buffer.withSlot (b : Buffer) (depth : Nat) (seq : SeqNo) (v : Option HeldEntry) : Buffer :=
  { b with slots := b.slots.set (slotPlace depth seq).val v }

/-- A held entry stored at its slot (R110). -/
def Buffer.store (b : Buffer) (depth : Nat) (e : HeldEntry) : Buffer := b.withSlot depth e.seq (some e)

/-- A flush (R113): slots and history empty, the substitution run 0, the start mark NO, the last lead absent. The pointer
and the last delivered frame are not touched. -/
def Buffer.flush (b : Buffer) : Buffer :=
  { b with slots := Vector.replicate 128 none, history := [], substitutionRun := 0, startMark := false, lastLead := none }

/-- How many held entries the buffer holds (R126). -/
def Buffer.heldCount (b : Buffer) : Nat := (b.slots.toList.filter Option.isSome).length

/-- The history's record of a sequence (R100, R115): no two records name one sequence, and the most recent is found. -/
def Buffer.recordOf (b : Buffer) (seq : SeqNo) : Option HistoryRecord :=
  b.history.reverse.find? (fun h => h.seq == seq)

/-- The history's record of a sequence changed (R111). -/
def Buffer.onRecord (b : Buffer) (seq : SeqNo) (f : HistoryRecord → HistoryRecord) : Buffer :=
  { b with history := b.history.map (fun h => if h.seq = seq then f h else h) }

/-- The window slides forward in ACQUIRING (R112): the pointer's sequence and the reference pair advance by `k` packets,
and held entries now behind the pointer leave their slots. -/
def Buffer.slide (b : Buffer) (frames k : Nat) : Buffer :=
  match b.pointer with
  | none => b
  | some x =>
    let seq := x.seq + BitVec.ofNat 16 k
    { b with
      pointer := some ⟨seq, x.frame, stampAfter x.ts frames k⟩
      slots := b.slots.map (fun v =>
        match v with
        | some e => if signed16 e.seq seq < 0 then none else some e
        | none => none) }

/-- The history record of a sequence the pointer leaves (R114). -/
def leavingRecord (seq : SeqNo) : Option HeldEntry → HistoryRecord
  | some e => ⟨seq, .played, e.arrival, some e.storedFrom, e.sampled⟩
  | none => ⟨seq, .missed, ⟨none, none⟩, none, false⟩

/-- The pointer leaves its sequence (R114, R117): a record is written, the slot freed, and the pointer and the reference
pair advance by one packet. -/
def Buffer.leave (b : Buffer) (x : Pointer) (depth frames : Nat) : Buffer :=
  { b.withSlot depth x.seq none with
    history := pushBounded 128 b.history (leavingRecord x.seq (b.slot depth x.seq))
    pointer := some ⟨x.seq + 1, 0, stampAfter x.ts frames 1⟩ }

/-- The pointer of a circuit advances by one frame (R117), with the lost count when it leaves a sequence not held
(R114). -/
def State.advancePointer (s : State) (c : Fin 64) : State :=
  let k := s.circuit c
  match k.buffer.pointer with
  | none => s
  | some x =>
    if x.frame + 1 < k.entry.frames then
      s.onBuffer c (fun b => { b with pointer := some { x with frame := x.frame + 1 } })
    else
      let lost := (k.buffer.slot k.entry.depth x.seq).isNone
      let s := s.onBuffer c (fun b => b.leave x k.entry.depth k.entry.frames)
      if lost then s.count c .lost else s

/-- The play time of the frame at the pointer (R116). -/
def playTime (x : Pointer) (playoutDelay : Nat) : Ticks := x.ts + BitVec.ofNat 32 ((x.frame + playoutDelay) * 1024)

/-- The lead of the frame at a pointer for an RT_int (R116). -/
def leadOf (rt : Ticks) (x : Pointer) (playoutDelay : Nat) : Int := signed32 rt (playTime x playoutDelay)

/-- How many frames a lead skips: one for each 1024 until it is below 512 (R119). -/
def skipsNeeded (lead : Int) : Nat := if lead < 512 then 0 else ((lead - 512) / 1024 + 1).toNat

/-- R119: the frame at the pointer is skipped. A skip in PLAYING with the start mark YES of a held sequence is a delete
slip. -/
def State.skipFrame (s : State) (c : Fin 64) : State :=
  let k := s.circuit c
  let held := match k.buffer.pointer with
    | none => false
    | some x => (k.buffer.slot k.entry.depth x.seq).isSome
  let s := if k.control.state == .playing && k.buffer.startMark && held then
      (s.count c .deleteSlips).raiseCircuit c .slip (.slip .delete)
    else s
  s.advancePointer c

/-- A number of frames skipped one after another. -/
def State.skipFrames (c : Fin 64) : Nat → State → State
  | 0, s => s
  | n + 1, s => State.skipFrames c n (s.skipFrame c)

/-- R120: the frame at the pointer is not yet due: the last delivered frame, or all ones, is placed. -/
def State.repeatFrame (s : State) (c : Fin 64) (n : Nat) : State × List Byte :=
  let b := (s.circuit c).buffer
  let s' := if b.startMark then (s.count c .repeatSlips).raiseCircuit c .slip (.slip .repeated) else s
  (s', b.lastFrame.getD (List.replicate n 255))

/-- The octets of frame `f` of a held entry (R121). -/
def frameOctets (e : HeldEntry) (f n : Nat) : List Byte := (e.payload.drop (f * n)).take n

/-- The substitute frame (R122). -/
def substitute (sub : Substitution) (b : Buffer) (idle : Byte) (n : Nat) : List Byte :=
  match sub with
  | .allOnes => List.replicate n 255
  | .idle => List.replicate n idle
  | .repeatLast => if b.substitutionRun < 8 then b.lastFrame.getD (List.replicate n 255) else List.replicate n 255

/-- R121, R122: the frame at the pointer is due and is delivered, from the held entry or as a substitute; it becomes the
last delivered frame, the start mark becomes YES and the pointer advances. -/
def State.deliverFrame (s : State) (c : Fin 64) (x : Pointer) (idle : Byte) (n : Nat) : State × List Byte :=
  let k := s.circuit c
  match k.buffer.slot k.entry.depth x.seq with
  | some e =>
    let o := frameOctets e x.frame n
    ((s.onBuffer c (fun b => { b with lastFrame := some o, substitutionRun := 0, startMark := true })).advancePointer c, o)
  | none =>
    let o := substitute k.entry.substitution k.buffer idle n
    let s := s.onBuffer c (fun b =>
      { b with lastFrame := some o, substitutionRun := min 255 (b.substitutionRun + 1), startMark := true })
    ((s.count c .substitutedFrames).advancePointer c, o)

/-- The frame start rule (R116 to R123) for a circuit in PLAYING or STARVED, with its RT_int at the instant of the frame start:
due frames are skipped, then the frame at the pointer is repeated before or delivered, and the lead it was decided on becomes
the last lead. Answers the frame of n octets placed. In these states the pointer is present (R109); without a pointer nothing
changes and all ones are placed. -/
def State.playFrame (s : State) (c : Fin 64) (idle : Byte) (rt : Ticks) : State × List Byte :=
  let n := s.width c
  let pd := (s.circuit c).entry.playoutDelay
  match (s.circuit c).buffer.pointer with
  | none => (s, List.replicate n 255)
  | some x =>
    let s := State.skipFrames c (skipsNeeded (leadOf rt x pd)) s
    match (s.circuit c).buffer.pointer with
    | none => (s, List.replicate n 255)
    | some y =>
      let lead := leadOf rt y pd
      let s := s.onBuffer c (fun b => { b with lastLead := some lead })
      if lead < -512 then s.repeatFrame c n else s.deliverFrame c y idle n

end Sys2Proof.Machine
end

