-- ==== Sys2Proof/Machine/Recovery.lean ====
section
/-! DEFINITION. Clock recovery (chapter 8): recovered time, samples, the window, the loop update and the lock. -/

namespace Sys2Proof.Machine

/-- One tick of LT passes for recovered time (R129), and the FREQ in force at it is kept (log 32). -/
def Recovery.tick (r : Recovery) : Recovery :=
  { r with rt := r.rt.map (fun x => x + fineAdvance 1 r.freq), tickFreq := r.freq }

/-- RT seeded by anchoring on stamp `ts` with capture `capture`, taken at `lt` (R130). -/
def seedRt (ts capture lt : Ticks) (freq : Int) : FineTicks :=
  fineTicks ts.toNat + fineAdvance (signed32 lt capture) freq

/-- RT at a capture, reckoned back from its value at the taking (R131). -/
def rtAtCapture (rt : FineTicks) (capture lt : Ticks) (freq : Int) : FineTicks :=
  rt - fineAdvance (signed32 lt capture) freq

/-- The sample of an arrival: signed32(RT_int − TS) with RT_int at its capture (R132). RT is present whenever a sample is
formed (R127, R129); without it the value is that of RT 0. -/
def Recovery.sample (r : Recovery) (capture lt ts : Ticks) : Int :=
  signed32 (rtInt (rtAtCapture (r.rt.getD 0) capture lt r.freq)) ts

/-- A sample entered into the window (R133): the first starts it with the W in force. -/
def Recovery.enter (r : Recovery) (w : Nat) (x : Int) : Recovery :=
  match r.window with
  | none => { r with window := some ⟨1, x, w⟩ }
  | some v => { r with window := some ⟨v.count + 1, min v.minimum x, v.length⟩ }

/-- The minimum of the window, when its count has reached its length (R133). -/
def Recovery.windowEnd (r : Recovery) : Option Int :=
  match r.window with
  | none => none
  | some v => if v.length ≤ v.count then some v.minimum else none

/-- The shift at the completion of acquisition: RT advanced by −m ticks, and the window empty (R134). -/
def Recovery.shift (r : Recovery) (m : Int) : Recovery :=
  { r with rt := r.rt.map (fun x => x + fineTicks (-m)), window := none }

/-- The loop error (R136). -/
def loopError (m : Int) : Int := clampInt (-2047) 2047 (-m)

/-- sat of R137. -/
def sat (v : Int) : Int := clampInt (-32768) 32767 v

/-- I and then FREQ updated from the error, which becomes the last loop error (R135 steps 2 and 3, R137). -/
def Recovery.update (r : Recovery) (a b : Nat) (e : Int) : Recovery :=
  let i := sat (r.integrator + e * 2 ^ a)
  { r with integrator := i, freq := sat (i + e * 2 ^ b), lastError := some e }

/-- The lock judged from the error while UNLOCKED (R139) and while LOCKED (R140), with the flag it sets. -/
def Recovery.judge (r : Recovery) (lockThreshold unlockThreshold : Nat) (e : Int) : Recovery × Option CircuitFlag :=
  if r.locked then
    if unlockThreshold < e.natAbs then
      if r.towardLoss + 1 < 2 then ({ r with towardLoss := r.towardLoss + 1 }, none)
      else ({ r with locked := false, towardLock := 0, towardLoss := 0 }, some .lockLost)
    else ({ r with towardLoss := 0 }, none)
  else
    if e.natAbs ≤ lockThreshold then
      if r.towardLock + 1 < 4 then ({ r with towardLock := r.towardLock + 1 }, none)
      else ({ r with locked := true, towardLock := 0, towardLoss := 0 }, some .lockGained)
    else ({ r with towardLock := 0 }, none)

/-- The new FREQ appended to the FREQ history while LOCKED (R142). -/
def Recovery.append (r : Recovery) : Recovery :=
  if r.locked then { r with history := pushBounded 8 r.history r.freq } else r

/-- The lock cleared with both counts (R141), without its flag. -/
def Recovery.unlock (r : Recovery) : Recovery := { r with locked := false, towardLock := 0, towardLoss := 0 }

/-- R135: a window that ends in PLAYING with minimum `m` updates the loop. -/
def State.loopUpdate (s : State) (c : Fin 64) (m : Int) : State :=
  let e := loopError m
  let entry := (s.circuit c).entry
  let judged := ((s.circuit c).recovery.update entry.shiftA entry.shiftB e).judge entry.lockThreshold
    entry.unlockThreshold e
  let s := s.onRecovery c (fun _ => { judged.1.append with window := none })
  match judged.2 with
  | none => s
  | some f => s.raiseCircuit c f .none

/-- R141: the lock is cleared, and LOCK_LOST is set when it was held. -/
def State.loseLock (s : State) (c : Fin 64) : State :=
  let held := (s.circuit c).recovery.locked
  let s := s.onRecovery c Recovery.unlock
  if held then s.raiseCircuit c .lockLost .none else s

/-- R144: at a starvation expiry in PLAYING, FREQ and I take the history mean, when there is one. -/
def Recovery.holdMean (r : Recovery) : Recovery :=
  match meanTowardZero r.history with
  | none => r
  | some h => { r with freq := h, integrator := h }

end Sys2Proof.Machine
end

