-- ==== Sys2Proof/Machine/Circuits.lean ====
section
/-! DEFINITION. Circuit control (chapter 4): changes of state, anchoring, acquisition, starvation, re-entry, ENGAGE,
RELEASE, REACQUIRE and the two timers of circuit control. -/

namespace Sys2Proof.Machine

/-- The circuit state changed, with STATE_CHANGED and the state entered (R69). -/
def State.enter (s : State) (c : Fin 64) (st : CircuitState) : State :=
  (s.onControl c (fun k => { k with state := st })).raiseCircuit c .stateChanged (.circuitState st)

/-- The starvation timer started or restarted (R63, R27). -/
def State.startStarvation (s : State) (c : Fin 64) : State :=
  let e := (s.circuit c).entry
  s.onControl c (fun k => { k with
    starvationTimer := some (expiryAfter s.lt (periodsToTicks e.starvationTimeout e.frames)) })

/-- The engage timer started (R59, R27). -/
def State.startEngageTimer (s : State) (c : Fin 64) : State :=
  let e := (s.circuit c).entry
  s.onControl c (fun k => { k with engageTimer := some (expiryAfter s.lt (secondsToTicks e.engageTimeout)) })

/-- A circuit as DISABLED leaves it (R52, R56, R72, R107, R128, R162): every block at its power-on values, with the table
entry, the counters and the flags kept (R50, R180, R182). -/
def Circuit.disabledForm (k : Circuit) : Circuit := { entry := k.entry, counters := k.counters, flags := k.flags }

/-! ### Anchoring -/

/-- What an arrival brings to anchoring and storing: the held entry it would become (R110). -/
structure Candidate where
  seq     : SeqNo
  ts      : Ticks
  l       : Bool
  r       : Bool
  payload : List Byte
  path    : Port
  capture : Ticks
  deriving DecidableEq, Repr

/-- The held entry a first copy becomes, with its sampled mark (R110). -/
def Candidate.entry (x : Candidate) (sampled : Bool) : HeldEntry :=
  ⟨x.seq, x.ts, x.l, x.r, x.payload, (⟨none, none⟩ : Pair (Option Ticks)).set x.path (some x.capture), x.path, sampled⟩

/-- R60 steps 1 to 5 on the buffer and clock recovery: pointer and reference pair, flush, seed, the window holding the one
sample 0, the arrival stored with its sampled mark. -/
def Circuit.anchored (k : Circuit) (x : Candidate) (lt : Ticks) : Circuit :=
  { k with
    buffer := { k.buffer.flush with pointer := some ⟨x.seq, 0, x.ts⟩ }.store k.entry.depth (x.entry true)
    recovery := { k.recovery with
      rt := some (seedRt x.ts x.capture lt k.recovery.freq), window := some ⟨1, 0, k.entry.window⟩ } }

/-- R60: anchoring on an arrival. A circuit that leaves PLAYING by it makes the clocking change of R153. -/
def State.anchor (s : State) (c : Fin 64) (x : Candidate) : State :=
  let was := (s.circuit c).control.state
  let mean := (s.circuit c).recovery.mean
  let s := s.onCircuit c (fun k => k.anchored x s.lt)
  let s := (s.count c .firstCopies).loseLock c
  let s := s.onControl c (fun k => { k with mismatchRun := 0, lateRun := 0, engageTimer := none })
  let s := (s.startStarvation c).refreshActive c
  let s := if was = .acquiring then s else s.enter c .acquiring
  s.leavesPlaying c was mean

/-! ### Samples -/

/-- R62, R134: the window that began with anchoring has its W samples: the shift, PLAYING with the start mark NO (R118),
and DELAY_STEP when the acquired mark is YES. -/
def State.completeAcquisition (s : State) (c : Fin 64) (m : Int) : State :=
  let again := (s.circuit c).control.acquired
  let s := s.onRecovery c (fun r => r.shift m)
  let s := s.onBuffer c (fun b => { b with startMark := false })
  let s := s.enter c .playing
  if again then s.raiseCircuit c .delayStep .none else s.onControl c (fun k => { k with acquired := true })

/-- A sample entered into the window (R133), and the window's end in ACQUIRING or PLAYING. -/
def State.enterSample (s : State) (c : Fin 64) (x : Int) : State :=
  let w := (s.circuit c).entry.window
  let s := s.onRecovery c (fun r => r.enter w x)
  match (s.circuit c).recovery.windowEnd with
  | none => s
  | some m =>
    match (s.circuit c).control.state with
    | .acquiring => s.completeAcquisition c m
    | .playing => s.loopUpdate c m
    | _ => s

/-- A sample taken in ACQUIRING or PLAYING (R63, R102): it restarts the starvation timer and enters the window. -/
def State.takeSample (s : State) (c : Fin 64) (x : Int) : State := (s.startStarvation c).enterSample c x

/-- R65: re-entry within tolerance: PLAYING with the start mark NO (R118); the starvation timer is started and the sample
is the first of a new window. -/
def State.reenter (s : State) (c : Fin 64) (x : Int) : State :=
  let s := s.onBuffer c (fun b => { b with startMark := false })
  let s := (s.startStarvation c).enter c .playing
  s.enterSample c x

/-! ### Starvation and the engage timer -/

/-- R63: a starvation expiry in ACQUIRING returns the circuit to AWAITING. -/
def State.starveAcquiring (s : State) (c : Fin 64) : State :=
  let s := s.onCircuit c (fun k => { k with
    buffer := { k.buffer.flush with pointer := none }
    recovery := { k.recovery with rt := none, window := none }
    control := { k.control with mismatchRun := 0, lateRun := 0, starvationTimer := none } })
  ((s.startEngageTimer c).refreshActive c).enter c .awaiting

/-- R64, R144: a starvation expiry in PLAYING takes the circuit to STARVED. -/
def State.starvePlaying (s : State) (c : Fin 64) : State :=
  let mean := (s.circuit c).recovery.mean
  let s := (s.enter c .starved).loseLock c
  let s := s.onRecovery c (fun r => { r.holdMean with window := none })
  let s := s.onControl c (fun k => { k with mismatchRun := 0, lateRun := 0, starvationTimer := none })
  s.timingLeavesPlaying c mean

/-- A starvation expiry by the circuit's state (R63). -/
def State.starve (s : State) (c : Fin 64) : State :=
  match (s.circuit c).control.state with
  | .acquiring => s.starveAcquiring c
  | .playing => s.starvePlaying c
  | _ => s.onControl c (fun k => { k with starvationTimer := none })

/-- STARVATION_TIMER_EXPIRY (R63, R64): without an expired timer nothing occurs (log 4). -/
def execStarvationTimerExpiry (c : Fin 64) (s : State) : Host.Outcome State Fault Refusal :=
  .next (if expired s.lt (s.circuit c).control.starvationTimer then s.starve c else s)

/-- ENGAGE_TIMER_EXPIRY (R59): the timer is stopped and ENGAGE_TIMEOUT set; without an expired timer nothing occurs
(log 4). -/
def execEngageTimerExpiry (c : Fin 64) (s : State) : Host.Outcome State Fault Refusal :=
  .next (
    if expired s.lt (s.circuit c).control.engageTimer then
      (s.onControl c (fun k => { k with engageTimer := none })).raiseCircuit c .engageTimeout .none
    else s)

/-! ### The circuit commands -/

/-- R54: the judgement of ENGAGE: OK, or the refusal code of the first step that fails. -/
def State.judgeEngage (s : State) (c : Fin 64) : Code :=
  let k := s.circuit c
  let framing := s.framingOf k.entry
  if k.engaged then .wrongState
  else if framing = .off ∨ (framing = .framed ∧ k.entry.slotSet = 0) ∨ k.entry.inLabel = 0
      ∨ (k.entry.paths.a = none ∧ k.entry.paths.b = none) then .notReady
  else if framing = .unframed ∧ allCircuits.any (fun d =>
      d != c && (s.circuit d).engaged && (s.circuit d).entry.tributary == k.entry.tributary) then .slotConflict
  else if packetMemory < s.totalReserved + reservationSize framing k.entry then .noMemory
  else .ok

/-- R55: an accepted ENGAGE. -/
def State.engage (s : State) (c : Fin 64) : State :=
  let size := reservationSize (s.framingOf (s.circuit c).entry) (s.circuit c).entry
  let s := s.onCircuit c (fun k => { k.disabledForm with
    control := { reserved := size }, packetizer := { phase := .armed } })
  (s.startEngageTimer c).enter c .awaiting

/-- R56 without its flag: the circuit becomes DISABLED, its copies leave the queues, and a timing circuit that leaves
PLAYING makes the change of R153 with its history as it stood. `flagged` says whether STATE_CHANGED is set (not by a soft
restart, R52). -/
def State.releaseEngaged (s : State) (c : Fin 64) (flagged : Bool) : State :=
  let was := (s.circuit c).control.state
  let mean := (s.circuit c).recovery.mean
  let s := (s.removeCopies c).onCircuit c Circuit.disabledForm
  let s := if flagged then s.raiseCircuit c .stateChanged (.circuitState .disabled) else s
  s.leavesPlaying c was mean

/-- R56: RELEASE; in DISABLED it changes nothing. -/
def State.release (s : State) (c : Fin 64) : State :=
  if (s.circuit c).engaged then s.releaseEngaged c true else s

/-- R57: REACQUIRE as it is taken in ACQUIRING, PLAYING and STARVED. -/
def State.reacquire (s : State) (c : Fin 64) : State :=
  let was := (s.circuit c).control.state
  let mean := (s.circuit c).recovery.mean
  let s := s.onCircuit c (fun k => { k with
    buffer := { k.buffer.flush with pointer := none }
    recovery := { k.recovery with rt := none, window := none } })
  let s := s.loseLock c
  let s := s.onControl c (fun k => { k with mismatchRun := 0, lateRun := 0, starvationTimer := none })
  let s := ((s.startEngageTimer c).refreshActive c).enter c .awaiting
  s.leavesPlaying c was mean

/-- The states in which REACQUIRE is taken (R57). -/
def CircuitState.reacquirable : CircuitState → Bool
  | .disabled => false
  | .awaiting => false
  | .acquiring => true
  | .playing => true
  | .starved => true

/-- R58: the forced path set or cleared. -/
def State.forcePath (s : State) (c : Fin 64) (p : Option Port) : State := s.onMerge c (fun m => { m with forced := p })

end Sys2Proof.Machine
end

