-- ==== Sys2Proof/Machine/Operands.lean ====
section
/-! DEFINITION. The octet formats of chapter 12, read: trunk frames, circuit packets, management requests, field items. -/

namespace Sys2Proof.Machine

/-! ### Trunk frames (R186, R187) -/

/-- Where the frame type field of a frame begins: after a network tag when octets 12 and 13 hold 0x8100 (R187). -/
def typeOffset (o : List Byte) : Nat := if 14 ≤ o.length ∧ numberAt o 12 2 = 0x8100 then 16 else 12

/-- What the receive classifier finds of a frame (R87, R186, R187). -/
inductive Classified where
  /-- The frame fails a receive check. -/
  | bad
  /-- A DATA frame, with its octets from the common header on. -/
  | data (o : List Byte)
  /-- A MANAGEMENT frame, with its source address and its octets from the common header on. -/
  | management (source : Address) (o : List Byte)
  deriving DecidableEq, Repr

/-- The receive checks of R87 in their order, against an address and a frame type value: frame type, destination, length,
version, kind with the full header of the kind (20 octets for DATA, 7 for MANAGEMENT, R187). -/
def classify (address : Address) (frameType : BitVec 16) (o : List Byte) : Classified :=
  let at_ := typeOffset o
  let h := o.drop (at_ + 2)
  if o.length < at_ + 2 ∨ numberAt o at_ 2 ≠ frameType.toNat then .bad
  else if numberAt o 0 6 ≠ address.toNat then .bad
  else if h.length < 4 then .bad
  else if numberAt h 0 1 ≠ 1 then .bad
  else if numberAt h 1 1 = 1 then if h.length < 20 then .bad else .data h
  else if numberAt h 1 1 = 2 then if h.length < 7 then .bad else .management (BitVec.ofNat 48 (numberAt o 6 6)) h
  else .bad

/-- The label of a frame, from its common header (R186). -/
def labelOf (h : List Byte) : Nat := numberAt h 2 2

/-! ### Circuit packets (R188, R189) -/

/-- A circuit packet's header fields, and the octets after its header. -/
structure Packet where
  l             : Bool
  r             : Bool
  path          : Port
  echoed        : Bool
  frames        : Nat
  seq           : SeqNo
  ts            : Ticks
  echoTs        : Ticks
  echoAge       : Nat
  payloadLength : Nat
  rest          : List Byte
  deriving DecidableEq, Repr

/-- A circuit packet read from its octets from the common header on (R188). -/
def readPacket (h : List Byte) : Packet :=
  let flags : Byte := h.getD 4 0
  { l := flags.getLsbD 7
    r := flags.getLsbD 6
    path := if flags.getLsbD 5 then .B else .A
    echoed := flags.getLsbD 4
    frames := numberAt h 5 1
    seq := BitVec.ofNat 16 (numberAt h 6 2)
    ts := BitVec.ofNat 32 (numberAt h 8 4)
    echoTs := BitVec.ofNat 32 (numberAt h 12 4)
    echoAge := numberAt h 16 2
    payloadLength := numberAt h 18 2
    rest := h.drop 20 }

/-- A packet is well formed for a circuit of F = `frames` and payload `size` octets, on a path (R89, R189). -/
def Packet.wellFormed (x : Packet) (frames size : Nat) (p : Port) : Bool :=
  x.frames == frames && x.payloadLength == size && decide (size ≤ x.rest.length) && x.path == p

/-! ### Management requests (R190, R191) -/

/-- A request present whole (R190). -/
inductive Request where
  | tableRead (kind index count : Byte)
  | tableWrite (kind index : Byte) (items : List FieldItem)
  | circuitCommand (kind index command path : Byte)
  | statusRead (kind index : Byte)
  | countersRead (kind index clear : Byte)
  | flagsClear (kind index : Byte) (mask : BitVec 32)
  | eventsTake (kind index n : Byte)
  | restart (kind index : Byte)
  /-- A verb that is not one of the eight (R173, R191). -/
  | unknown (verb kind index : Byte)
  deriving DecidableEq, Repr

/-- The field items that fill the arguments of a TABLE_WRITE exactly; none when the record's end cuts one short (R191).
`fuel` bounds the number of items; the number of argument octets suffices. -/
def readItems : Nat → List Byte → Option (List FieldItem)
  | _, [] => some []
  | 0, _ => none
  | _, [_] => none
  | fuel + 1, code :: length :: rest =>
    if rest.length < length.toNat then none
    else (readItems fuel (rest.drop length.toNat)).map (fun items => ⟨code, rest.take length.toNat⟩ :: items)

/-- The octets of arguments a verb requires (R190, R191). -/
def argumentsOf (verb : Byte) : Nat :=
  match verb.toNat with
  | 1 => 1
  | 3 => 2
  | 5 => 1
  | 6 => 4
  | 7 => 1
  | _ => 0

/-- A request read from its verb, object kind, index and arguments; none when it is MALFORMED (R191). -/
def readRequest (verb kind index : Byte) (args : List Byte) : Option Request :=
  if args.length < argumentsOf verb then none
  else
    match verb.toNat with
    | 1 => some (.tableRead kind index (args.getD 0 0))
    | 2 => (readItems args.length args).map (fun items => .tableWrite kind index items)
    | 3 => some (.circuitCommand kind index (args.getD 0 0) (args.getD 1 0))
    | 4 => some (.statusRead kind index)
    | 5 => some (.countersRead kind index (args.getD 0 0))
    | 6 => some (.flagsClear kind index (BitVec.ofNat 32 (numberAt args 0 4)))
    | 7 => some (.eventsTake kind index (args.getD 0 0))
    | 8 => some (.restart kind index)
    | _ => some (.unknown verb kind index)

/-- What stands at the place of a request record (R171, R191): the verb, object kind and index it carries (0 for any the
frame does not hold), the request if it is present whole and not MALFORMED, and the octets that follow it; `none` for
what follows when the end of the frame cuts the record short. -/
structure RecordRead where
  verb    : Byte
  kind    : Byte
  index   : Byte
  request : Option Request
  next    : Option (List Byte)
  deriving DecidableEq, Repr

/-- The record at the head of the octets of a frame (R191). -/
def readRecord (o : List Byte) : RecordRead :=
  let verb := o.getD 0 0
  let kind := o.getD 1 0
  let index := o.getD 2 0
  let declared := numberAt o 3 2
  if o.length < 5 ∨ o.length < declared then ⟨verb, kind, index, none, none⟩
  else if declared < 5 then ⟨verb, kind, index, none, some (o.drop 5)⟩
  else ⟨verb, kind, index, readRequest verb kind index ((o.drop 5).take (declared - 5)), some (o.drop declared)⟩

/-- The path argument of FORCE_PATH: NONE 0, A 1, B 2 (R190); none for another octet, refused with BAD_VALUE (R53). -/
def readPath (b : Byte) : Option (Option Port) :=
  match b.toNat with
  | 0 => some none
  | 1 => some (some .A)
  | 2 => some (some .B)
  | _ => none

/-- A circuit index octet (R173). -/
def readCircuit (b : Byte) : Option (Fin 64) := if h : b.toNat < 64 then some ⟨b.toNat, h⟩ else none

/-- A tributary index octet (R173). -/
def readTributary (b : Byte) : Option (Fin 16) := if h : b.toNat < 16 then some ⟨b.toNat, h⟩ else none

/-- A port index octet: 0 is A and 1 is B (R190). -/
def readPort (b : Byte) : Option Port :=
  match b.toNat with
  | 0 => some .A
  | 1 => some .B
  | _ => none

end Sys2Proof.Machine
end

