-- ==== Sys2Proof/Machine/Arrival.lean ====
section
/-! DEFINITION. FRAME_ARRIVAL: the receive classifier, and what a well-formed arrival does (chapter 6). -/

namespace Sys2Proof.Machine

/-! ### Arrival classes and samples (R100 to R103) -/

/-- The arrival classes (R100), with where the sequence's record stands, if anywhere. -/
inductive ArrivalClass where
  | firstCopy
  /-- A duplicate of a held entry. -/
  | duplicateHeld (e : HeldEntry)
  /-- A duplicate of a PLAYED sequence. -/
  | duplicatePlayed (h : HistoryRecord)
  /-- Late, with the MISSED history record of the sequence. -/
  | lateMissed (h : HistoryRecord)
  /-- Late, with no history record. -/
  | lateUnknown
  | overrun
  deriving DecidableEq, Repr

/-- R100: the class of a sequence against the play pointer, the slot at its index and the play history. (In ACQUIRING the
window has slid before, R112, so d is below the depth.) -/
def classOf (b : Buffer) (x : Pointer) (depth : Nat) (seq : SeqNo) : ArrivalClass :=
  let d := signed16 seq x.seq
  if d < 0 then
    match b.recordOf seq with
    | none => .lateUnknown
    | some h =>
      match h.outcome with
      | .played => .duplicatePlayed h
      | .missed => .lateMissed h
  else if (depth : Int) ≤ d then .overrun
  else
    match b.slot depth seq with
    | some e => .duplicateHeld e
    | none => if d = 0 ∧ 0 < x.frame then .lateUnknown else .firstCopy

/-- The counter of a class (R101). -/
def ArrivalClass.counter : ArrivalClass → CircuitCounter
  | .firstCopy => .firstCopies
  | .duplicateHeld _ => .duplicates
  | .duplicatePlayed _ => .duplicates
  | .lateMissed _ => .late
  | .lateUnknown => .late
  | .overrun => .overrun

/-- A late class (R67). -/
def ArrivalClass.isLate : ArrivalClass → Bool
  | .firstCopy => false
  | .duplicateHeld _ => false
  | .duplicatePlayed _ => false
  | .lateMissed _ => true
  | .lateUnknown => true
  | .overrun => false

/-- R102: whether an arrival of the class on a sampling path gives a sample: the sampled mark of its record is clear, or it
has no record. -/
def ArrivalClass.unsampled : ArrivalClass → Bool
  | .firstCopy => true
  | .duplicateHeld e => !e.sampled
  | .duplicatePlayed h => !h.sampled
  | .lateMissed h => !h.sampled
  | .lateUnknown => true
  | .overrun => true

/-- The arrival LTs with a path's written when it is absent (R111). -/
def recordArrival (x : Pair (Option Ticks)) (p : Port) (capture : Ticks) : Pair (Option Ticks) :=
  match x.get p with
  | none => x.set p (some capture)
  | some _ => x

/-- R103: the skew sample of a duplicate that supplies the second of the two arrival times: signed32(B − A). -/
def skewOf (x : Pair (Option Ticks)) (p : Port) (capture : Ticks) : Option Int :=
  match x.get p with
  | some _ => none
  | none =>
    match (x.set p (some capture)).a, (x.set p (some capture)).b with
    | some a, some b => some (signed32 b a)
    | _, _ => none

/-- The skew sample an arrival of a class gives (R103). -/
def ArrivalClass.skew (k : ArrivalClass) (p : Port) (capture : Ticks) : Option Int :=
  match k with
  | .duplicateHeld e => skewOf e.arrival p capture
  | .duplicatePlayed h => skewOf h.arrival p capture
  | .firstCopy => none
  | .lateMissed _ => none
  | .lateUnknown => none
  | .overrun => none

/-- R101, R110, R111: what an arrival of a class stores or records in the buffer; `sampled` says that it gives a sample. -/
def Buffer.take (b : Buffer) (k : ArrivalClass) (depth : Nat) (x : Candidate) (sampled : Bool) : Buffer :=
  match k with
  | .firstCopy => b.store depth (x.entry sampled)
  | .duplicateHeld e =>
    b.withSlot depth x.seq (some { e with
      arrival := recordArrival e.arrival x.path x.capture, sampled := e.sampled || sampled })
  | .duplicatePlayed _ =>
    b.onRecord x.seq (fun h => { h with
      arrival := recordArrival h.arrival x.path x.capture, sampled := h.sampled || sampled })
  | .lateMissed _ => b.onRecord x.seq (fun h => { h with sampled := h.sampled || sampled })
  | .lateUnknown => b
  | .overrun => b

/-! ### Stage 3: stamp check, class, sample, skew -/

/-- The reference pair's check of an arrival's stamp (R99). -/
def stampFits (x : Pointer) (frames : Nat) (seq : SeqNo) (ts : Ticks) : Bool :=
  ts == expectedStamp x.seq x.ts frames seq

/-- R66, R99: an arrival that fails the stamp check is counted; on a sampling path it acts on the run and may re-anchor. -/
def State.stampMismatch (s : State) (c : Fin 64) (x : Candidate) : State :=
  let k := s.circuit c
  let s := s.count c .stampMismatch
  if k.samples x.path then
    if k.control.state = .starved ∨ 2 ≤ k.control.mismatchRun then
      (s.anchor c x).raiseCircuit c .farEndRestart (.path x.path)
    else s.onControl c (fun k => { k with mismatchRun := k.mismatchRun + 1 })
  else s

/-- R112: in ACQUIRING an arrival depth or more ahead slides the window before it is classed. -/
def State.slideFor (s : State) (c : Fin 64) (seq : SeqNo) : State :=
  let k := s.circuit c
  match k.control.state, k.buffer.pointer with
  | .acquiring, some x =>
    let d := signed16 seq x.seq
    if (k.entry.depth : Int) ≤ d then
      s.onBuffer c (fun b => b.slide k.entry.frames (d - k.entry.depth + 1).toNat)
    else s
  | _, _ => s

/-- R101: an arrival of a class is counted and stored or recorded. -/
def State.takeClass (s : State) (c : Fin 64) (k : ArrivalClass) (x : Candidate) (sampled : Bool) : State :=
  let depth := (s.circuit c).entry.depth
  (s.onBuffer c (fun b => b.take k depth x sampled)).count c k.counter

/-- R67: the late run after an arrival that gives a sample in PLAYING. Under KEEP_DELAY the run stays 0. -/
def State.lateRunAfter (s : State) (c : Fin 64) (k : ArrivalClass) : State :=
  match (s.circuit c).control.state, (s.circuit c).entry.latePolicy with
  | .playing, .realign => s.onControl c (fun x => { x with lateRun := if k.isLate then x.lateRun + 1 else 0 })
  | _, _ => s

/-- R103: a skew sample, when the arrival gives one. -/
def State.takeSkew (s : State) (c : Fin 64) : Option Int → State
  | none => s
  | some x => s.skewSample c x

/-- R67: the late first copy finds the late run at 15, in PLAYING under REALIGN. -/
def Circuit.realigns (k : Circuit) (cls : ArrivalClass) : Bool :=
  k.control.state == .playing && k.entry.latePolicy == .realign && cls.isLate && decide (15 ≤ k.control.lateRun)

/-- Stage 3 of R91 for an arrival that passes the stamp check and is not excluded by a forced path: class, sample, skew
(R100 to R103), with the decisions of R65 in STARVED and of R67 in PLAYING. An arrival that anchors the circuit in STARVED has
no class count (log 17) and, were it a second copy, gives no skew sample (DESIGN CHOICE, log 28). -/
def State.takeFitting (s : State) (c : Fin 64) (x : Candidate) : State :=
  let s := s.slideFor c x.seq
  let k := s.circuit c
  match k.buffer.pointer with
  | none => s
  | some pointer =>
    let cls := classOf k.buffer pointer k.entry.depth x.seq
    let sampled := k.samples x.path && cls.unsampled
    let value := k.recovery.sample x.capture s.lt x.ts
    let skew := cls.skew x.path x.capture
    if sampled then
      if k.control.state = .starved then
        if value.natAbs ≤ k.entry.reentryTolerance then
          ((s.takeClass c cls x true).reenter c value).takeSkew c skew
        else s.anchor c x
      else if k.realigns cls then ((s.takeClass c cls x true).anchor c x)
      else (((s.takeClass c cls x true).lateRunAfter c cls).takeSample c value).takeSkew c skew
    else (s.takeClass c cls x false).takeSkew c skew

/-- R98, R99: the stamp check and what follows it, in ACQUIRING, PLAYING and STARVED. -/
def State.takeChecked (s : State) (c : Fin 64) (x : Candidate) : State :=
  let k := s.circuit c
  match k.buffer.pointer with
  | none => s
  | some pointer =>
    if stampFits pointer k.entry.frames x.seq x.ts then
      let s := if k.samples x.path then s.onControl c (fun k => { k with mismatchRun := 0 }) else s
      if k.excludes x.path then s else s.takeFitting c x
    else s.stampMismatch c x

/-- Stage 3 of R91, by circuit state (R61, R91). -/
def State.takeByState (s : State) (c : Fin 64) (x : Candidate) : State :=
  match (s.circuit c).control.state with
  | .disabled => s
  | .awaiting => if (s.circuit c).samples x.path then s.anchor c x else s
  | .acquiring => s.takeChecked c x
  | .playing => s.takeChecked c x
  | .starved => s.takeChecked c x

/-! ### Stages 1 and 2, and the whole arrival -/

/-- Stage 2 of R91: R sets REMOTE_FAULT and L sets LOCAL_FAULT_SEEN (R68); a marked arrival becomes the path's echo state,
and the echo fields are examined when E is set (R163). -/
def State.faultAndEcho (s : State) (c : Fin 64) (p : Port) (x : Packet) (capture : Ticks) : State :=
  let s := if x.r then s.raiseCircuit c .remoteFault (.path p) else s
  let s := if x.l then s.raiseCircuit c .localFaultSeen (.path p) else s
  let s := if marked x.seq then s.onDelay c p (fun d => d.echoArrival x.ts capture) else s
  if x.echoed then s.examineEcho c p x.echoTs capture x.echoAge else s

/-- R91: a well-formed arrival of `size` payload octets is taken, in its three stages. -/
def State.takeArrival (s : State) (c : Fin 64) (p : Port) (x : Packet) (size : Nat) (capture : Ticks) : State :=
  let s := (s.count c (.received p)).pathAlive c p
  let s := s.faultAndEcho c p x capture
  s.takeByState c ⟨x.seq, x.ts, x.l, x.r, x.rest.take size, p, capture⟩

/-- The circuit that a label names: the engaged circuit with that in-label (R89); label 0 names none (R40, R89). -/
def State.circuitOfLabel (s : State) (label : Nat) : Option (Fin 64) :=
  allCircuits.find? (fun c => (s.circuit c).engaged && (s.circuit c).entry.inLabel == label && label != 0)

/-- R89: a DATA frame that passes the receive checks. -/
def State.takeData (s : State) (p : Port) (h : List Byte) (capture : Ticks) : State :=
  match s.circuitOfLabel (labelOf h) with
  | none => s.countPort p .unknownLabel
  | some c =>
    let frames := (s.circuit c).entry.frames
    let size := frames * s.width c
    let x := readPacket h
    if x.wellFormed frames size p then s.takeArrival c p x size capture else s.count c .malformed

/-- R88: a MANAGEMENT frame that passes the receive checks: with label 0 and management accept YES it is handed to
execution; a label other than 0 makes it a bad frame; with management accept NO it is discarded and counted. -/
def State.takeManagement (s : State) (p : Port) (source : Address) (h : List Byte) : State :=
  if labelOf h ≠ 0 then s.countPort p .badFrames
  else if (s.port p).entry.accept then
    (s.countPort p .managementFrames).onPort p (fun k => { k with waiting :=
      k.waiting ++ [⟨source, BitVec.ofNat 16 (numberAt h 4 2), numberAt h 6 1, h.drop 7⟩] })
  else s.countPort p .managementDiscarded

/-- The station address and frame type value in force at a capture: those that the first write after it replaced, or the
present ones (R48, R87, log 8). -/
def PortState.valuesAt (k : PortState) (capture : Ticks) : Address × BitVec 16 :=
  match k.earlier.find? (fun e => decide (0 < signed32 e.replacedAt capture)) with
  | some e => (e.address, e.frameType)
  | none => (k.entry.address, k.entry.frameType)

/-- R20, R87: a delivered frame is counted and checked, and goes on by what the classifier finds. -/
def State.deliver (s : State) (p : Port) (capture : Ticks) (o : List Byte) : State :=
  let s := s.countPort p .framesReceived
  let values := (s.port p).valuesAt capture
  match classify values.1 values.2 o with
  | .bad => s.countPort p .badFrames
  | .data h => s.takeData p h capture
  | .management source h => s.takeManagement p source h

/-- FRAME_ARRIVAL (R87): the frame taken `age` ticks after its arrival capture. While the link is DOWN the line delivers no
frame (R20, R86), so nothing occurs (log 4). -/
def execFrameArrival (p : Port) (age : Ticks) (o : List Byte) (s : State) : Host.Outcome State Fault Refusal :=
  .next (match (s.port p).link with
    | .up => s.deliver p (s.lt - age) o
    | .down => s)

end Sys2Proof.Machine
end

