-- ==== Sys2Proof/Machine/Ports.lean ====
section
/-! DEFINITION. The transmit side of the trunk ports and their links (section 5.5, 5.6, R86, R186 to R189, R194). -/

namespace Sys2Proof.Machine

/-- A frame shorter than 60 octets is padded to 60 with octets of 0 (R187). -/
def padFrame (o : List Byte) : List Byte := o ++ List.replicate (60 - o.length) 0

/-- A path's tag on the wire: 0x8100, the priority in bits 15 to 13, 0, the network tag in bits 11 to 0 (R186). -/
def tagOctets : Option Tag → List Byte
  | none => []
  | some x => octets 2 0x8100 ++ octets 2 (x.priority * 8192 + x.networkTag)

/-- An Ethernet frame from its addresses, tag, frame type value and octets from the common header on (R186, R187). -/
def ethernetFrame (destination source : Address) (tag : Option Tag) (frameType : BitVec 16) (o : List Byte) : List Byte :=
  padFrame (octets 6 destination.toNat ++ octets 6 source.toNat ++ tagOctets tag ++ octets 2 frameType.toNat ++ o)

/-- The echo fields of a departing copy: echo TS and echo age, or none when E is clear (R80). -/
def echoFields (path : UpDown) (d : Delay) (capture : Ticks) : Option (Ticks × Nat) :=
  match path, d.echo with
  | .up, some e =>
    let age := signed32 capture e.capture
    some (e.ts, if age < 0 ∨ 65535 < age then 65535 else age.toNat)
  | _, _ => none

/-- The flags octet of a circuit packet: bit 7 L, bit 6 R, bit 5 P, bit 4 E (R188). -/
def packetFlags (l r : Bool) (p : Port) (e : Bool) : Nat :=
  l.toNat * 128 + r.toNat * 64 + (match p with | .A => 0 | .B => 32) + e.toNat * 16

/-- A circuit packet's octets from the common header on (R188, R189). -/
def packetOctets (x : Copy) (p : Port) (echo : Option (Ticks × Nat)) : List Byte :=
  octets 1 1 ++ octets 1 1 ++ octets 2 x.record.outLabel
    ++ octets 1 (packetFlags x.l x.r p echo.isSome) ++ octets 1 x.frames ++ octets 2 x.seq.toNat ++ octets 4 x.ts.toNat
    ++ octets 4 (match echo with | some v => v.1.toNat | none => 0)
    ++ octets 2 (match echo with | some v => v.2 | none => 0)
    ++ octets 2 x.payload.length ++ x.payload

/-- The frame a copy leaves as, with the addresses and the frame type value in force at its departure (R48, R76). -/
def copyFrame (s : State) (p : Port) (x : Copy) : List Byte :=
  let k := s.circuit x.circuit
  let e := (s.port p).entry
  ethernetFrame x.record.destination e.address x.record.tag e.frameType
    (packetOctets x p (echoFields (k.merge.up.get p) (k.delay.get p) s.lt))

/-- The port's link is UP and the port is not sending a frame (R79). -/
def PortState.ready (k : PortState) : Bool := k.link == .up && k.sending.isNone

/-- A copy departs (R79 to R81): it leaves the queue with its echo fields, sent counts one, and the departure capture
becomes LT_sent in the send log entry of a marked packet. -/
def State.departCopy (s : State) (p : Port) (x : Copy) (rest : List Copy) : State :=
  let frame := copyFrame s p x
  let s := s.onPort p (fun k => { k with circuitQueue := rest, sending := some frame })
  let s := s.count x.circuit (.sent p)
  if marked x.seq then
    s.onPacketizer x.circuit (fun z => { z with sendLog := recordSent z.sendLog x.ts p s.lt })
  else s

/-- The frame a response leaves as (R174, R194). -/
def responseFrame (s : State) (p : Port) (x : Response) : List Byte :=
  let e := (s.port p).entry
  ethernetFrame x.destination e.address none e.frameType x.octets

/-- COPY_DEPARTURE (R79, R81): a port that is ready takes the oldest copy of its circuit queue; otherwise no copy departs
(log 4). -/
def execCopyDeparture (p : Port) (s : State) : Host.Outcome State Fault Refusal :=
  .next (
    if (s.port p).ready then
      match (s.port p).circuitQueue with
      | [] => s
      | x :: rest => s.departCopy p x rest
    else s)

/-- RESPONSE_DEPARTURE (R79): a port that is ready and whose circuit queue is empty takes the oldest response; otherwise
none departs (log 4). -/
def execResponseDeparture (p : Port) (s : State) : Host.Outcome State Fault Refusal :=
  .next (
    if (s.port p).ready && (s.port p).circuitQueue.isEmpty then
      match (s.port p).responseQueue with
      | [] => s
      | x :: rest =>
        let frame := responseFrame s p x
        s.onPort p (fun k => { k with responseQueue := rest, sending := some frame })
    else s)

/-- LAST_OCTET_SENT (R79): at the last octet of the frame being sent the port is ready to take the next. -/
def execLastOctetSent (p : Port) (s : State) : Host.Outcome State Fault Refusal :=
  .next (s.onPort p (fun k => { k with sending := none }))

/-- LINK_UP (R86): a link that is DOWN becomes UP with LINK_CHANGE; no path changes. A link already UP does not change. -/
def execLinkUp (p : Port) (s : State) : Host.Outcome State Fault Refusal :=
  .next (match (s.port p).link with
    | .up => s
    | .down => (s.onPort p (fun k => { k with link := .up })).raisePort p .linkChange (.upDown .up))

/-- R82: the queues of a port are flushed: each copy counts not-sent for its circuit's path, responses are discarded. -/
def State.flushQueues (s : State) (p : Port) : State :=
  let copies := (s.port p).circuitQueue
  let s := s.onPort p (fun k => { k with circuitQueue := [], responseQueue := [] })
  forEach copies (fun x s => s.count x.circuit (.notSent p)) s

/-- LINK_DOWN (R82, R86, R93): a link that is UP becomes DOWN with LINK_CHANGE, the queues are flushed, and the path on the
port of every circuit not DISABLED goes DOWN, in ascending index (log 12). A link already DOWN does not change. -/
def execLinkDown (p : Port) (s : State) : Host.Outcome State Fault Refusal :=
  .next (match (s.port p).link with
    | .down => s
    | .up =>
      let s := (s.onPort p (fun k => { k with link := .down })).raisePort p .linkChange (.upDown .down)
      forEach allCircuits (fun c s => if (s.circuit c).engaged then s.pathDown c p else s) (s.flushQueues p))

end Sys2Proof.Machine
end

