-- ==== Sys2Proof/Machine/LineUnit.lean ====
section
/-! DEFINITION. The receive side of the tributary lines (chapter 1, R1 to R10) and the line commands. -/

namespace Sys2Proof.Machine

/-- The alignment word 0011011 in bits 2 to 8 of an octet (section 1.3). -/
def isAlignmentWord (octet : BitVec 8) : Bool := octet.extractLsb' 0 7 == 0b0011011#7

/-- The remote alarm state made CLEAR, with its flag when it was SEEN (R5, R7). -/
def State.clearRemoteAlarm (s : State) (t : Fin 16) : State :=
  let was := (s.tributary t).line.remoteAlarm
  let s := s.onLine t (fun u => { u with remoteAlarm := .clear, lastIndicator := none, alarmRun := 0 })
  if was = .seen then s.raiseTributary t .remoteAlarmChange (.seen .clear) else s

/-- R5: alignment ends: SEARCHING with ALIGN_CHANGE, the remote alarm CLEAR, the source GENERATED, the search in the given
phase. -/
def State.loseAlignment (s : State) (t : Fin 16) (search : SearchPhase) : State :=
  let s := s.onLine t (fun u => { u with
    alignment := .searching, erroredRun := 0, search := search, searchBits := 0, source := .generated,
    frameBits := 0, oddFrame := false, gathered := [] })
  (s.raiseTributary t .alignChange (.alignment .searching)).clearRemoteAlarm t

/-- R2: loss of signal is declared, with what it brings at the same instant: the end of alignment (R5), the event source
of an UNFRAMED tributary GENERATED (R8), LOOP to FREE (R155). -/
def State.declareLoss (s : State) (t : Fin 16) : State :=
  let was := (s.tributary t).line.alignment
  let s := s.onLine t (fun u => { u with
    signal := .lost, zeroRun := 0, blockBits := 0, blockOnes := 0, source := .generated,
    search := .idle, searchBits := 0, frameBits := 0, gathered := [] })
  let s := s.raiseTributary t .signalChange (.signal .lost)
  let s := if was = .aligned then s.loseAlignment t .idle else s
  s.loopFollows t

/-- R2: loss of signal clears: the search of a FRAMED tributary begins (R4), the event source of an UNFRAMED one is LINE
with a new frame phase (R8), LOOP returns where it is in force (R155). -/
def State.clearLoss (s : State) (t : Fin 16) : State :=
  let framing := (s.tributary t).entry.framing
  let s := s.onLine t (fun u =>
    let u := { u with signal := .present, zeroRun := 0, blockBits := 0, blockOnes := 0 }
    match framing with
    | .off => u
    | .framed => { u with search := .hunt, searchBits := 0 }
    | .unframed => { u with source := .line, frameBits := 0, gathered := [] })
  (s.raiseTributary t .signalChange (.signal .present)).loopFollows t

/-- The loss-of-signal detector takes one bit (R2). -/
def State.signalBit (s : State) (t : Fin 16) (b : Bool) : State :=
  let u := (s.tributary t).line
  match u.signal with
  | .present =>
    let run := if b then 0 else u.zeroRun + 1
    if 256 ≤ run then s.declareLoss t else s.onLine t (fun u => { u with zeroRun := run })
  | .lost =>
    let ones := u.blockOnes + b.toNat
    if u.blockBits + 1 < 256 then s.onLine t (fun u => { u with blockBits := u.blockBits + 1, blockOnes := ones })
    else if 32 ≤ ones then s.clearLoss t
    else s.onLine t (fun u => { u with blockBits := 0, blockOnes := 0 })

/-- The AIS detector takes one bit (R3): at the end of each block of 512 it judges the zeros and starts again. -/
def State.aisBit (s : State) (t : Fin 16) (b : Bool) : State :=
  let u := (s.tributary t).line
  let zeros := u.aisZeros + (!b).toNat
  if u.aisBits + 1 < 512 then s.onLine t (fun u => { u with aisBits := u.aisBits + 1, aisZeros := zeros })
  else
    let now : SeenState := if zeros < 3 then .seen else .clear
    let s := s.onLine t (fun u => { u with aisBits := 0, aisZeros := 0, ais := now })
    if u.ais = now then s else s.raiseTributary t .aisChange (.seen now)

/-- R4: alignment is declared at the last bit of slot 0 of frame n+2, whose octet is the last eight bits. -/
def State.declareAlignment (s : State) (t : Fin 16) : State :=
  let s := s.onLine t (fun u => { u with
    alignment := .aligned, search := .idle, searchBits := 0, erroredRun := 0, remoteAlarm := .clear,
    lastIndicator := none, alarmRun := 0, source := .line, frameBits := 8, oddFrame := false, gathered := [u.recent] })
  s.raiseTributary t .alignChange (.alignment .aligned)

/-- The alignment search takes one bit, already in `recent` (R4). -/
def State.searchBit (s : State) (t : Fin 16) (b : Bool) : State :=
  let u := (s.tributary t).line
  let n := u.searchBits + 1
  let hunt : State := s.onLine t (fun u => { u with search := .hunt, searchBits := 0 })
  match u.search with
  | .idle => s
  | .hunt =>
    if 7 ≤ n && isAlignmentWord u.recent then
      s.onLine t (fun u => { u with search := .confirmOdd, searchBits := 6 })
    else s.onLine t (fun u => { u with searchBits := n })
  | .confirmOdd =>
    if n < 256 then s.onLine t (fun u => { u with searchBits := n })
    else if b then s.onLine t (fun u => { u with search := .confirmEven, searchBits := n })
    else hunt
  | .confirmEven =>
    if n < 518 then s.onLine t (fun u => { u with searchBits := n })
    else if isAlignmentWord u.recent then s.declareAlignment t
    else hunt

/-- R6: the remote alarm indicator of an odd frame is judged. -/
def State.alarmBit (s : State) (t : Fin 16) (b : Bool) : State :=
  let u := (s.tributary t).line
  let indicated : SeenState := if b then .seen else .clear
  if u.remoteAlarm = indicated then
    s.onLine t (fun u => { u with lastIndicator := some b, alarmRun := 0 })
  else
    let run := if u.lastIndicator = some b then u.alarmRun + 1 else 1
    if 2 ≤ run then
      (s.onLine t (fun u => { u with lastIndicator := some b, alarmRun := 0, remoteAlarm := indicated })).raiseTributary t
        .remoteAlarmChange (.seen indicated)
    else s.onLine t (fun u => { u with lastIndicator := some b, alarmRun := run })

/-- R5: the alignment word of an even frame is checked at the last bit of its slot. -/
def State.wordCheck (s : State) (t : Fin 16) : State :=
  let u := (s.tributary t).line
  if isAlignmentWord u.recent then s.onLine t (fun u => { u with erroredRun := 0 })
  else if u.erroredRun + 1 < 3 then s.onLine t (fun u => { u with erroredRun := u.erroredRun + 1 })
  else s.loseAlignment t .hunt

/-- One bit of a frame from the line, already in `recent`: it joins the frame, and at the 256th the receive frame event
occurs (R8). Answers the position of the bit in the frame, 1 to 256, beside the state. -/
def State.frameBit (s : State) (t : Fin 16) : State :=
  let u := (s.tributary t).line
  let n := u.frameBits + 1
  let gathered := if n % 8 = 0 then u.gathered ++ [u.recent] else u.gathered
  if n < 256 then s.onLine t (fun u => { u with frameBits := n, gathered := gathered })
  else
    let s := s.onLine t (fun u => { u with frameBits := 0, oddFrame := !u.oddFrame, gathered := [] })
    s.receiveFrame t gathered false

/-- The framing side takes one bit, already in `recent` (R4 to R6, R8). -/
def State.framingBit (s : State) (t : Fin 16) (b : Bool) : State :=
  let k := s.tributary t
  let n := k.line.frameBits + 1
  match k.entry.framing, k.line.alignment with
  | .off, _ => s
  | .unframed, _ => s.frameBit t
  | .framed, .searching => s.searchBit t b
  | .framed, .notFramed => s
  | .framed, .aligned =>
    let odd := k.line.oddFrame
    let s := s.frameBit t
    if odd && n == 3 then s.alarmBit t b
    else if !odd && n == 8 then s.wordCheck t
    else s

/-- One received bit (R1): the transmit bit of LOOP ends (R148); the loss-of-signal and AIS detectors take the bit; and
the framing side takes it when the signal was PRESENT before it and is after it (R4, R5, R8, log 13). -/
def State.receiveBit (s : State) (t : Fin 16) (b : Bool) : State :=
  let was := (s.tributary t).line.signal
  let s := s.loopBit t
  let s := s.onLine t (fun u => { u with recent := (u.recent <<< 1) ||| BitVec.ofNat 8 b.toNat })
  let s := s.signalBit t b
  let s := s.aisBit t b
  if was = .present ∧ (s.tributary t).line.signal = .present then s.framingBit t b else s

/-- Received bits of a tributary, in line order, each judged whole before the next. -/
def State.receiveBits (s : State) (t : Fin 16) (bits : List Bool) : State :=
  forEach bits (fun b s => s.receiveBit t b) s

/-- R7: an accepted write of the framing field restarts the framing-dependent state of the receive side. -/
def State.restartFraming (s : State) (t : Fin 16) : State :=
  let k := s.tributary t
  let signal := k.line.signal
  let was := k.line.alignment
  let now : AlignmentState := if k.entry.framing = .framed then .searching else .notFramed
  let live : Bool := signal == .present
  let s := s.onLine t (fun u => { u with
    alignment := now
    search := if k.entry.framing = .framed && live then .hunt else .idle
    searchBits := 0, erroredRun := 0, frameBits := 0, oddFrame := false, gathered := []
    source := if k.entry.framing = .unframed && live then .line else .generated })
  let s := if was = .aligned then s.raiseTributary t .alignChange (.alignment now) else s
  s.clearRemoteAlarm t

/-- A generated receive frame event is due (R8): the source is GENERATED and LT has advanced by 1024 ticks or more since
the previous event. -/
def State.generatedDue (s : State) (t : Fin 16) : Bool :=
  let u := (s.tributary t).line
  u.source == .generated && reached s.lt (u.lastEvent + 1024)

/-! ### The line commands -/

/-- LOSS_OF_SIGNAL_DECLARED (R2): the received bits up to the declaration are judged. -/
def execLossOfSignalDeclared (t : Fin 16) (bits : List Bool) (s : State) : Host.Outcome State Fault Refusal :=
  .next (s.receiveBits t bits)

/-- LOSS_OF_SIGNAL_CLEARED (R2): the received bits up to the end of the clearing block are judged. -/
def execLossOfSignalCleared (t : Fin 16) (bits : List Bool) (s : State) : Host.Outcome State Fault Refusal :=
  .next (s.receiveBits t bits)

/-- AIS_BLOCK_END (R3): the received bits up to the end of the 512-bit block are judged. -/
def execAisBlockEnd (t : Fin 16) (bits : List Bool) (s : State) : Host.Outcome State Fault Refusal :=
  .next (s.receiveBits t bits)

/-- ALIGNMENT_DECLARED (R4): the received bits up to the last bit of slot 0 of frame n+2 are judged. -/
def execAlignmentDeclared (t : Fin 16) (bits : List Bool) (s : State) : Host.Outcome State Fault Refusal :=
  .next (s.receiveBits t bits)

/-- ALIGNMENT_LOST (R5): the received bits up to the last bit of the third errored word are judged. -/
def execAlignmentLost (t : Fin 16) (bits : List Bool) (s : State) : Host.Outcome State Fault Refusal :=
  .next (s.receiveBits t bits)

/-- REMOTE_ALARM_STATE_CHANGE (R6): the received bits up to the second agreeing indicator are judged. -/
def execRemoteAlarmStateChange (t : Fin 16) (bits : List Bool) (s : State) : Host.Outcome State Fault Refusal :=
  .next (s.receiveBits t bits)

/-- RECEIVE_FRAME_EVENT (R8): the received bits up to the last bit of the frame are judged. -/
def execReceiveFrameEvent (t : Fin 16) (bits : List Bool) (s : State) : Host.Outcome State Fault Refusal :=
  .next (s.receiveBits t bits)

/-- GENERATED_FRAME_EVENT (R8): a due event carries 32 octets of 255 with the fault mark FAULTED (R10); one that is not
due does not occur (log 4). -/
def execGeneratedFrameEvent (t : Fin 16) (s : State) : Host.Outcome State Fault Refusal :=
  .next (if s.generatedDue t then s.receiveFrame t (List.replicate 32 255) true else s)

end Sys2Proof.Machine
end

