-- ==== Sys2Proof/Machine/Tables.lean ====
section
/-! DEFINITION. The circuit, tributary and port tables (chapter 3): field items read and written, TABLE_READ, TABLE_WRITE. -/

namespace Sys2Proof.Machine

/-- The result of a request: the verb, object kind and index it carried, a code, the request note and the data (R192). -/
def resultOf (verb kind index : Byte) (code : Code) (clamped : Bool := false) (data : List Byte := []) : Result :=
  { verb := verb, kind := kind, index := index, code := code, clamped := clamped, data := data }

/-! ### Field items of a result (R190, R193) -/

/-- The code of a receive policy (R190). -/
def Policy.code : Policy → Nat
  | .merge => 0
  | .preferA => 1
  | .preferB => 2

/-- The code of a late policy (R190). -/
def LatePolicy.code : LatePolicy → Nat
  | .keepDelay => 0
  | .realign => 1

/-- The code of a substitution (R190). -/
def Substitution.code : Substitution → Nat
  | .allOnes => 0
  | .idle => 1
  | .repeatLast => 2

/-- The code of a framing (R190). -/
def Framing.code : Framing → Nat
  | .off => 0
  | .framed => 1
  | .unframed => 2

/-- A path record's octets: none when absent, 8 without a tag, 11 with one (R190, R193). -/
def pathOctets : Option PathRecord → List Byte
  | none => []
  | some r =>
    octets 6 r.destination.toNat ++ octets 2 r.outLabel ++
      (match r.tag with | none => [] | some x => octets 2 x.networkTag ++ octets 1 x.priority)

/-- The values of a circuit entry, in code order 1 to 24 (R190). -/
def CircuitEntry.values (e : CircuitEntry) : List (List Byte) :=
  [ octets 1 (match e.tributary with | none => 255 | some t => t.val),
    octets 4 e.slotSet.toNat, octets 1 e.frames, octets 2 e.inLabel, pathOctets e.paths.a, pathOctets e.paths.b,
    octets 1 e.depth, octets 2 e.playoutDelay, octets 1 e.window, octets 1 e.shiftA, octets 1 e.shiftB,
    octets 1 e.lockThreshold, octets 2 e.unlockThreshold, octets 2 e.reentryTolerance, octets 1 e.starvationTimeout,
    octets 1 e.pathTimeout, octets 1 e.engageTimeout, octets 1 e.restoreHoldOff, octets 1 e.policy.code,
    octets 1 e.latePolicy.code, octets 1 e.substitution.code, octets 2 e.rttLimit, octets 2 e.skewLimit,
    octets 4 e.enables.toNat ]

/-- The values of a tributary entry, in code order 1 to 5 (R190). -/
def TributaryEntry.values (e : TributaryEntry) : List (List Byte) :=
  [ octets 1 e.framing.code, octets 1 e.clockMode.code, octets 1 e.timing.val, [e.idle], octets 4 e.enables.toNat ]

/-- The values of a port entry, in code order 1 to 4 (R190). -/
def PortEntry.values (e : PortEntry) : List (List Byte) :=
  [ octets 6 e.address.toNat, octets 1 e.accept.toNat, octets 2 e.frameType.toNat, octets 4 e.enables.toNat ]

/-- The field items of a result: code, item length, note, value, for the codes from 1 (R193). -/
def fieldItems (values : List (List Byte)) (notes : List Nat) : List Byte :=
  (values.zipIdx.map (fun x =>
    octets 1 (x.2 + 1) ++ octets 1 x.1.length ++ octets 1 (notes.getD x.2 0) ++ x.1)).flatten

/-- An entry in a result: its index, the length of its field items (log 19), the items (R193). -/
def entryOctets (index : Nat) (values : List (List Byte)) (notes : List Nat) : List Byte :=
  octets 1 index ++ octets 2 (fieldItems values notes).length ++ fieldItems values notes

/-- The notes of an accepted write: CLAMPED (1) where the stored value differs from the one the request gave, or, for an
absent field, from the one held before (R31); both are in `asked`. -/
def clampNotes (asked stored : List (List Byte)) : List Nat :=
  List.zipWith (fun a b => if a = b then 0 else 1) asked stored

/-! ### TABLE_READ (R51, R175) -/

/-- The entries of a table from an index on, at most `n`, as they are stored (R51, R175). -/
def State.entriesFrom (s : State) (kind : Byte) (first n : Nat) : List (List Byte) :=
  let all : List (List (List Byte)) :=
    match kind.toNat with
    | 1 => allCircuits.map (fun c => (s.circuit c).entry.values)
    | 2 => allTributaries.map (fun t => (s.tributary t).entry.values)
    | 3 => [(s.port .A).entry.values, (s.port .B).entry.values]
    | _ => []
  ((all.zipIdx.drop first).take n).map (fun x => entryOctets x.2 x.1 [])

/-- The number of entries of a table by its object kind (R30, R44, R47); none for a kind that is no table. -/
def tableSize (kind : Byte) : Option Nat :=
  match kind.toNat with
  | 1 => some 64
  | 2 => some 16
  | 3 => some 2
  | _ => none

/-- A count or n clamped to 1..16 (R175, R179). -/
def clampCount (n : Byte) : Nat := clampNat 1 16 n.toNat

/-- TABLE_READ (R175): up to 16 entries from the index on, with END when the table ends before the count. -/
def State.tableRead (s : State) (kind index count : Byte) : Result :=
  match tableSize kind with
  | none => resultOf 1 kind index .badObject
  | some size =>
    if size ≤ index.toNat then resultOf 1 kind index .badIndex
    else
      let n := clampCount count
      let entries := s.entriesFrom kind index.toNat n
      resultOf 1 kind index .ok (count.toNat != n)
        (octets 1 (if size < index.toNat + n then 1 else 0) ++ octets 1 entries.length ++ entries.flatten)

/-! ### Field items of a write, decoded (R33, R191) -/

/-- A decoded field of a circuit write, its value as given. -/
inductive CircuitField where
  | tributary (v : Option (Fin 16))
  | slotSet (v : BitVec 32)
  | frames (v : Nat)
  | inLabel (v : Nat)
  | path (p : Port) (v : Option PathRecord)
  | depth (v : Nat)
  | playoutDelay (v : Nat)
  | window (v : Nat)
  | shiftA (v : Nat)
  | shiftB (v : Nat)
  | lockThreshold (v : Nat)
  | unlockThreshold (v : Nat)
  | reentryTolerance (v : Nat)
  | starvationTimeout (v : Nat)
  | pathTimeout (v : Nat)
  | engageTimeout (v : Nat)
  | restoreHoldOff (v : Nat)
  | policy (v : Policy)
  | latePolicy (v : LatePolicy)
  | substitution (v : Substitution)
  | rttLimit (v : Nat)
  | skewLimit (v : Nat)
  | enables (v : BitVec 14)
  deriving DecidableEq, Repr

/-- A number of the width a field has; none for another length (R191). -/
def readNumber (n : Nat) (v : List Byte) : Option Nat := if v.length = n then some (number v) else none

/-- A path item: the removal mark, a record, a record with a tag; none for another length (R190, R191). -/
def readPathRecord (v : List Byte) : Option (Option PathRecord) :=
  match v.length with
  | 0 => some none
  | 8 => some (some ⟨BitVec.ofNat 48 (numberAt v 0 6), numberAt v 6 2, none⟩)
  | 11 => some (some ⟨BitVec.ofNat 48 (numberAt v 0 6), numberAt v 6 2, some ⟨numberAt v 8 2, numberAt v 10 1⟩⟩)
  | _ => none

/-- A flag mask of `n` flags; none for another length or a bit that names no flag (R191). -/
def readMask (n : Nat) (v : List Byte) : Option (BitVec n) :=
  match readNumber 4 v with
  | none => none
  | some m => if m < 2 ^ n then some (BitVec.ofNat n m) else none

/-- A field item of a circuit write decoded (R33, R190, R191); none is BAD_VALUE. -/
def readCircuitField (i : FieldItem) : Option CircuitField :=
  let v := i.value
  match i.code.toNat with
  | 1 => (readNumber 1 v).bind (fun n =>
      if n = 255 then some (.tributary none) else if h : n < 16 then some (.tributary (some ⟨n, h⟩)) else none)
  | 2 => (readNumber 4 v).bind (fun n => if n % 2 = 1 then none else some (.slotSet (BitVec.ofNat 32 n)))
  | 3 => (readNumber 1 v).map .frames
  | 4 => (readNumber 2 v).map .inLabel
  | 5 => (readPathRecord v).map (.path .A)
  | 6 => (readPathRecord v).map (.path .B)
  | 7 => (readNumber 1 v).map .depth
  | 8 => (readNumber 2 v).map .playoutDelay
  | 9 => (readNumber 1 v).map .window
  | 10 => (readNumber 1 v).map .shiftA
  | 11 => (readNumber 1 v).map .shiftB
  | 12 => (readNumber 1 v).map .lockThreshold
  | 13 => (readNumber 2 v).map .unlockThreshold
  | 14 => (readNumber 2 v).map .reentryTolerance
  | 15 => (readNumber 1 v).map .starvationTimeout
  | 16 => (readNumber 1 v).map .pathTimeout
  | 17 => (readNumber 1 v).map .engageTimeout
  | 18 => (readNumber 1 v).map .restoreHoldOff
  | 19 => (readNumber 1 v).bind (fun n => match n with
      | 0 => some (.policy .merge)
      | 1 => some (.policy .preferA)
      | 2 => some (.policy .preferB)
      | _ => none)
  | 20 => (readNumber 1 v).bind (fun n => match n with
      | 0 => some (.latePolicy .keepDelay)
      | 1 => some (.latePolicy .realign)
      | _ => none)
  | 21 => (readNumber 1 v).bind (fun n => match n with
      | 0 => some (.substitution .allOnes)
      | 1 => some (.substitution .idle)
      | 2 => some (.substitution .repeatLast)
      | _ => none)
  | 22 => (readNumber 2 v).map .rttLimit
  | 23 => (readNumber 2 v).map .skewLimit
  | 24 => (readMask 14 v).map .enables
  | _ => none

/-- A decoded field of a tributary write. -/
inductive TributaryField where
  | framing (v : Framing)
  | clockMode (v : ClockMode)
  | timing (v : Fin 64)
  | idle (v : Byte)
  | enables (v : BitVec 5)
  deriving DecidableEq, Repr

/-- A field item of a tributary write decoded (R33, R190, R191); none is BAD_VALUE. -/
def readTributaryField (i : FieldItem) : Option TributaryField :=
  let v := i.value
  match i.code.toNat with
  | 1 => (readNumber 1 v).bind (fun n => match n with
      | 0 => some (.framing .off)
      | 1 => some (.framing .framed)
      | 2 => some (.framing .unframed)
      | _ => none)
  | 2 => (readNumber 1 v).bind (fun n => match n with
      | 0 => some (.clockMode .free)
      | 1 => some (.clockMode .loop)
      | 2 => some (.clockMode .adaptive)
      | 3 => some (.clockMode .holdover)
      | _ => none)
  | 3 => (readNumber 1 v).bind (fun n => if h : n < 64 then some (.timing ⟨n, h⟩) else none)
  | 4 => (readNumber 1 v).map (fun n => .idle (BitVec.ofNat 8 n))
  | 5 => (readMask 5 v).map .enables
  | _ => none

/-- A decoded field of a port write, the frame type value as given. -/
inductive PortField where
  | address (v : Address)
  | accept (v : Bool)
  | frameType (v : Nat)
  | enables (v : BitVec 3)
  deriving DecidableEq, Repr

/-- The group bit of an address: the least significant bit of its first octet (R33). -/
def groupBit (a : Address) : Bool := a.getLsbD 40

/-- A field item of a port write decoded (R33, R190, R191); none is BAD_VALUE. -/
def readPortField (i : FieldItem) : Option PortField :=
  let v := i.value
  match i.code.toNat with
  | 1 => (readNumber 6 v).bind (fun n =>
      if groupBit (BitVec.ofNat 48 n) then none else some (.address (BitVec.ofNat 48 n)))
  | 2 => (readNumber 1 v).bind (fun n => match n with
      | 0 => some (.accept false)
      | 1 => some (.accept true)
      | _ => none)
  | 3 => (readNumber 2 v).map .frameType
  | 4 => (readMask 3 v).map .enables
  | _ => none

/-- Every item decoded, each code given at most once; none is BAD_VALUE (R31, R32 step 3, R191). -/
def readFields {α : Type} (read : FieldItem → Option α) (items : List FieldItem) : Option (List α) :=
  if (items.map FieldItem.code).Nodup then items.mapM read else none

/-! ### The circuit table (R31 to R43) -/

/-- The structural fields (R30, R38). -/
def CircuitField.structural : CircuitField → Bool
  | .tributary _ | .slotSet _ | .frames _ | .inLabel _ | .path _ _ | .depth _ | .playoutDelay _ => true
  | .window _ | .shiftA _ | .shiftB _ | .lockThreshold _ | .unlockThreshold _ | .reentryTolerance _
  | .starvationTimeout _ | .pathTimeout _ | .engageTimeout _ | .restoreHoldOff _ | .policy _ | .latePolicy _
  | .substitution _ | .rttLimit _ | .skewLimit _ | .enables _ => false

/-- Whether a field is the tributary or the slot set (R39). -/
def CircuitField.placesSlots : CircuitField → Bool
  | .tributary _ => true
  | .slotSet _ => true
  | _ => false

/-- Whether a field is the in-label (R40). -/
def CircuitField.isLabel : CircuitField → Bool
  | .inLabel _ => true
  | _ => false

/-- A value rounded down to a power of two and taken into `low`..128 (R36). -/
def powerOfTwo (low v : Nat) : Nat :=
  if 128 ≤ v then 128 else if 64 ≤ v then 64 else if 32 ≤ v then 32 else if 16 ≤ v then 16 else
    if low ≤ 8 then 8 else low

/-- The record a write gives, as it is stored (R35). -/
def PathRecord.clamped (r : PathRecord) : PathRecord :=
  { r with outLabel := clampNat 1 4095 r.outLabel,
           tag := r.tag.map (fun x => ⟨clampNat 1 4094 x.networkTag, clampNat 0 7 x.priority⟩) }

/-- A field's value as given put into an entry. -/
def CircuitField.ask (e : CircuitEntry) : CircuitField → CircuitEntry
  | .tributary v => { e with tributary := v }
  | .slotSet v => { e with slotSet := v }
  | .frames v => { e with frames := v }
  | .inLabel v => { e with inLabel := v }
  | .path p v => { e with paths := e.paths.set p v }
  | .depth v => { e with depth := v }
  | .playoutDelay v => { e with playoutDelay := v }
  | .window v => { e with window := v }
  | .shiftA v => { e with shiftA := v }
  | .shiftB v => { e with shiftB := v }
  | .lockThreshold v => { e with lockThreshold := v }
  | .unlockThreshold v => { e with unlockThreshold := v }
  | .reentryTolerance v => { e with reentryTolerance := v }
  | .starvationTimeout v => { e with starvationTimeout := v }
  | .pathTimeout v => { e with pathTimeout := v }
  | .engageTimeout v => { e with engageTimeout := v }
  | .restoreHoldOff v => { e with restoreHoldOff := v }
  | .policy v => { e with policy := v }
  | .latePolicy v => { e with latePolicy := v }
  | .substitution v => { e with substitution := v }
  | .rttLimit v => { e with rttLimit := v }
  | .skewLimit v => { e with skewLimit := v }
  | .enables v => { e with enables := v }

/-- A field's value taken into its own fixed range (R30, R34, R35, R36). PD has no fixed range (R37). -/
def CircuitField.clamped : CircuitField → CircuitField
  | .frames v => .frames (clampNat 1 16 v)
  | .inLabel v => .inLabel (clampNat 0 4095 v)
  | .path p v => .path p (v.map PathRecord.clamped)
  | .depth v => .depth (powerOfTwo 8 v)
  | .window v => .window (powerOfTwo 16 v)
  | .shiftA v => .shiftA (clampNat 0 8 v)
  | .shiftB v => .shiftB (clampNat 0 12 v)
  | .lockThreshold v => .lockThreshold (clampNat 1 255 v)
  | .unlockThreshold v => .unlockThreshold (clampNat 0 1023 v)
  | .reentryTolerance v => .reentryTolerance (clampNat 0 1023 v)
  | .starvationTimeout v => .starvationTimeout (clampNat 2 255 v)
  | .pathTimeout v => .pathTimeout (clampNat 2 255 v)
  | .engageTimeout v => .engageTimeout (clampNat 1 255 v)
  | .restoreHoldOff v => .restoreHoldOff (clampNat 0 255 v)
  | .rttLimit v => .rttLimit (clampNat 0 65535 v)
  | .skewLimit v => .skewLimit (clampNat 0 65535 v)
  | .tributary v => .tributary v
  | .slotSet v => .slotSet v
  | .playoutDelay v => .playoutDelay v
  | .policy v => .policy v
  | .latePolicy v => .latePolicy v
  | .substitution v => .substitution v
  | .enables v => .enables v

/-- The dependent re-clamping: b raised to a, the unlock threshold to the lock threshold, PD into F..(depth − 1) × F
(R34, R37). -/
def CircuitEntry.settled (e : CircuitEntry) : CircuitEntry :=
  { e with
    shiftB := max e.shiftA e.shiftB
    unlockThreshold := max e.lockThreshold e.unlockThreshold
    playoutDelay := clampNat e.frames ((e.depth - 1) * e.frames) e.playoutDelay }

/-- The entry the request asks for: each present field as given, each absent one as held (R31). -/
def askedEntry (e : CircuitEntry) (fields : List CircuitField) : CircuitEntry := fields.foldl CircuitField.ask e

/-- The effective entry (R32 step 5). -/
def effectiveEntry (e : CircuitEntry) (fields : List CircuitField) : CircuitEntry :=
  (fields.foldl (fun e f => f.clamped.ask e) e).settled

/-- Two slot sets have a timeslot in common (R39). -/
def sharesSlot (x y : BitVec 32) : Bool := x &&& y != 0

/-- R39: the effective entry of circuit `c` names a FRAMED tributary that another entry names with a shared timeslot. -/
def State.slotConflict (s : State) (c : Fin 64) (e : CircuitEntry) : Bool :=
  s.framingOf e == .framed && allCircuits.any (fun d =>
    d != c && (s.circuit d).entry.tributary == e.tributary && sharesSlot (s.circuit d).entry.slotSet e.slotSet)

/-- R40: another entry has the in-label, which is not 0. -/
def State.labelConflict (s : State) (c : Fin 64) (label : Nat) : Bool :=
  label != 0 && allCircuits.any (fun d => d != c && (s.circuit d).entry.inLabel == label)

/-- R42: a stored change of W, a or b of a circuit that is not DISABLED clears its lock, without LOCK_LOST, and both
counts. -/
def Circuit.afterLoopWrite (k : Circuit) (old : CircuitEntry) : Circuit :=
  if k.engaged && (k.entry.window != old.window || k.entry.shiftA != old.shiftA || k.entry.shiftB != old.shiftB) then
    { k with recovery := k.recovery.unlock }
  else k

/-- R43: a stored change of the receive policy of a circuit that is not DISABLED stops the hold-off and sets the active
path afresh. -/
def Circuit.afterPolicyWrite (k : Circuit) (old : CircuitEntry) : Circuit :=
  if k.engaged && k.entry.policy != old.policy then
    { k with merge := { k.merge with holdOff := none, active := freshActive k.entry.policy k.merge.up } }
  else k

/-- R43, R67: a write that leaves REALIGN returns the late run to 0. -/
def Circuit.afterLateWrite (k : Circuit) (old : CircuitEntry) : Circuit :=
  if old.latePolicy = .realign ∧ k.entry.latePolicy ≠ .realign then
    { k with control := { k.control with lateRun := 0 } }
  else k

/-- An accepted circuit write stored, with its effects on a running circuit (R31, R42, R43). -/
def Circuit.written (k : Circuit) (e : CircuitEntry) : Circuit :=
  ((({ k with entry := e } : Circuit).afterLoopWrite k.entry).afterPolicyWrite k.entry).afterLateWrite k.entry

/-- A TABLE_WRITE of the circuit table, from step 3 of R32 on. The request note is 0 (DESIGN CHOICE, log 31). -/
def State.writeCircuit (s : State) (kind index : Byte) (c : Fin 64) (items : List FieldItem) : State × Result :=
  let k := s.circuit c
  match readFields readCircuitField items with
  | none => (s, resultOf 2 kind index .badValue)
  | some fields =>
    let e := effectiveEntry k.entry fields
    if k.engaged && fields.any CircuitField.structural then (s, resultOf 2 kind index .circuitActive)
    else if fields.any CircuitField.placesSlots && s.slotConflict c e then (s, resultOf 2 kind index .slotConflict)
    else if fields.any CircuitField.isLabel && s.labelConflict c e.inLabel then (s, resultOf 2 kind index .labelInUse)
    else (s.onCircuit c (fun k => k.written e),
      resultOf 2 kind index .ok false
        (entryOctets c.val e.values (clampNotes (askedEntry k.entry fields).values e.values)))

/-! ### The tributary table (R44 to R46, R150) -/

/-- The framing a tributary write carries, if any. -/
def framingGiven (fields : List TributaryField) : Option Framing :=
  fields.findSome? (fun f => match f with | .framing v => some v | _ => none)

/-- The requested clock mode a tributary write carries, if any. -/
def modeGiven (fields : List TributaryField) : Option ClockMode :=
  fields.findSome? (fun f => match f with | .clockMode v => some v | _ => none)

/-- Whether a tributary write carries the timing circuit. -/
def timingGiven (fields : List TributaryField) : Bool :=
  fields.any (fun f => match f with | .timing _ => true | _ => false)

/-- A field stored; the timing circuit only when the requested mode held before is other than ADAPTIVE (R46 check 1). -/
def TributaryField.store (held : ClockMode) (e : TributaryEntry) : TributaryField → TributaryEntry
  | .framing v => { e with framing := v }
  | .clockMode v => { e with clockMode := v }
  | .timing v => if held = .adaptive then e else { e with timing := v }
  | .idle v => { e with idle := v }
  | .enables v => { e with enables := v }

/-- R45: two circuit entries naming the tributary have a timeslot in common. -/
def State.slotsClash (s : State) (t : Fin 16) : Bool :=
  allCircuits.any (fun c => allCircuits.any (fun d =>
    c != d && (s.circuit c).names t && (s.circuit d).names t
      && sharesSlot (s.circuit c).entry.slotSet (s.circuit d).entry.slotSet))

/-- R46 checks 2 and 3: the judgement of a requested clock mode, against the timing circuit check 1 leaves in force. -/
def State.judgeMode (s : State) (t : Fin 16) (e : TributaryEntry) (m : ClockMode) : Code :=
  let actual := (s.tributary t).clocking.actual
  if (m = .loop ∨ m = .adaptive) ∧ (actual = .loop ∨ actual = .adaptive) then .modeSequence
  else if m = .adaptive ∧ !(s.circuit e.timing).names t then .notReady
  else .ok

/-- The judgement of a tributary write from step 4 of R32 on (R45, R46). -/
def State.judgeTributary (s : State) (t : Fin 16) (e : TributaryEntry) (fields : List TributaryField) : Code :=
  if (framingGiven fields).isSome && allCircuits.any (fun c => (s.circuit c).engaged && (s.circuit c).names t) then
    .circuitActive
  else if framingGiven fields = some .framed ∧ s.slotsClash t then .slotConflict
  else
    match modeGiven fields with
    | none => .ok
    | some m => s.judgeMode t e m

/-- The note of each field of an accepted tributary write: IGNORED (2) against a timing circuit not stored (R31, R46). -/
def tributaryNotes (ignored : Bool) : List Nat := [0, 0, if ignored then 2 else 0, 0, 0]

/-- An accepted tributary write stored: the entry, the pending write of R150, and the framing's restart (R7). -/
def State.storeTributary (s : State) (t : Fin 16) (e : TributaryEntry) (fields : List TributaryField) : State :=
  let s := s.onTributary t (fun k => { k with entry := e })
  let s := match modeGiven fields with
    | none => s
    | some m => s.onClocking t (fun k => { k with pendingWrite := some (m == .holdover) })
  match framingGiven fields with
  | none => s
  | some _ => s.restartFraming t

/-- A TABLE_WRITE of the tributary table, from step 3 of R32 on. The request note is 0 (DESIGN CHOICE, log 31). -/
def State.writeTributary (s : State) (kind index : Byte) (t : Fin 16) (items : List FieldItem) : State × Result :=
  let held := (s.tributary t).entry
  match readFields readTributaryField items with
  | none => (s, resultOf 2 kind index .badValue)
  | some fields =>
    let e := fields.foldl (TributaryField.store held.clockMode) held
    match s.judgeTributary t e fields with
    | .ok =>
      (s.storeTributary t e fields,
        resultOf 2 kind index .ok false
          (entryOctets t.val e.values (tributaryNotes (timingGiven fields && held.clockMode == .adaptive))))
    | code => (s, resultOf 2 kind index code)

/-! ### The port table (R47, R48) -/

/-- A field stored, the frame type value taken into 0x0600..0xFFFF (R34). -/
def PortField.store (e : PortEntry) : PortField → PortEntry
  | .address v => { e with address := v }
  | .accept v => { e with accept := v }
  | .frameType v => { e with frameType := BitVec.ofNat 16 (clampNat 0x0600 0xFFFF v) }
  | .enables v => { e with enables := v }

/-- A field's value as given put into an entry. -/
def PortField.ask (e : PortEntry) : PortField → PortEntry
  | .address v => { e with address := v }
  | .accept v => { e with accept := v }
  | .frameType v => { e with frameType := BitVec.ofNat 16 v }
  | .enables v => { e with enables := v }

/-- A port write stored (R48): the values it replaces stay those of the frames already captured (log 8). -/
def PortState.written (k : PortState) (e : PortEntry) (lt : Ticks) : PortState :=
  let earlier := if e.address = k.entry.address ∧ e.frameType = k.entry.frameType then k.earlier
    else k.earlier ++ [⟨lt, k.entry.address, k.entry.frameType⟩]
  { k with entry := e, earlier := earlier }

/-- A TABLE_WRITE of the port table, from step 3 of R32 on. The request note is 0 (DESIGN CHOICE, log 31). -/
def State.writePort (s : State) (kind index : Byte) (p : Port) (items : List FieldItem) : State × Result :=
  let held := (s.port p).entry
  match readFields readPortField items with
  | none => (s, resultOf 2 kind index .badValue)
  | some fields =>
    let e := fields.foldl PortField.store held
    (s.onPort p (fun k => k.written e s.lt),
      resultOf 2 kind index .ok false
        (entryOctets (portIndex p) e.values (clampNotes (fields.foldl PortField.ask held).values e.values)))

/-- TABLE_WRITE (R31, R32): steps 1 and 2, then the table's own write. DESIGN CHOICE (log 31): CLAMPED stands against the
fields alone, and the request note of a write's result is 0. -/
def State.tableWrite (s : State) (kind index : Byte) (items : List FieldItem) : State × Result :=
  match kind.toNat with
  | 1 =>
    match readCircuit index with
    | none => (s, resultOf 2 kind index .badIndex)
    | some c => s.writeCircuit kind index c items
  | 2 =>
    match readTributary index with
    | none => (s, resultOf 2 kind index .badIndex)
    | some t => s.writeTributary kind index t items
  | 3 =>
    match readPort index with
    | none => (s, resultOf 2 kind index .badIndex)
    | some p => s.writePort kind index p items
  | _ => (s, resultOf 2 kind index .badObject)

/-! ### The rows -/

/-- The result of the latest request (log 11). -/
def State.answered (s : State) (r : Result) : State := { s with answer := some r }

/-- TABLE_READ (R175). -/
def execTableRead (kind index count : Byte) (s : State) : Host.Outcome State Fault Refusal :=
  .next (s.answered (s.tableRead kind index count))

/-- TABLE_WRITE (R31). -/
def execTableWrite (kind index : Byte) (items : List FieldItem) (s : State) : Host.Outcome State Fault Refusal :=
  .next ((s.tableWrite kind index items).1.answered (s.tableWrite kind index items).2)

end Sys2Proof.Machine
end

