-- ==== Sys2Proof/Machine/Status.lean ====
section
/-! DEFINITION. STATUS_READ, COUNTERS_READ, FLAGS_CLEAR and EVENTS_TAKE (section 11.2, R176 to R179, R193). -/

namespace Sys2Proof.Machine

/-! ### Objects -/

/-- The objects of STATUS_READ (R173, R176). -/
inductive ObjectRef where
  | circuit (c : Fin 64)
  | tributary (t : Fin 16)
  | port (p : Port)
  | device
  deriving DecidableEq, Repr

/-- The object an object kind and index name (R173, R190): the refusal code BAD_OBJECT for a kind that is not an object,
BAD_INDEX for an index outside its range. -/
def readObject (kind index : Byte) : Except Code ObjectRef :=
  match kind.toNat with
  | 4 => match readCircuit index with | some c => .ok (.circuit c) | none => .error .badIndex
  | 5 => match readTributary index with | some t => .ok (.tributary t) | none => .error .badIndex
  | 6 => match readPort index with | some p => .ok (.port p) | none => .error .badIndex
  | 7 => if index = 0 then .ok .device else .error .badIndex
  | _ => .error .badObject

/-! ### Status items (R193) -/

/-- An unsigned value in `n` octets. -/
def unsignedItem (n v : Nat) : List Byte := octets n v

/-- A mark or state of two values. -/
def boolItem (b : Bool) : List Byte := octets 1 b.toNat

/-- A value that may be absent: absent values have length 0. -/
def optionItem {α : Type} (f : α → List Byte) : Option α → List Byte
  | none => []
  | some v => f v

/-- Status items from the values in position order: position code from 1, length, value (R193). -/
def statusItems (values : List (List Byte)) : List Byte :=
  (values.zipIdx.map (fun x => octets 1 (x.2 + 1) ++ octets 1 x.1.length ++ x.1)).flatten

/-- Circuit control's values (R71). -/
def controlValues (k : Circuit) : List (List Byte) :=
  [ octets 1 k.control.state.code,
    optionItem (fun x => octets 2 x.seq.toNat) k.buffer.pointer,
    optionItem (fun x => octets 4 x.ts.toNat) k.buffer.pointer,
    boolItem k.control.acquired, boolItem k.control.engageTimer.isSome, boolItem k.control.starvationTimer.isSome,
    octets 1 k.control.mismatchRun, octets 1 k.control.lateRun, octets 1 (pathCode k.merge.forced),
    octets 4 (if k.engaged then k.control.reserved else 0) ]

/-- The code of a packetizer phase (R193). -/
def Phase.code : Phase → Nat
  | .idle => 0
  | .armed => 1
  | .collecting => 2

/-- The send side's values (R85). -/
def sendValues (k : Circuit) : List (List Byte) :=
  [ octets 1 k.packetizer.phase.code, octets 2 k.packetizer.nextSeq.toNat, octets 1 k.packetizer.sendLog.length ]

/-- Arrival and merge's values (R106). -/
def mergeValues (k : Circuit) : List (List Byte) :=
  [ octets 1 k.merge.up.a.code, octets 1 k.merge.up.b.code,
    boolItem k.merge.timers.a.isSome, boolItem k.merge.timers.b.isSome,
    octets 1 (pathCode k.merge.active), boolItem k.merge.holdOff.isSome,
    octets 1 k.merge.skewSamples.length, optionItem (signedOctets 4) k.merge.skewEstimate ]

/-- The code of a history record's outcome (R193). -/
def PlayOutcome.code : PlayOutcome → Nat
  | .played => 0
  | .missed => 1

/-- The held entry at the pointer, if there is one (R126). -/
def Circuit.heldAtPointer (k : Circuit) : Option HeldEntry :=
  match k.buffer.pointer with
  | none => none
  | some x => k.buffer.slot k.entry.depth x.seq

/-- The playout buffer's values (R126). -/
def bufferValues (k : Circuit) : List (List Byte) :=
  [ optionItem (fun x => octets 2 x.seq.toNat) k.buffer.pointer, optionItem (fun x => octets 1 x.frame) k.buffer.pointer,
    octets 1 k.buffer.heldCount, octets 1 k.buffer.history.length,
    optionItem (fun h => octets 1 h.outcome.code) k.buffer.history.getLast?,
    optionItem (fun h => octets 1 (pathCode h.firstPath)) k.buffer.history.getLast?,
    boolItem k.buffer.startMark, octets 1 k.buffer.substitutionRun, boolItem k.buffer.lastFrame.isSome,
    optionItem (signedOctets 4) k.buffer.lastLead,
    optionItem (fun e => boolItem e.l) k.heldAtPointer, optionItem (fun e => boolItem e.r) k.heldAtPointer,
    optionItem (fun e => octets 4 e.ts.toNat) k.heldAtPointer ]

/-- Clock recovery's values (R146). -/
def recoveryValues (k : Circuit) : List (List Byte) :=
  let r := k.recovery
  [ optionItem (fun x => octets 4 (rtInt x).toNat) r.rt, signedOctets 2 r.freq, signedOctets 2 r.integrator,
    boolItem r.locked, octets 1 r.towardLock, octets 1 r.towardLoss,
    octets 1 (match r.window with | none => 0 | some w => w.count),
    optionItem (fun w => octets 1 w.length) r.window, optionItem (fun w => signedOctets 4 w.minimum) r.window,
    optionItem (signedOctets 2) r.lastError, (r.history.map (signedOctets 2)).flatten, optionItem (signedOctets 2) r.mean ]

/-- Delay measurement's values (R169), path A first for each. -/
def delayValues (k : Circuit) : List (List Byte) :=
  let a := k.delay.a
  let b := k.delay.b
  [ optionItem (octets 4) a.rtt, optionItem (octets 4) b.rtt, octets 1 a.runCount, octets 1 b.runCount,
    optionItem (octets 4) a.runMin, optionItem (octets 4) b.runMin,
    optionItem (fun x => octets 4 x.toNat) a.lastEcho, optionItem (fun x => octets 4 x.toNat) b.lastEcho ]

/-- The code of an event source (R193). -/
def EventSource.code : EventSource → Nat
  | .line => 0
  | .generated => 1

/-- The code of a transmit frame parity (R193). -/
def Parity.code : Parity → Nat
  | .even => 0
  | .odd => 1

/-- A tributary's line values (R16). -/
def lineValues (k : Tributary) : List (List Byte) :=
  [ octets 1 k.line.signal.code, octets 1 k.line.alignment.code, octets 1 k.line.ais.code,
    octets 1 k.line.remoteAlarm.code, octets 1 k.line.source.code, octets 4 k.line.frameCount.toNat,
    octets 1 k.transmit.parity.code ]

/-- A tributary's clocking values (R157), with the offset applied to the transmit rate. -/
def clockingValues (k : Tributary) (offset : Option Int) : List (List Byte) :=
  let x := k.clocking
  [ octets 1 k.entry.clockMode.code, octets 1 k.entry.timing.val, octets 1 x.inForce.code, octets 1 x.timing.val,
    boolItem x.pendingWrite.isSome, boolItem (x.pendingWrite == some true), octets 1 x.actual.code,
    if x.valid then signedOctets 2 x.holdover else [], optionItem (signedOctets 2) offset ]

/-- A port's values (R85): link state, frames in the circuit queue, frames in the response queue. -/
def portValues (k : PortState) : List (List Byte) :=
  [ octets 1 k.link.code, octets 1 k.circuitQueue.length, octets 1 k.responseQueue.length ]

/-- The device's values (R176). -/
def State.deviceValues (s : State) : List (List Byte) :=
  [ octets 4 s.lt.toNat, octets 4 s.totalReserved, octets 1 s.events.length, boolItem s.overflow ]

/-- The flags of an object as they close its status (R193); the device has none. -/
def State.flagData (s : State) : ObjectRef → List Byte
  | .circuit c => flagOctets (s.circuit c).flags
  | .tributary t => flagOctets (s.tributary t).flags
  | .port p => flagOctets (s.port p).flags
  | .device => []

/-- The status values of an object, in position order (R176, R193). -/
def State.statusValues (s : State) : ObjectRef → List (List Byte)
  | .circuit c =>
    let k := s.circuit c
    controlValues k ++ sendValues k ++ mergeValues k ++ bufferValues k ++ recoveryValues k ++ delayValues k
  | .tributary t => lineValues (s.tributary t) ++ clockingValues (s.tributary t) (s.rateOffset t)
  | .port p => portValues (s.port p)
  | .device => s.deviceValues

/-- STATUS_READ (R176): the values of one object and its set flags. -/
def State.statusRead (s : State) (kind index : Byte) : Result :=
  match readObject kind index with
  | .error code => resultOf 4 kind index code
  | .ok x => resultOf 4 kind index .ok false (statusItems (s.statusValues x) ++ s.flagData x)

/-! ### COUNTERS_READ (R177) -/

/-- The data of a counters read: each counter in 4 octets, in the order of R182 (R193). -/
def counterOctets {n : Nat} (v : Vector Nat n) : List Byte := (v.toList.map (octets 4)).flatten

/-- COUNTERS_READ (R177): every counter of a circuit or port, and with the clear option all of them set to 0. The object
kind is judged before the index (R173). -/
def State.countersRead (s : State) (kind index clear : Byte) : State × Result :=
  match kind.toNat with
  | 4 =>
    match readCircuit index with
    | none => (s, resultOf 5 kind index .badIndex)
    | some c =>
      if 1 < clear.toNat then (s, resultOf 5 kind index .badValue)
      else (if clear = 1 then s.onCircuit c (fun k => { k with counters := Vector.replicate 16 0 }) else s,
        resultOf 5 kind index .ok false (counterOctets (s.circuit c).counters))
  | 6 =>
    match readPort index with
    | none => (s, resultOf 5 kind index .badIndex)
    | some p =>
      if 1 < clear.toNat then (s, resultOf 5 kind index .badValue)
      else (if clear = 1 then s.onPort p (fun k => { k with counters := Vector.replicate 6 0 }) else s,
        resultOf 5 kind index .ok false (counterOctets (s.port p).counters))
  | _ => (s, resultOf 5 kind index .badObject)

/-! ### FLAGS_CLEAR (R178) -/

/-- FLAGS_CLEAR (R178): the flags of the mask cleared; a mask that names no flag of the object is refused whole. The object
kind is judged before the index (R173). -/
def State.flagsClear (s : State) (kind index : Byte) (mask : BitVec 32) : State × Result :=
  match kind.toNat with
  | 4 =>
    match readCircuit index with
    | none => (s, resultOf 6 kind index .badIndex)
    | some c =>
      if maskFits 14 mask then
        let s := s.onCircuit c (fun k => { k with flags := clearMasked mask k.flags })
        (s, resultOf 6 kind index .ok false (flagOctets (s.circuit c).flags))
      else (s, resultOf 6 kind index .badValue)
  | 5 =>
    match readTributary index with
    | none => (s, resultOf 6 kind index .badIndex)
    | some t =>
      if maskFits 5 mask then
        let s := s.onTributary t (fun k => { k with flags := clearMasked mask k.flags })
        (s, resultOf 6 kind index .ok false (flagOctets (s.tributary t).flags))
      else (s, resultOf 6 kind index .badValue)
  | 6 =>
    match readPort index with
    | none => (s, resultOf 6 kind index .badIndex)
    | some p =>
      if maskFits 3 mask then
        let s := s.onPort p (fun k => { k with flags := clearMasked mask k.flags })
        (s, resultOf 6 kind index .ok false (flagOctets (s.port p).flags))
      else (s, resultOf 6 kind index .badValue)
  | _ => (s, resultOf 6 kind index .badObject)

/-! ### EVENTS_TAKE (R179) -/

/-- An event record in a result (R193). -/
def EventRecord.octets (r : EventRecord) : List Byte :=
  r.flag.octets ++ Sys2Proof.Machine.octets 4 r.lt.toNat ++ [r.detail.octet]

/-- EVENTS_TAKE of the device (R179): up to n of the oldest records removed; overflow cleared when any is removed. -/
def State.eventsTake (s : State) (kind index n : Byte) : State × Result :=
  match kind.toNat with
  | 7 =>
    if index ≠ 0 then (s, resultOf 7 kind index .badIndex)
    else
      let count := clampCount n
      let taken := s.events.take count
      let left := s.events.drop count
      ({ s with events := left, overflow := if taken.isEmpty then s.overflow else false },
        resultOf 7 kind index .ok (n.toNat != count)
          (octets 1 taken.length ++ octets 1 left.length ++ (taken.map EventRecord.octets).flatten))
  | _ => (s, resultOf 7 kind index .badObject)

/-! ### The rows -/

/-- STATUS_READ (R176). -/
def execStatusRead (kind index : Byte) (s : State) : Host.Outcome State Fault Refusal :=
  .next (s.answered (s.statusRead kind index))

/-- COUNTERS_READ (R177). -/
def execCountersRead (kind index clear : Byte) (s : State) : Host.Outcome State Fault Refusal :=
  .next ((s.countersRead kind index clear).1.answered (s.countersRead kind index clear).2)

/-- FLAGS_CLEAR (R178). -/
def execFlagsClear (kind index : Byte) (mask : BitVec 32) (s : State) : Host.Outcome State Fault Refusal :=
  .next ((s.flagsClear kind index mask).1.answered (s.flagsClear kind index mask).2)

/-- EVENTS_TAKE (R179), of the device. -/
def execEventsTake (n : Byte) (s : State) : Host.Outcome State Fault Refusal :=
  .next ((s.eventsTake 7 0 n).1.answered (s.eventsTake 7 0 n).2)

end Sys2Proof.Machine
end

