-- ==== Sys2Proof/Machine/Management.lean ====
section
/-! DEFINITION. Circuit commands, RESTART, POWER_ON, and the execution of management frames (chapters 4 and 11). -/

namespace Sys2Proof.Machine

/-! ### Circuit commands (R53) -/

/-- The octets a circuit command's result gives: the circuit's state and forced path after the request (R53, R193). -/
def State.circuitData (s : State) (c : Fin 64) : List Byte :=
  octets 1 (s.circuit c).control.state.code ++ octets 1 (pathCode (s.circuit c).merge.forced)

/-- A circuit command judged and carried out on a circuit (R53 to R58): the code and the state after it. -/
def State.circuitCommand (s : State) (c : Fin 64) (command path : Byte) : State × Code :=
  match command.toNat with
  | 1 =>
    match s.judgeEngage c with
    | .ok => (s.engage c, .ok)
    | code => (s, code)
  | 2 => (s.release c, .ok)
  | 3 => if (s.circuit c).control.state.reacquirable then (s.reacquire c, .ok) else (s, .wrongState)
  | 4 =>
    match readPath path with
    | none => (s, .badValue)
    | some p => if (s.circuit c).engaged then (s.forcePath c p, .ok) else (s, .wrongState)
  | _ => (s, .badValue)

/-- A CIRCUIT_COMMAND request (R53, R173, R193). -/
def State.command (s : State) (kind index command path : Byte) : State × Result :=
  match kind.toNat with
  | 4 =>
    match readCircuit index with
    | none => (s, resultOf 3 kind index .badIndex)
    | some c =>
      let x := s.circuitCommand c command path
      (x.1, resultOf 3 kind index x.2 false (x.1.circuitData c))
  | _ => (s, resultOf 3 kind index .badObject)

/-- A circuit command taken alone, as CIRCUIT_COMMAND of object kind circuit. -/
def State.commandRow (s : State) (index command path : Byte) : State :=
  (s.command 4 index command path).1.answered (s.command 4 index command path).2

/-- ENGAGE (R54, R55). -/
def execEngage (index : Byte) (s : State) : Host.Outcome State Fault Refusal := .next (s.commandRow index 1 0)

/-- RELEASE (R56). -/
def execRelease (index : Byte) (s : State) : Host.Outcome State Fault Refusal := .next (s.commandRow index 2 0)

/-- REACQUIRE (R57). -/
def execReacquire (index : Byte) (s : State) : Host.Outcome State Fault Refusal := .next (s.commandRow index 3 0)

/-- FORCE_PATH (R58). -/
def execForcePath (index path : Byte) (s : State) : Host.Outcome State Fault Refusal := .next (s.commandRow index 4 path)

/-! ### RESTART (R183) -/

/-- R183 step 1: every circuit not DISABLED is released, without STATE_CHANGED. -/
def State.releaseAll (s : State) : State :=
  forEach allCircuits (fun c s => if (s.circuit c).engaged then s.releaseEngaged c false else s) s

/-- R183 step 4 for one circuit: every counter 0 and every flag CLEAR. -/
def Circuit.cleared (k : Circuit) : Circuit :=
  { k with counters := Vector.replicate 16 0, flags := Vector.replicate 14 none }

/-- R183 steps 2 and 4 for one port: the circuit queue empty without count, every counter 0, every flag CLEAR. -/
def PortState.cleared (k : PortState) : PortState :=
  { k with circuitQueue := [], counters := Vector.replicate 6 0, flags := Vector.replicate 3 none }

/-- R183: the soft restart: releases, circuit queues, clock modes (R159), counters, flags and the event queue. -/
def State.restart (s : State) : State :=
  let s := s.releaseAll
  { s with
    circuits := s.circuits.map Circuit.cleared
    tributaries := s.tributaries.map (fun k => { k.recomputed with flags := Vector.replicate 5 none })
    ports := ⟨s.ports.a.cleared, s.ports.b.cleared⟩
    events := []
    overflow := false }

/-- A RESTART request (R173, R183). -/
def State.restartRequest (s : State) (kind index : Byte) : State × Result :=
  match kind.toNat with
  | 7 =>
    if index ≠ 0 then (s, resultOf 8 kind index .badIndex) else (s.restart, resultOf 8 kind index .ok)
  | _ => (s, resultOf 8 kind index .badObject)

/-- RESTART (R183), of the device. -/
def execRestart (s : State) : Host.Outcome State Fault Refusal :=
  .next ((s.restartRequest 7 0).1.answered (s.restartRequest 7 0).2)

/-- POWER_ON (R184): every piece of state at its power-on value, the station addresses formed from the straps (R49). The
commands that wait are outside the part, and the count of free choices is the model's own: both are kept. -/
def execPowerOn (unit : BitVec 16) (s : State) : Host.Outcome State Fault Refusal :=
  .next { powerOnState unit with draws := s.draws, pending := s.pending }

/-! ### Management frames (R170 to R174, R191 to R194) -/

/-- A request that is present whole, executed (R173): the state after it and its result. -/
def State.execute (s : State) : Request → State × Result
  | .tableRead kind index count => (s, s.tableRead kind index count)
  | .tableWrite kind index items => s.tableWrite kind index items
  | .circuitCommand kind index command path => s.command kind index command path
  | .statusRead kind index => (s, s.statusRead kind index)
  | .countersRead kind index clear => s.countersRead kind index clear
  | .flagsClear kind index mask => s.flagsClear kind index mask
  | .eventsTake kind index n => s.eventsTake kind index n
  | .restart kind index => s.restartRequest kind index
  | .unknown verb kind index => (s, resultOf verb kind index .badValue)

/-- The code of a result (R192). -/
def Code.number : Code → Nat
  | .ok => 0
  | .badObject => 1
  | .badIndex => 2
  | .badValue => 3
  | .circuitActive => 4
  | .slotConflict => 5
  | .labelInUse => 6
  | .modeSequence => 7
  | .notReady => 8
  | .noMemory => 9
  | .wrongState => 10
  | .malformed => 11
  | .notExecuted => 12

/-- A result record's octets (R192). -/
def Result.octets (r : Result) : List Byte :=
  [r.verb, r.kind, r.index] ++ Sys2Proof.Machine.octets 2 (7 + r.data.length)
    ++ Sys2Proof.Machine.octets 1 r.code.number ++ Sys2Proof.Machine.octets 1 r.clamped.toNat ++ r.data

/-- The size of a result (R193); a short result is 7 octets. -/
def Result.size (r : Result) : Nat := 7 + r.data.length

/-- The requests of a frame, in order (R171, R172, R191): `n` are still announced, `o` is what is left of the frame (`none`
once its end has cut a record short), `full` says that a request has been answered NOT_EXECUTED, `used` is the size of the
response so far. Answers the state and the results. DESIGN CHOICE (log 30): a NOT_EXECUTED result for an announced
request that the frame does not hold carries 0 for verb, object kind and index, as R171 gives for a MALFORMED one. -/
def executeRequests : Nat → Option (List Byte) → Bool → Nat → State → State × List Result
  | 0, _, _, _, s => (s, [])
  | n + 1, o, full, used, s =>
    let x : RecordRead := match o with
      | none => ⟨0, 0, 0, none, none⟩
      | some o => readRecord o
    let short (code : Code) : Result := resultOf x.verb x.kind x.index code
    let goOn (full : Bool) (r : Result) (s : State) : State × List Result :=
      let y := executeRequests n x.next full (used + r.size) s
      (y.1, r :: y.2)
    if full then goOn true (short .notExecuted) s
    else
      match x.request with
      | none => goOn false (short .malformed) s
      | some request =>
        let y := s.execute request
        if 1480 < used + y.2.size + 7 * n then goOn true (short .notExecuted) s
        else goOn false y.2 (y.1.answered y.2)

/-- The octets of a response from its common header on (R192): built once the last request has been executed. -/
def responseOctets (s : State) (identifier : BitVec 16) (results : List Result) : List Byte :=
  octets 1 1 ++ octets 1 2 ++ octets 2 0 ++ octets 2 identifier.toNat ++ octets 1 results.length
    ++ octets 1 s.events.length ++ octets 1 s.overflow.toNat ++ (results.map Result.octets).flatten

/-- R174: the response joins the tail of the port's response queue; while the link is DOWN it is discarded without count. -/
def State.placeResponse (s : State) (p : Port) (x : Response) : State :=
  match (s.port p).link with
  | .up => s.onPort p (fun k => { k with responseQueue := k.responseQueue ++ [x] })
  | .down => s

/-- The judgement of a frame before its execution (R170): room in the response queue, and a request count of 1..16. -/
def State.frameRuns (s : State) (p : Port) (f : AcceptedFrame) : Bool :=
  decide ((s.port p).responseQueue.length < 4) && decide (1 ≤ f.count) && decide (f.count ≤ 16)

/-- R170 to R174: an accepted frame is executed and answered, or discarded, counted, with MGMT_DROP. -/
def State.runFrame (s : State) (p : Port) (f : AcceptedFrame) : State :=
  if s.frameRuns p f then
    let y := executeRequests f.count (some f.records) false 9 s
    y.1.placeResponse p ⟨f.source, responseOctets y.1 f.identifier y.2⟩
  else (s.countPort p .managementDiscarded).raisePort p .mgmtDrop .none

/-- MANAGEMENT_FRAME (R170): the oldest accepted frame of the port that waits for execution is taken, executed whole;
without one nothing occurs (log 4, log 10). -/
def execManagementFrame (p : Port) (s : State) : Host.Outcome State Fault Refusal :=
  .next (match (s.port p).waiting with
    | [] => s
    | f :: rest => (s.onPort p (fun k => { k with waiting := rest })).runFrame p f)

end Sys2Proof.Machine
end

