-- ==== Sys2Proof/Machine/Transmit.lean ====
section
/-! DEFINITION. TRANSMIT_FRAME_START: the transmit side of the tributary lines (section 1.5, R11 to R14). -/

namespace Sys2Proof.Machine

/-- Slot 0 of a FRAMED tributary's frame (R12): the alignment word in an EVEN frame; in an ODD one the remote alarm
indicator, 1 unless the receive side is ALIGNED. -/
def slotZero (parity : Parity) (alignment : AlignmentState) : Byte :=
  match parity with
  | .even => 0b10011011
  | .odd => if alignment = .aligned then 0b11011111 else 0b11111111

/-- Octets placed in the timeslots of a list, in order (R13). -/
def placeOctets (frame : List Byte) : List Nat → List Byte → List Byte
  | k :: ks, b :: bs => placeOctets (frame.set k b) ks bs
  | _, _ => frame

/-- RT_int of circuit `c` at the instant of the frame start of tributary `t` that is due (R116, R129): the bit edge at which the
bit in progress began. RT is reckoned back from its value at the taking by what it has advanced since that edge. The edge lies
within the latest tick of LT, and both the advance of RT and that of the source's time, which stands in `bitTime`, are those of that
tick: a new FREQ and a new source made since, at the same LT, do not move it (R129, R145). The quotient is rounded down to a fine
tick (log 32). For the timing circuit of an ADAPTIVE tributary both advance alike, so that its lead stays constant (R158). RT is
present whenever a circuit plays (R127, R129); without it the value is that of RT 0. -/
def State.rtAtFrameStart (s : State) (t : Fin 16) (c : Fin 64) : Ticks :=
  let r := (s.circuit c).recovery
  let x := (s.tributary t).transmit
  rtInt (r.rt.getD 0 - BitVec.ofNat 59 (x.bitTime * fineRate r.tickFreq / x.tickRate))

/-- What one circuit on a tributary places in the frame being assembled (R13, R14), given its RT_int at the frame start: nothing
when DISABLED, all ones in AWAITING and ACQUIRING, one frame of its playout in PLAYING and STARVED. -/
def State.placeCircuit (t : Fin 16) (c : Fin 64) (rt : Ticks) (x : State × List Byte) : State × List Byte :=
  let s := x.1
  let k := s.circuit c
  if k.names t then
    let e := (s.tributary t).entry
    let slots := match e.framing with
      | .framed => slotsOf k.entry.slotSet
      | .unframed => List.range 32
      | .off => []
    match k.control.state with
    | .disabled => x
    | .awaiting => (s, placeOctets x.2 slots (List.replicate slots.length 255))
    | .acquiring => (s, placeOctets x.2 slots (List.replicate slots.length 255))
    | .playing | .starved =>
      let y := s.playFrame c e.idle rt
      (y.1, placeOctets x.2 slots y.2)
  else x

/-- The frame before any circuit's octets (R12 to R14): slot 0 and the idle octet when FRAMED, the idle octet when
UNFRAMED, all ones when the framing is OFF. -/
def Tributary.blankFrame (k : Tributary) : List Byte :=
  match k.entry.framing with
  | .off => List.replicate 32 255
  | .framed => slotZero k.transmit.parity k.line.alignment :: List.replicate 31 k.entry.idle
  | .unframed => List.replicate 32 k.entry.idle

/-- The whole frame assembled (R11, R13, R14), the circuits in ascending index (log 12), given their RT_int at the frame
start. -/
def State.assembleFrame (s : State) (t : Fin 16) (rt : Fin 64 → Ticks) : State :=
  let x := allCircuits.foldl (fun x c => State.placeCircuit t c (rt c) x) (s, (s.tributary t).blankFrame)
  x.1.onTransmit t (fun k => { k with frame := x.2 })

/-- The parity of the next frame (R11): it alternates, and the first frame after power-on is EVEN. -/
def Transmit.nextParity (x : Transmit) : Parity :=
  if x.begun then (match x.parity with | .even => .odd | .odd => .even) else .even

/-- A frame begins: its parity, and the 256 bits of the frame before it done (R11). -/
def Transmit.begin (x : Transmit) : Transmit :=
  { x with parity := x.nextParity, begun := true, bits := x.bits - 256 }

/-- A transmit frame start is due: the 256 bits of the frame in progress have been sent (R11). -/
def State.frameStartDue (s : State) (t : Fin 16) : Bool := decide (256 ≤ (s.tributary t).transmit.bits)

/-- A frame start that changes the source, or its rate, changes it at the bit edge it falls on (R149): the time the bit that begins
there has had since is put in the time of the source now in force (rounded down to a fine tick, log 32). `before` is the rate of
the source that was in force as the frame start was taken; with the same rate after it the bit in progress stays as it is. -/
def State.retime (s : State) (t : Fin 16) (before : Nat) : State :=
  let rate := s.sourceRate t
  if rate = before then s
  else s.onTransmit t (fun x => { x with bitTime := x.bitTime * rate / x.tickRate, tickRate := rate })

/-- A transmit frame start (R11, R151, R152): the parity alternates, the clocking block applies the table and judges the
mode, and the whole frame is assembled, each playout reading its RT at the bit edge on which the frame start falls. -/
def State.frameStart (s : State) (t : Fin 16) : State :=
  let rt := s.rtAtFrameStart t
  let before := s.sourceRate t
  let s := (s.onTransmit t Transmit.begin).applyClockTable t
  ((s.setActual t (s.judgedMode t)).retime t before).assembleFrame t rt

/-- TRANSMIT_FRAME_START (R11): it falls every 256 bits of the transmit clock; before they have been sent none occurs
(log 4). -/
def execTransmitFrameStart (t : Fin 16) (s : State) : Host.Outcome State Fault Refusal :=
  .next (if s.frameStartDue t then s.frameStart t else s)

end Sys2Proof.Machine
end

