-- ==== Sys2Proof/Machine/Time.lean ====
section
/-! DEFINITION. The part's own clock: one tick of the local reference, and the events of the part's own that are due
(R8, R11, R19, R27, R79, R129, R148, R170; log 1, log 2). -/

namespace Sys2Proof.Machine

/-- Replaced port values are kept while captures they may concern are within the span in which R22 orders LT (log 8). -/
def PortState.tick (k : PortState) (lt : Ticks) : PortState :=
  { k with earlier := k.earlier.filter (fun e => decide (0 ≤ signed32 lt e.replacedAt)) }

/-- One tick of the local reference: LT advances by one (R19), every recovered time by 2^27 + FREQ fine ticks (R129), and
every transmit bit timing by its source's time (R148). -/
def State.tick (s : State) : State :=
  { s with
    lt := s.lt + 1
    circuits := s.circuits.map (fun k => { k with recovery := k.recovery.tick })
    tributaries := s.tributaries.mapFinIdx (fun i k h => { k with transmit := k.transmit.tick (s.rateOffset ⟨i, h⟩) })
    ports := ⟨s.ports.a.tick (s.lt + 1), s.ports.b.tick (s.lt + 1)⟩ }

/-- The timers of one circuit that have expired (R27, R59, R63, R92, R97). -/
def State.dueOfCircuit (s : State) (c : Fin 64) : List Instr :=
  let k := s.circuit c
  (if expired s.lt k.control.engageTimer then [.engageTimerExpiry c] else [])
    ++ (if expired s.lt k.control.starvationTimer then [.starvationTimerExpiry c] else [])
    ++ (if expired s.lt k.merge.timers.a then [.pathTimerExpiry c .A] else [])
    ++ (if expired s.lt k.merge.timers.b then [.pathTimerExpiry c .B] else [])
    ++ (if expired s.lt k.merge.holdOff then [.restoreHoldOffExpiry c] else [])

/-- The frame events of one tributary that are due (R8, R11). -/
def State.dueOfTributary (s : State) (t : Fin 16) : List Instr :=
  (if s.generatedDue t then [.generatedFrameEvent t] else [])
    ++ (if s.frameStartDue t then [.transmitFrameStart t] else [])

/-- What a port is ready to do (R79, R170): the execution of an accepted management frame, and a departure. -/
def State.dueOfPort (s : State) (p : Port) : List Instr :=
  let k := s.port p
  (if k.waiting.isEmpty then [] else [.managementFrame p])
    ++ (if k.ready then
        (if k.circuitQueue.isEmpty then (if k.responseQueue.isEmpty then [] else [.responseDeparture p])
         else [.copyDeparture p])
      else [])

/-- The events of the part's own that are due. -/
def State.due (s : State) : List Instr :=
  (allCircuits.map s.dueOfCircuit).flatten ++ (allTributaries.map s.dueOfTributary).flatten
    ++ s.dueOfPort .A ++ s.dueOfPort .B

/-- What the part does with no command waiting (log 1): the events of its own that are due are queued, in a free order
(log 2); when none is due, LT advances by one tick. -/
def State.idle (s : State) : State :=
  match s.due with
  | [] => s.tick
  | due => { s with pending := s.pending ++ freeOrder s.draws due, draws := s.draws + due.length }

end Sys2Proof.Machine
end

