-- ==== Sys2Proof/Machine/Dispatch.lean ====
section
/-! DEFINITION. One arm for each command: the meaning it calls. -/

namespace Sys2Proof.Machine

/-- The meaning of a command: its effect on everything but the queue of commands. -/
def exec (i : Instr) (s : State) : Host.Outcome State Fault Refusal :=
  match i with
  | .powerOn unit => Sys2Proof.Machine.execPowerOn unit s
  | .lossOfSignalDeclared t bits => Sys2Proof.Machine.execLossOfSignalDeclared t bits s
  | .lossOfSignalCleared t bits => Sys2Proof.Machine.execLossOfSignalCleared t bits s
  | .aisBlockEnd t bits => Sys2Proof.Machine.execAisBlockEnd t bits s
  | .alignmentDeclared t bits => Sys2Proof.Machine.execAlignmentDeclared t bits s
  | .alignmentLost t bits => Sys2Proof.Machine.execAlignmentLost t bits s
  | .remoteAlarmStateChange t bits => Sys2Proof.Machine.execRemoteAlarmStateChange t bits s
  | .receiveFrameEvent t bits => Sys2Proof.Machine.execReceiveFrameEvent t bits s
  | .generatedFrameEvent t => Sys2Proof.Machine.execGeneratedFrameEvent t s
  | .transmitFrameStart t => Sys2Proof.Machine.execTransmitFrameStart t s
  | .linkUp p => Sys2Proof.Machine.execLinkUp p s
  | .linkDown p => Sys2Proof.Machine.execLinkDown p s
  | .frameArrival p age o => Sys2Proof.Machine.execFrameArrival p age o s
  | .copyDeparture p => Sys2Proof.Machine.execCopyDeparture p s
  | .responseDeparture p => Sys2Proof.Machine.execResponseDeparture p s
  | .engageTimerExpiry c => Sys2Proof.Machine.execEngageTimerExpiry c s
  | .starvationTimerExpiry c => Sys2Proof.Machine.execStarvationTimerExpiry c s
  | .pathTimerExpiry c p => Sys2Proof.Machine.execPathTimerExpiry c p s
  | .restoreHoldOffExpiry c => Sys2Proof.Machine.execRestoreHoldOffExpiry c s
  | .managementFrame p => Sys2Proof.Machine.execManagementFrame p s
  | .tableRead kind index count => Sys2Proof.Machine.execTableRead kind index count s
  | .tableWrite kind index items => Sys2Proof.Machine.execTableWrite kind index items s
  | .engage index => Sys2Proof.Machine.execEngage index s
  | .release index => Sys2Proof.Machine.execRelease index s
  | .reacquire index => Sys2Proof.Machine.execReacquire index s
  | .forcePath index path => Sys2Proof.Machine.execForcePath index path s
  | .statusRead kind index => Sys2Proof.Machine.execStatusRead kind index s
  | .countersRead kind index clear => Sys2Proof.Machine.execCountersRead kind index clear s
  | .flagsClear kind index mask => Sys2Proof.Machine.execFlagsClear kind index mask s
  | .eventsTake n => Sys2Proof.Machine.execEventsTake n s
  | .restart => Sys2Proof.Machine.execRestart s
  | .lastOctetSent p => Sys2Proof.Machine.execLastOctetSent p s

end Sys2Proof.Machine
end

