-- ==== Sys2Proof/Safety.lean ====
section
/-! DEFINITION. What counts as a safe run: the laws of the device that the manual names, each as a property of one state;
and the frames in which statements say what a command leaves alone. -/

namespace Sys2Proof.Machine

/-! ### Frames -/

/-- The event queue has only gained records at its tail, never beyond 64, and a SET overflow indicator has stayed SET
(R181). -/
def EventsGrow (s u : State) : Prop :=
  (∃ l, u.events = s.events ++ l) ∧ (u.events.length ≤ 64 ∨ u.events = s.events) ∧ (s.overflow = true → u.overflow = true)

/-- What no event of the part's own and no request touches but through its own rule: LT (R19), the answer of a request, the
free choices made, the commands that wait. -/
structure SameRun (s u : State) : Prop where
  lt      : u.lt = s.lt
  answer  : u.answer = s.answer
  draws   : u.draws = s.draws
  pending : u.pending = s.pending

/-- Only the blocks of one circuit have changed, with the flags they set, and the clocking block of the tributary the
circuit names (R153): every other circuit, the circuit's table entry, every port, and of every tributary the table entry and
the line unit are as they were. -/
structure OnlyCircuit (s u : State) (c : Fin 64) : Prop where
  run         : SameRun s u
  events      : EventsGrow s u
  ports       : u.ports = s.ports
  others      : ∀ d, d ≠ c → u.circuit d = s.circuit d
  entry       : (u.circuit c).entry = (s.circuit c).entry
  lines       : ∀ t, (u.tributary t).entry = (s.tributary t).entry ∧ (u.tributary t).line = (s.tributary t).line
                  ∧ (u.tributary t).transmit = (s.tributary t).transmit
  tributaries : ∀ t, (s.circuit c).entry.tributary ≠ some t → u.tributary t = s.tributary t

/-- Only one tributary has changed, with the flags it sets: every circuit, every port, every other tributary and the
tributary's table entry are as they were. -/
structure OnlyTributary (s u : State) (t : Fin 16) : Prop where
  run      : SameRun s u
  events   : EventsGrow s u
  circuits : u.circuits = s.circuits
  ports    : u.ports = s.ports
  others   : ∀ v, v ≠ t → u.tributary v = s.tributary v
  entry    : (u.tributary t).entry = (s.tributary t).entry

/-- Only one trunk port has changed, with the flags it sets: every circuit, every tributary, the other port and the port's
table entry are as they were. -/
structure OnlyPort (s u : State) (p : Port) : Prop where
  run         : SameRun s u
  events      : EventsGrow s u
  circuits    : u.circuits = s.circuits
  tributaries : u.tributaries = s.tributaries
  other       : u.port (otherPort p) = s.port (otherPort p)
  entry       : (u.port p).entry = (s.port p).entry

/-- What received bits and generated frame events of one tributary leave alone: every other tributary, the tributary's table
entry, clocking block (but for the actual mode) and transmit frame; of every circuit all but the packetizer and the counters,
and those too of a circuit that is DISABLED or does not name the tributary; of the ports all but the circuit queues, counters
and flags. -/
structure OnlyReceive (s u : State) (t : Fin 16) : Prop where
  run      : SameRun s u
  events   : EventsGrow s u
  others   : ∀ v, v ≠ t → u.tributary v = s.tributary v
  entry    : (u.tributary t).entry = (s.tributary t).entry
  clocking : (u.tributary t).clocking = { (s.tributary t).clocking with actual := (u.tributary t).clocking.actual }
  transmit : (u.tributary t).transmit = { (s.tributary t).transmit with
               bits := (u.tributary t).transmit.bits, bitTime := (u.tributary t).transmit.bitTime }
  circuits : ∀ c, u.circuit c = { s.circuit c with
               packetizer := (u.circuit c).packetizer, counters := (u.circuit c).counters }
  apart    : ∀ c, ((s.circuit c).engaged && (s.circuit c).names t) = false → u.circuit c = s.circuit c
  ports    : ∀ p, u.port p = { s.port p with
               circuitQueue := (u.port p).circuitQueue, counters := (u.port p).counters, flags := (u.port p).flags }

/-- The packet under assembly a frame with the given stamp joins (R73, R74). -/
def Packetizer.opened (z : Packetizer) (stamp : Ticks) : Assembly := z.assembly.getD ⟨stamp, 0, [], false⟩

/-- A receive frame event of tributary `t` has handed the frame and its fault mark to the packetizer of circuit `c` (R73 to
R75): the frame joins the packet under assembly, and the frame that brings the count to F completes it. -/
def FrameCollected (s u : State) (t : Fin 16) (frame : List Byte) (faulted : Bool) (c : Fin 64) : Prop :=
  let k := s.circuit c
  let a := k.packetizer.opened (s.tributary t).line.frameCount
  let taken := takeOctets (s.tributary t).entry.framing k.entry frame
  (a.taken + 1 < k.entry.frames → (u.circuit c).packetizer = { k.packetizer with
      phase := .collecting, assembly := some ⟨a.ts, a.taken + 1, a.octets ++ taken, a.faulted || faulted⟩ })
  ∧ (k.entry.frames ≤ a.taken + 1 → (u.circuit c).packetizer = { k.packetizer with
      phase := .collecting, assembly := none, nextSeq := k.packetizer.nextSeq + 1
      sendLog := if k.packetizer.nextSeq.toNat % 64 = 0 then pushBounded 32 k.packetizer.sendLog ⟨a.ts, ⟨none, none⟩⟩
        else k.packetizer.sendLog })

/-- The copies for the path on port `p` that a receive frame event of tributary `t` makes (R75, R76), in the ascending circuit
order of log 12: one for each engaged circuit that names the tributary, whose packet the event completes and whose path record
is present, with the header values of that packet. -/
def packetCopies (s : State) (t : Fin 16) (frame : List Byte) (faulted : Bool) (p : Port) : List Copy :=
  allCircuits.filterMap (fun c =>
    let k := s.circuit c
    let a := k.packetizer.opened (s.tributary t).line.frameCount
    if k.engaged = true ∧ k.names t = true ∧ k.entry.frames ≤ a.taken + 1 then
      (k.entry.paths.get p).map (fun record =>
        { circuit := c, record := record, seq := k.packetizer.nextSeq, ts := a.ts, frames := k.entry.frames
          l := a.faulted || faulted, r := k.control.state != .playing
          payload := a.octets ++ takeOctets (s.tributary t).entry.framing k.entry frame })
    else none)

/-- What has become of the copies that a receive frame event of tributary `t` makes for the path on port `p` (R76, R78). With
the link UP as many join the tail of the circuit queue as it has room for, and each of the others is a transmit drop, TX_DROP
naming the first; with the link DOWN each is counted not sent for its circuit. -/
def CopiesQueued (s u : State) (t : Fin 16) (frame : List Byte) (faulted : Bool) (p : Port) : Prop :=
  let copies := packetCopies s t frame faulted p
  let queue := (s.port p).circuitQueue
  let fit := copies.take (64 - queue.length)
  let dropped := copies.drop (64 - queue.length)
  let drops (x : State) : Nat := (x.port p).counters.get PortCounter.txDrops.place
  let notSent (x : State) (c : Fin 64) : Nat := (x.circuit c).counters.get (CircuitCounter.notSent p).place
  match (s.port p).link with
  | .up => (u.port p).circuitQueue = queue ++ fit ∧ (∀ c, notSent u c = notSent s c)
      ∧ (drops s ≤ 4294967295 → drops u = min 4294967295 (drops s + dropped.length))
      ∧ u.flag (.port p .txDrop) = (match dropped with
        | [] => s.flag (.port p .txDrop)
        | x :: _ => some ((s.flag (.port p .txDrop)).getD (.circuit x.circuit)))
  | .down => (u.port p).circuitQueue = queue ∧ drops u = drops s ∧ u.flag (.port p .txDrop) = s.flag (.port p .txDrop)
      ∧ ∀ c, notSent u c = if c ∈ copies.map Copy.circuit then countUp (notSent s c) else notSent s c

/-- A receive frame event of tributary `t` has happened with the given frame and fault mark (R8 to R10): every circuit that
is engaged, names the tributary and has a running packetizer has collected it, the receive frame count has advanced by 1024,
and LT is the event's. -/
def FrameEventTaken (s u : State) (t : Fin 16) (frame : List Byte) (faulted : Bool) : Prop :=
  (u.tributary t).line.frameCount = (s.tributary t).line.frameCount + 1024 ∧ (u.tributary t).line.lastEvent = s.lt
  ∧ (∀ c, (s.circuit c).engaged = true → (s.circuit c).names t = true → (s.circuit c).packetizer.phase ≠ .idle →
      FrameCollected s u t frame faulted c)
  ∧ ((∀ c, (s.circuit c).engaged = true → (s.circuit c).packetizer.phase ≠ .idle) →
      ∀ p, CopiesQueued s u t frame faulted p)

/-- The play pointer of a circuit has advanced by one frame from `x` (R114, R117): within its packet, or into the next, with
a history record of the sequence it left, that sequence's slot freed and, when it was not held, the lost count increased. -/
def PointerAdvanced (k v : Circuit) (x : Pointer) : Prop :=
  if x.frame + 1 < k.entry.frames then
    v.buffer.pointer = some ⟨x.seq, x.frame + 1, x.ts⟩ ∧ v.buffer.slots = k.buffer.slots
      ∧ v.buffer.history = k.buffer.history
      ∧ v.counters.get CircuitCounter.lost.place = k.counters.get CircuitCounter.lost.place
  else
    v.buffer.pointer = some ⟨x.seq + 1, 0, x.ts + BitVec.ofNat 32 (k.entry.frames * 1024)⟩
      ∧ v.buffer.slots = (k.buffer.withSlot k.entry.depth x.seq none).slots
      ∧ match k.buffer.slot k.entry.depth x.seq with
        | some e =>
          v.buffer.history = pushBounded 128 k.buffer.history ⟨x.seq, .played, e.arrival, some e.storedFrom, e.sampled⟩
          ∧ v.counters.get CircuitCounter.lost.place = k.counters.get CircuitCounter.lost.place
        | none =>
          v.buffer.history = pushBounded 128 k.buffer.history ⟨x.seq, .missed, ⟨none, none⟩, none, false⟩
          ∧ v.counters.get CircuitCounter.lost.place = countUp (k.counters.get CircuitCounter.lost.place)

/-- A flag after a rule has set it (R180): SET before, it keeps its detail; CLEAR before, it is SET with the given one. -/
def State.flagAfter (s : State) (r : FlagRef) (d : Detail) : Option Detail := some ((s.flag r).getD d)

/-- What happens to the tributary that circuit `c` times when the circuit leaves PLAYING with the given history mean (R153):
an ADAPTIVE one goes to HOLDOVER with H the mean, or to FREE when there is none; any other is as it was. -/
def TimingLeft (s u : State) (c : Fin 64) : Prop :=
  ∀ t, if (s.circuit c).entry.tributary = some t ∧ (s.tributary t).clocking.timing = c
        ∧ (s.tributary t).clocking.actual = .adaptive then
      match meanTowardZero (s.circuit c).recovery.history with
      | some h => (u.tributary t).clocking = { (s.tributary t).clocking with holdover := h, valid := true, actual := .holdover }
          ∧ u.flag (.tributary t .clockModeChange) = s.flagAfter (.tributary t .clockModeChange) (.clockMode .holdover)
      | none => (u.tributary t).clocking = { (s.tributary t).clocking with actual := .free }
          ∧ u.flag (.tributary t .clockModeChange) = s.flagAfter (.tributary t .clockModeChange) (.clockMode .free)
    else u.tributary t = s.tributary t

/-- The path of circuit `c` on port `p`, which was UP, has gone DOWN (R92, R93): its timer is stopped and its change flag set.
Under PREFER the active path follows (R95 to R97): afresh in AWAITING and ACQUIRING; in PLAYING and STARVED the other path takes
over from it with PATH_SWITCH and without a hold-off, and a preferred path that is not active takes its hold-off with it. The
forced path, the other path and its timer and the skew samples are as before, and so is every other flag. -/
def PathLost (s u : State) (c : Fin 64) (p : Port) : Prop :=
  let k := s.circuit c
  let down : Merge := { k.merge with up := k.merge.up.set p .down, timers := k.merge.timers.set p none }
  let other := otherPort p
  let becomes (m : Merge) (switched : Bool) : Prop := (u.circuit c).merge = m
    ∧ u.flag (.circuit c .pathSwitch) = if switched then s.flagAfter (.circuit c .pathSwitch) (.path other)
      else s.flag (.circuit c .pathSwitch)
  u.flag (.circuit c (.pathChange p)) = s.flagAfter (.circuit c (.pathChange p)) (.upDown .down)
  ∧ (∀ f, f ≠ .pathChange p → f ≠ .pathSwitch → u.flag (.circuit c f) = s.flag (.circuit c f))
  ∧ if k.entry.policy = .merge then becomes down false
    else match k.control.state with
      | .disabled => becomes down false
      | .awaiting | .acquiring =>
        becomes { down with active := if k.merge.up.get other = .up then some other else none } false
      | .playing | .starved =>
        if k.merge.active = some p then
          if k.merge.up.get other = .up then becomes { down with active := some other, holdOff := none } true
          else becomes { down with active := none } false
        else if k.entry.policy.preferred = some p then becomes { down with holdOff := none } false
        else becomes down false

/-- Circuit `c` has been anchored (R60) on a stored arrival: the play pointer and reference pair on it, the flushed buffer
holding it alone, recovered time seeded from it, one sample of 0 in the window, and the lock and both runs cleared. -/
def Anchored (s u : State) (c : Fin 64) (x : Candidate) : Prop :=
  let k := s.circuit c
  let v := u.circuit c
  v.control.state = .acquiring ∧ v.control.engageTimer = none
  ∧ v.control.starvationTimer = some (s.lt + BitVec.ofNat 32 (k.entry.starvationTimeout * k.entry.frames * 1024))
  ∧ v.control.mismatchRun = 0 ∧ v.control.lateRun = 0 ∧ v.control.acquired = k.control.acquired
  ∧ v.buffer.pointer = some ⟨x.seq, 0, x.ts⟩ ∧ v.buffer.history = [] ∧ v.buffer.startMark = false
  ∧ v.buffer.lastFrame = k.buffer.lastFrame ∧ v.buffer.substitutionRun = 0 ∧ v.buffer.lastLead = none
  ∧ v.buffer.slots = (Vector.replicate 128 none).set (slotPlace k.entry.depth x.seq).val (some
      ⟨x.seq, x.ts, x.l, x.r, x.payload, (⟨none, none⟩ : Pair (Option Ticks)).set x.path (some x.capture), x.path, true⟩)
  ∧ v.recovery.rt = some (BitVec.ofInt 59 (x.ts.toNat * 2 ^ 27 + signed32 s.lt x.capture * (2 ^ 27 + k.recovery.freq)))
  ∧ v.recovery.window = some ⟨1, 0, k.entry.window⟩ ∧ v.recovery.locked = false
  ∧ v.recovery.towardLock = 0 ∧ v.recovery.towardLoss = 0
  ∧ v.recovery.freq = k.recovery.freq ∧ v.recovery.integrator = k.recovery.integrator
  ∧ v.recovery.history = k.recovery.history ∧ v.packetizer = k.packetizer
  ∧ v.merge.holdOff = none ∧ v.counters.get CircuitCounter.firstCopies.place
      = countUp (k.counters.get CircuitCounter.firstCopies.place)

/-- The skew sample of a duplicate on path `p` with the given capture, for a sequence with the given arrival times (R103): when
its own path's is absent and the other's is present, signed32(arrival on B − arrival on A). -/
def skewGiven (arrival : Pair (Option Ticks)) (p : Port) (capture : Ticks) : Option Int :=
  match p, arrival.a, arrival.b with
  | .A, none, some b => some (signed32 b capture)
  | .B, some a, none => some (signed32 capture a)
  | _, _, _ => none

/-- The arrival times with one path's recorded where it was absent (R101, R111). -/
def arrivalKept (arrival : Pair (Option Ticks)) (p : Port) (capture : Ticks) : Pair (Option Ticks) :=
  if arrival.get p = none then arrival.set p (some capture) else arrival

/-- The sample an arrival gives (R102, R131, R132): signed32(RT_int − TS), with RT reckoned back to the arrival's capture. -/
def sampleValue (s : State) (c : Fin 64) (x : Candidate) (rt : FineTicks) : Int :=
  let atCapture := rt - BitVec.ofInt 59 (signed32 s.lt x.capture * (2 ^ 27 + (s.circuit c).recovery.freq))
  signed32 (atCapture.extractLsb' 27 32) x.ts

/-- The state after circuit `c`, in ACQUIRING or PLAYING, or in STARVED where it gives no sample, has taken an arrival that fits
its stamp, of the class counted by `n` (R99 to R103): the buffer has the given slots and history, the class counts one, the
mismatch run is 0 when the path is a sampling path; a sample acts on the late run (R67: in PLAYING under REALIGN) and is taken by
recovery with the starvation timer restarted; and a skew sample joins the estimate. -/
def State.classed (s : State) (c : Fin 64) (x : Candidate) (rt : FineTicks) (n : CircuitCounter)
    (slots : Vector (Option HeldEntry) 128) (history : List HistoryRecord) (sampled : Bool) (skew : Option Int) : State :=
  let k := s.circuit c
  let lateRun := if sampled = true ∧ k.control.state = .playing ∧ k.entry.latePolicy = .realign then
      (if n = .late then k.control.lateRun + 1 else 0)
    else k.control.lateRun
  let taken := s.onCircuit c (fun k => { k with
    counters := bump k.counters n.place
    buffer := { k.buffer with slots := slots, history := history }
    control := { k.control with
      lateRun := lateRun, mismatchRun := if k.samples x.path then 0 else k.control.mismatchRun } })
  let sampledState := if sampled then taken.takeSample c (sampleValue s c x rt) else taken
  match skew with
  | none => sampledState
  | some v => sampledState.skewSample c v

/-- The state after circuit `c`, in STARVED, has re-entered PLAYING on an arrival of the class counted by `n` with the given
sample (R65): the class counts one, the buffer has the given slots and history and the start mark NO, the mismatch run is 0, the
starvation timer is started, the sample is the first of a new window, STATE_CHANGED is set, and a skew sample joins the
estimate. The late run is as it was (log 17). -/
def State.reentered (s : State) (c : Fin 64) (value : Int) (n : CircuitCounter) (slots : Vector (Option HeldEntry) 128)
    (history : List HistoryRecord) (skew : Option Int) : State :=
  let entered := (s.onCircuit c (fun k => { k with
    counters := bump k.counters n.place
    buffer := { k.buffer with slots := slots, history := history, startMark := false }
    control := { k.control with
      state := .playing, mismatchRun := 0
      starvationTimer := some (s.lt + BitVec.ofNat 32 (k.entry.starvationTimeout * k.entry.frames * 1024)) }
    recovery := { k.recovery with window := some ⟨1, value, k.entry.window⟩ } })).raiseCircuit c .stateChanged
      (.circuitState .playing)
  match skew with
  | none => entered
  | some v => entered.skewSample c v

/-! ### Entries a write has stored -/

/-- The tributary entry that a write of the given fields stores over a held one (R31, R46): each field given has its value and
each other is as held; the timing circuit is as held while the requested mode held is ADAPTIVE. -/
def TributaryEntry.writtenBy (e held : TributaryEntry) (fields : List TributaryField) : Prop :=
  ((∀ v, .framing v ∈ fields → e.framing = v) ∧ ((∀ v, .framing v ∉ fields) → e.framing = held.framing))
  ∧ ((∀ v, .clockMode v ∈ fields → e.clockMode = v) ∧ ((∀ v, .clockMode v ∉ fields) → e.clockMode = held.clockMode))
  ∧ (if held.clockMode = .adaptive then e.timing = held.timing
    else (∀ v, .timing v ∈ fields → e.timing = v) ∧ ((∀ v, .timing v ∉ fields) → e.timing = held.timing))
  ∧ ((∀ v, .idle v ∈ fields → e.idle = v) ∧ ((∀ v, .idle v ∉ fields) → e.idle = held.idle))
  ∧ ((∀ v, .enables v ∈ fields → e.enables = v) ∧ ((∀ v, .enables v ∉ fields) → e.enables = held.enables))

/-- The port entry that a write of the given fields stores over a held one (R31, R34): each field given has its value, a frame
type value below 0x0600 being stored as 0x0600, and each other is as held. -/
def PortEntry.writtenBy (e held : PortEntry) (fields : List PortField) : Prop :=
  ((∀ v, .address v ∈ fields → e.address = v) ∧ ((∀ v, .address v ∉ fields) → e.address = held.address))
  ∧ ((∀ v, .accept v ∈ fields → e.accept = v) ∧ ((∀ v, .accept v ∉ fields) → e.accept = held.accept))
  ∧ ((∀ v : Nat, .frameType v ∈ fields → v < 65536 → e.frameType.toNat = max 0x0600 v)
    ∧ ((∀ v, .frameType v ∉ fields) → e.frameType = held.frameType))
  ∧ ((∀ v, .enables v ∈ fields → e.enables = v) ∧ ((∀ v, .enables v ∉ fields) → e.enables = held.enables))

/-! ### The laws of the device -/

/-- The queues hold no more than the manual allows: 64 event records (R181), 64 copies (R78), 4 responses (R170). -/
def queuesBounded (s : State) : Prop :=
  s.events.length ≤ 64 ∧ ∀ p, (s.port p).circuitQueue.length ≤ 64 ∧ (s.port p).responseQueue.length ≤ 4

/-- The law of the shared packet memory (R54). -/
def memoryLaw (s : State) : Prop := s.totalReserved ≤ 2097152

/-- A circuit that is engaged reserves what its entry and its tributary's framing give (R41). -/
def reservationLaw (s : State) : Prop :=
  ∀ c, (s.circuit c).engaged = true →
    (s.circuit c).control.reserved = reservationSize (s.framingOf (s.circuit c).entry) (s.circuit c).entry

/-- A value of FREQ, I or H in range (R127, R147). -/
def inFreqRange (x : Int) : Prop := -32768 ≤ x ∧ x ≤ 32767

/-- The law of the recovery range (R137), with the FREQ history the means are taken from (R142) and the rates of the latest tick
of LT (log 32). -/
def recoveryRangeLaw (s : State) : Prop :=
  (∀ c, inFreqRange (s.circuit c).recovery.freq ∧ inFreqRange (s.circuit c).recovery.integrator
    ∧ inFreqRange (s.circuit c).recovery.tickFreq
    ∧ (∀ x ∈ (s.circuit c).recovery.history, inFreqRange x) ∧ (s.circuit c).recovery.history.length ≤ 8
    ∧ ∀ e, (s.circuit c).recovery.lastError = some e → -2047 ≤ e ∧ e ≤ 2047)
  ∧ ∀ t, inFreqRange (s.tributary t).clocking.holdover ∧ inFreqRange ((s.tributary t).transmit.tickRate - 2 ^ 27)

/-- A DISABLED circuit holds nothing but its table entry, its counters and its flags (R56, R72, R107, R128, R162), and the
packetizer of every other circuit is running (R72). -/
def disabledLaw (s : State) : Prop :=
  ∀ c, if (s.circuit c).control.state = .disabled then s.circuit c = (s.circuit c).disabledForm
    else (s.circuit c).packetizer.phase ≠ .idle

/-- The law of path liveness (R92): a path is UP only if its circuit is not DISABLED and its port's link is UP. -/
def pathLaw (s : State) : Prop :=
  ∀ c p, (s.circuit c).merge.up.get p = .up → (s.circuit c).control.state ≠ .disabled ∧ (s.port p).link = .up

/-- A circuit whose lock is LOCKED is in PLAYING (R141). -/
def lockLaw (s : State) : Prop := ∀ c, (s.circuit c).recovery.locked = true → (s.circuit c).control.state = .playing

/-- A LOCKED circuit has a FREQ history, and so has the timing circuit of a tributary whose actual mode is ADAPTIVE (R142,
R153): when such a circuit leaves PLAYING the outcome is HOLDOVER. It rests on R46: while the actual mode is ADAPTIVE, a
requested ADAPTIVE is for the timing circuit in force. -/
def historyLaw (s : State) : Prop :=
  (∀ c, (s.circuit c).recovery.locked = true → (s.circuit c).recovery.history ≠ [])
  ∧ ∀ t, (s.tributary t).clocking.actual = .adaptive →
      (s.circuit (s.tributary t).clocking.timing).recovery.history ≠ []
      ∧ ((s.tributary t).entry.clockMode = .adaptive → (s.tributary t).entry.timing = (s.tributary t).clocking.timing)

/-- The law of clock modes (R153, R155): ADAPTIVE only with ADAPTIVE in force and the timing circuit in force naming the
tributary and PLAYING; LOOP only with LOOP in force and a receive line that has signal. -/
def clockLaw (s : State) : Prop :=
  ∀ t, ((s.tributary t).clocking.actual = .adaptive → (s.tributary t).clocking.inForce = .adaptive
      ∧ (s.circuit (s.tributary t).clocking.timing).entry.tributary = some t
      ∧ (s.circuit (s.tributary t).clocking.timing).control.state = .playing)
    ∧ ((s.tributary t).clocking.actual = .loop → (s.tributary t).clocking.inForce = .loop
      ∧ (s.tributary t).line.signal = .present)

/-- Every counter of every circuit and port is at most 4,294,967,295 (R182). -/
def countersLaw (s : State) : Prop :=
  (∀ c i, (s.circuit c).counters.get i ≤ 4294967295) ∧ ∀ p i, (s.port p).counters.get i ≤ 4294967295

/-- No two entries naming one FRAMED tributary share a timeslot, and no two entries share an in-label other than 0 (R39,
R40). -/
def conflictLaw (s : State) : Prop :=
  ∀ c d, c ≠ d →
    ((s.circuit c).entry.inLabel ≠ 0 → (s.circuit c).entry.inLabel ≠ (s.circuit d).entry.inLabel)
    ∧ ∀ t, (s.circuit c).entry.tributary = some t → (s.circuit d).entry.tributary = some t →
        (s.tributary t).entry.framing = .framed → sharesSlot (s.circuit c).entry.slotSet (s.circuit d).entry.slotSet = false

/-- At most one circuit that is not DISABLED names any UNFRAMED tributary, and none names one whose framing is OFF (R39,
R54). -/
def unframedLaw (s : State) : Prop :=
  ∀ c t, (s.circuit c).engaged = true → (s.circuit c).entry.tributary = some t →
    (s.tributary t).entry.framing ≠ .off
    ∧ ((s.tributary t).entry.framing = .unframed →
        ∀ d, d ≠ c → (s.circuit d).engaged = true → (s.circuit d).entry.tributary ≠ some t)

/-- The fields of a path record lie in their ranges (R35). -/
def PathRecord.inRange (r : PathRecord) : Prop :=
  (1 ≤ r.outLabel ∧ r.outLabel ≤ 4095)
  ∧ ∀ x, r.tag = some x → (1 ≤ x.networkTag ∧ x.networkTag ≤ 4094) ∧ x.priority ≤ 7

/-- The fields of a circuit entry lie in their ranges (R30, R33 to R37). -/
def CircuitEntry.inRange (e : CircuitEntry) : Prop :=
  (1 ≤ e.frames ∧ e.frames ≤ 16) ∧ e.inLabel ≤ 4095
  ∧ (e.depth = 8 ∨ e.depth = 16 ∨ e.depth = 32 ∨ e.depth = 64 ∨ e.depth = 128)
  ∧ (e.frames ≤ e.playoutDelay ∧ e.playoutDelay ≤ (e.depth - 1) * e.frames)
  ∧ (e.window = 16 ∨ e.window = 32 ∨ e.window = 64 ∨ e.window = 128)
  ∧ e.shiftA ≤ 8 ∧ (e.shiftA ≤ e.shiftB ∧ e.shiftB ≤ 12)
  ∧ (1 ≤ e.lockThreshold ∧ e.lockThreshold ≤ 255)
  ∧ (e.lockThreshold ≤ e.unlockThreshold ∧ e.unlockThreshold ≤ 1023) ∧ e.reentryTolerance ≤ 1023
  ∧ (2 ≤ e.starvationTimeout ∧ e.starvationTimeout ≤ 255) ∧ (2 ≤ e.pathTimeout ∧ e.pathTimeout ≤ 255)
  ∧ (1 ≤ e.engageTimeout ∧ e.engageTimeout ≤ 255) ∧ e.restoreHoldOff ≤ 255
  ∧ e.rttLimit ≤ 65535 ∧ e.skewLimit ≤ 65535
  ∧ e.slotSet.getLsbD 0 = false ∧ ∀ p r, e.paths.get p = some r → r.inRange

/-- Every circuit entry is in range, and each port's frame type value is at least 0x0600 (R30, R34, R47). -/
def tablesLaw (s : State) : Prop :=
  (∀ c, (s.circuit c).entry.inRange) ∧ ∀ p, 0x0600 ≤ (s.port p).entry.frameType.toNat

/-- The law of the playout buffer (R108) for one circuit: without a pointer every slot is EMPTY; with one, a held entry
stands at its sequence modulo depth and lies 0 to depth − 1 ahead of the pointer. -/
def Circuit.bufferLaw (k : Circuit) : Prop :=
  ∀ i e, k.buffer.slots.get i = some e →
    ∃ x, k.buffer.pointer = some x ∧ i = slotPlace k.entry.depth e.seq
      ∧ 0 ≤ signed16 e.seq x.seq ∧ signed16 e.seq x.seq < (k.entry.depth : Int)

/-- The law of the playout buffer for every circuit, with what it rests on: depths in range, and nothing held by a DISABLED
circuit, whose depth alone may be written (R38, R108). -/
def bufferLaw (s : State) : Prop := tablesLaw s ∧ disabledLaw s ∧ ∀ c, (s.circuit c).bufferLaw

end Sys2Proof.Machine
end

