-- ==== Sys2Proof/Certificates/Slice0/Obligations.lean ====
section
/-! DEFINITION. The statements for the provers, one `Prop` each, in the order of OBLIGATIONS.json. -/

open Sys2Proof Sys2Proof.Machine

/-! ### The machine: steps, the part's own clock, power-on -/

/-- A step takes the command at the front of the queue and is its meaning on the state with the queue's rest. -/
def Obligations.StepTakesTheFrontCommand : Prop :=
  ∀ (c : Instr) (rest : List Instr) (s : State), step { s with pending := c :: rest } = exec c { s with pending := rest }

/-- The model's own choice (log 1, log 2, log 7): with no command waiting, the events of the part's own that are due are queued,
each of them, in an order that is left free; when none is due the step is one tick of the local reference: LT advances by one,
each RT by 2^27 + FREQ fine ticks (R129), each transmit bit timing by its source's time (R148, R149): LT itself in FREE, with the
FREQ of the timing circuit in ADAPTIVE and with H in HOLDOVER, while in LOOP the LT elapsed is kept up to one bit. In ADAPTIVE the
timing circuit's RT and the transmit bit timing advance alike, to the fine tick (R158: no drift). The rates of both are kept as
those of the latest tick (log 32). Nothing else changes but what the ports remember of replaced values (log 8). Due are the expired timers, the frame starts and generated frame
events of R8 and R11, and what the ports are ready to do. -/
def Obligations.IdleStepTicksOrQueuesDueEvents : Prop :=
  (∀ s : State, s.pending = [] → s.due = [] →
    ∃ u, step s = .next u ∧ u.lt = s.lt + 1
      ∧ (∀ c, u.circuit c = { s.circuit c with recovery := { (s.circuit c).recovery with
          rt := (s.circuit c).recovery.rt.map (fun x => x + BitVec.ofInt 59 (2 ^ 27 + (s.circuit c).recovery.freq))
          tickFreq := (s.circuit c).recovery.freq } })
      ∧ (∀ t, u.tributary t = { s.tributary t with transmit := { (s.tributary t).transmit with
          bits := (u.tributary t).transmit.bits, bitTime := (u.tributary t).transmit.bitTime
          tickRate := (u.tributary t).transmit.tickRate } })
      ∧ (∀ t, let k := s.tributary t
          let x := (u.tributary t).transmit
          let timedBy (offset : Int) : Prop :=
            let now := k.transmit.bitTime + (2 ^ 27 + offset).toNat
            x.tickRate = (2 ^ 27 + offset).toNat
            ∧ if 2 ^ 29 ≤ now then x.bits = k.transmit.bits + 1 ∧ x.bitTime = now - 2 ^ 29
              else x.bits = k.transmit.bits ∧ x.bitTime = now
          match k.clocking.actual with
          | .free => timedBy 0
          | .adaptive => timedBy (s.circuit k.clocking.timing).recovery.freq
          | .holdover => timedBy k.clocking.holdover
          | .loop => x.bits = k.transmit.bits ∧ x.bitTime = min (k.transmit.bitTime + 2 ^ 27) (2 ^ 29)
              ∧ x.tickRate = 2 ^ 27)
      ∧ (∀ t rt, let c := (s.tributary t).clocking.timing
          (s.tributary t).clocking.actual = .adaptive → (s.circuit c).recovery.rt = some rt →
          -2 ^ 27 ≤ (s.circuit c).recovery.freq →
          let sent (v : State) : FineTicks :=
            BitVec.ofNat 59 ((v.tributary t).transmit.bits * 2 ^ 29 + (v.tributary t).transmit.bitTime)
          ∃ now, (u.circuit c).recovery.rt = some now ∧ now - sent u = rt - sent s)
      ∧ (∀ p, u.port p = { s.port p with earlier := (u.port p).earlier })
      ∧ u.events = s.events ∧ u.overflow = s.overflow ∧ u.answer = s.answer ∧ u.draws = s.draws ∧ u.pending = [])
  ∧ (∀ s : State, s.pending = [] → s.due ≠ [] →
    ∃ l, l.Perm s.due ∧ step s = .next { s with pending := l, draws := s.draws + s.due.length })
  ∧ ∀ (s : State) (i : Instr), i ∈ s.due ↔
    (∃ c, i = .engageTimerExpiry c ∧ expired s.lt (s.circuit c).control.engageTimer = true)
    ∨ (∃ c, i = .starvationTimerExpiry c ∧ expired s.lt (s.circuit c).control.starvationTimer = true)
    ∨ (∃ c p, i = .pathTimerExpiry c p ∧ expired s.lt ((s.circuit c).merge.timers.get p) = true)
    ∨ (∃ c, i = .restoreHoldOffExpiry c ∧ expired s.lt (s.circuit c).merge.holdOff = true)
    ∨ (∃ t, i = .generatedFrameEvent t ∧ (s.tributary t).line.source = .generated
        ∧ 0 ≤ signed32 s.lt ((s.tributary t).line.lastEvent + 1024))
    ∨ (∃ t, i = .transmitFrameStart t ∧ 256 ≤ (s.tributary t).transmit.bits)
    ∨ (∃ p, i = .managementFrame p ∧ (s.port p).waiting ≠ [])
    ∨ (∃ p, i = .copyDeparture p ∧ (s.port p).link = .up ∧ (s.port p).sending = none ∧ (s.port p).circuitQueue ≠ [])
    ∨ (∃ p, i = .responseDeparture p ∧ (s.port p).link = .up ∧ (s.port p).sending = none
        ∧ (s.port p).circuitQueue = [] ∧ (s.port p).responseQueue ≠ [])

/-- POWER_ON sets every piece of state to its power-on value: the tables, the circuits' blocks, the line units with their
detectors' counts and no search in progress, the first transmit frame EVEN, the clocking blocks, the ports, counters and flags,
with the station addresses of the straps. The places and octets of the line detectors (log 23), the transmit phase (log 6) and
the fields earlier, waiting, sending, answer, tickFreq and tickRate (logs 8, 10, 11, 18, 32) have the model's own values; the commands that wait and the
count of free choices are the model's own and are kept (logs 2, 5). -/
def Obligations.PowerOnSetsEveryPowerOnValue : Prop :=
  ∀ (unit : BitVec 16) (s : State), ∃ u, exec (.powerOn unit) s = .next u
    ∧ u.lt = 0 ∧ u.events = [] ∧ u.overflow = false ∧ u.answer = none ∧ u.pending = s.pending ∧ u.draws = s.draws
    ∧ (∀ c, (u.circuit c).counters = Vector.replicate 16 0 ∧ (u.circuit c).flags = Vector.replicate 14 none
        ∧ (u.circuit c).control = ⟨.disabled, false, none, none, 0, 0, 0⟩
        ∧ (u.circuit c).packetizer = ⟨.idle, 0, none, []⟩
        ∧ (u.circuit c).merge = ⟨⟨.down, .down⟩, ⟨none, none⟩, none, none, none, []⟩
        ∧ (u.circuit c).buffer = ⟨Vector.replicate 128 none, none, [], none, 0, false, none⟩
        ∧ (u.circuit c).recovery = ⟨none, 0, 0, none, false, 0, 0, none, [], 0⟩
        ∧ (∀ p, (u.circuit c).delay.get p = ⟨none, none, 0, none, none⟩)
        ∧ (u.circuit c).entry =
          { tributary := none, slotSet := 0, frames := 8, inLabel := 0, paths := ⟨none, none⟩, depth := 32,
            playoutDelay := 16, window := 32, shiftA := 3, shiftB := 7, lockThreshold := 8, unlockThreshold := 32,
            reentryTolerance := 256, starvationTimeout := 8, pathTimeout := 4, engageTimeout := 10, restoreHoldOff := 5,
            policy := .merge, latePolicy := .keepDelay, substitution := .allOnes, rttLimit := 0, skewLimit := 0,
            enables := BitVec.allOnes 14 })
    ∧ (∀ t, (u.tributary t).entry = ⟨.off, .free, 0, 255, BitVec.allOnes 5⟩ ∧ (u.tributary t).flags = Vector.replicate 5 none
        ∧ (u.tributary t).clocking = ⟨.free, 0, none, .free, 0, false⟩
        ∧ (u.tributary t).line =
          { signal := .lost, alignment := .notFramed, ais := .clear, remoteAlarm := .clear, source := .generated,
            frameCount := 0, zeroRun := 0, blockBits := 0, blockOnes := 0, aisBits := 0, aisZeros := 0, erroredRun := 0,
            search := .idle, searchBits := 0, recent := 0, frameBits := 0, oddFrame := false, gathered := [],
            lastIndicator := none, alarmRun := 0, lastEvent := 0 }
        ∧ (u.tributary t).transmit =
          { parity := .even, begun := false, frame := List.replicate 32 255, bits := 256, bitTime := 0, tickRate := 2 ^ 27 })
    ∧ (∀ p, u.port p =
          { entry := ⟨0x024C45#24 ++ unit ++ (match p with | .A => 0#8 | .B => 1#8), true, 0xB7A4, BitVec.allOnes 3⟩
            earlier := [], link := .down, circuitQueue := [], responseQueue := [], sending := none, waiting := []
            counters := Vector.replicate 6 0, flags := Vector.replicate 3 none })

/-- The state after reset meets every law of the device. -/
def Obligations.ResetMeetsEveryLaw : Prop :=
  queuesBounded State.reset ∧ countersLaw State.reset ∧ memoryLaw State.reset ∧ reservationLaw State.reset
  ∧ recoveryRangeLaw State.reset ∧ lockLaw State.reset ∧ historyLaw State.reset ∧ disabledLaw State.reset
  ∧ pathLaw State.reset ∧ clockLaw State.reset ∧ conflictLaw State.reset ∧ unframedLaw State.reset
  ∧ tablesLaw State.reset ∧ bufferLaw State.reset

/-- The model's own choice (log 4): the command of an event whose condition does not hold changes nothing. -/
def Obligations.EventsNotDueChangeNothing : Prop :=
  ∀ s : State,
    (∀ t, ((s.tributary t).line.source = .line ∨ signed32 s.lt ((s.tributary t).line.lastEvent + 1024) < 0) →
      exec (.generatedFrameEvent t) s = .next s)
    ∧ (∀ t, (s.tributary t).transmit.bits < 256 → exec (.transmitFrameStart t) s = .next s)
    ∧ (∀ p, (s.port p).link = .up → exec (.linkUp p) s = .next s)
    ∧ (∀ p, (s.port p).link = .down → exec (.linkDown p) s = .next s)
    ∧ (∀ p age o, (s.port p).link = .down → exec (.frameArrival p age o) s = .next s)
    ∧ (∀ p, ((s.port p).link = .down ∨ (s.port p).sending ≠ none ∨ (s.port p).circuitQueue = []) →
      exec (.copyDeparture p) s = .next s)
    ∧ (∀ p, ((s.port p).link = .down ∨ (s.port p).sending ≠ none ∨ (s.port p).circuitQueue ≠ []
        ∨ (s.port p).responseQueue = []) → exec (.responseDeparture p) s = .next s)
    ∧ (∀ c, (∀ e, (s.circuit c).control.engageTimer = some e → signed32 s.lt e < 0) →
      exec (.engageTimerExpiry c) s = .next s)
    ∧ (∀ c, (∀ e, (s.circuit c).control.starvationTimer = some e → signed32 s.lt e < 0) →
      exec (.starvationTimerExpiry c) s = .next s)
    ∧ (∀ c p, (∀ e, (s.circuit c).merge.timers.get p = some e → signed32 s.lt e < 0) →
      exec (.pathTimerExpiry c p) s = .next s)
    ∧ (∀ c, (∀ e, (s.circuit c).merge.holdOff = some e → signed32 s.lt e < 0) →
      exec (.restoreHoldOffExpiry c) s = .next s)
    ∧ (∀ p, (s.port p).waiting = [] → exec (.managementFrame p) s = .next s)

/-! ### The receive side of the tributary lines -/

/-- The seven line commands judge the bits they bring in line order, each bit whole before the next, so that a command's bits
may be cut anywhere (log 3); and each leaves alone all but its tributary's receive side, the packetizers of the circuits on it
and the copies they make. -/
def Obligations.LineCommandsTakeBitsInOrder : Prop :=
  ∀ (t : Fin 16) (i : List Bool → Instr),
    i ∈ [Instr.lossOfSignalDeclared t, Instr.lossOfSignalCleared t, Instr.aisBlockEnd t, Instr.alignmentDeclared t,
      Instr.alignmentLost t, Instr.remoteAlarmStateChange t, Instr.receiveFrameEvent t] →
    ∀ s : State, exec (i []) s = .next s
      ∧ (∀ bits more u, exec (i bits) s = .next u → exec (i (bits ++ more)) s = exec (i more) u)
      ∧ ∀ bits, ∃ u, exec (i bits) s = .next u ∧ OnlyReceive s u t

/-- R2: a run of 256 zero bits while PRESENT declares loss of signal at its last bit, with SIGNAL_CHANGE; the event source is
GENERATED (R8) and no search is in progress. By then the alignment has ended, with ALIGN_CHANGE and the remote alarm CLEAR with
REMOTE_ALARM_CHANGE where it was SEEN (R5), and LOOP gives way to FREE with CLOCK_MODE_CHANGE (R155, R156). A shorter run
declares nothing, and a one ends the run. -/
def Obligations.LossOfSignalAfter256Zeros : Prop :=
  ∀ (t : Fin 16) (n : Nat) (s : State), (s.tributary t).line.signal = .present → (s.tributary t).line.zeroRun < 256 →
    ((s.tributary t).line.zeroRun + n = 256 →
      ∃ u, exec (.lossOfSignalDeclared t (List.replicate n false)) s = .next u
        ∧ (u.tributary t).line.signal = .lost ∧ (u.tributary t).line.alignment ≠ .aligned
        ∧ (u.tributary t).line.source = .generated ∧ (u.tributary t).line.search = .idle
        ∧ (u.tributary t).line.zeroRun = 0 ∧ (u.tributary t).line.blockBits = 0 ∧ (u.tributary t).line.blockOnes = 0
        ∧ u.flag (.tributary t .signalChange) = s.flagAfter (.tributary t .signalChange) (.signal .lost)
        ∧ (let was := (s.tributary t).line
           if was.alignment = .aligned then
             (u.tributary t).line.alignment = .searching ∧ (u.tributary t).line.remoteAlarm = .clear
             ∧ u.flag (.tributary t .alignChange) = s.flagAfter (.tributary t .alignChange) (.alignment .searching)
             ∧ u.flag (.tributary t .remoteAlarmChange) =
                if was.remoteAlarm = .seen then s.flagAfter (.tributary t .remoteAlarmChange) (.seen .clear)
                else s.flag (.tributary t .remoteAlarmChange)
           else (u.tributary t).line.alignment = was.alignment ∧ (u.tributary t).line.remoteAlarm = was.remoteAlarm
             ∧ u.flag (.tributary t .alignChange) = s.flag (.tributary t .alignChange)
             ∧ u.flag (.tributary t .remoteAlarmChange) = s.flag (.tributary t .remoteAlarmChange))
        ∧ (if (s.tributary t).clocking.inForce = .loop ∧ (s.tributary t).clocking.actual = .loop then
             (u.tributary t).clocking.actual = .free
             ∧ u.flag (.tributary t .clockModeChange) = s.flagAfter (.tributary t .clockModeChange) (.clockMode .free)
           else (u.tributary t).clocking.actual = (s.tributary t).clocking.actual
             ∧ u.flag (.tributary t .clockModeChange) = s.flag (.tributary t .clockModeChange)))
    ∧ ((s.tributary t).line.zeroRun + n < 256 →
      ∃ u, exec (.lossOfSignalDeclared t (List.replicate n false)) s = .next u
        ∧ (u.tributary t).line.signal = .present ∧ (u.tributary t).line.zeroRun = (s.tributary t).line.zeroRun + n
        ∧ u.flag (.tributary t .signalChange) = s.flag (.tributary t .signalChange))
    ∧ (0 < n → ∃ u, exec (.lossOfSignalDeclared t (List.replicate n true)) s = .next u
        ∧ (u.tributary t).line.signal = .present ∧ (u.tributary t).line.zeroRun = 0
        ∧ u.flag (.tributary t .signalChange) = s.flag (.tributary t .signalChange))

/-- R2: while LOST, a block of 256 bits with 32 ones or more clears the loss at its last bit, with SIGNAL_CHANGE, the search of
a FRAMED tributary, the LINE source of an UNFRAMED one, and LOOP again where it is in force (R4, R8, R155); a block with fewer
ends with the signal still LOST, and the next begins. -/
def Obligations.LossOfSignalClearsAfterABlock : Prop :=
  ∀ (t : Fin 16) (bits : List Bool) (s : State), (s.tributary t).line.signal = .lost →
    (s.tributary t).line.blockBits = 0 → (s.tributary t).line.blockOnes = 0 → bits.length = 256 →
    ∃ u, exec (.lossOfSignalCleared t bits) s = .next u
      ∧ (u.tributary t).line.blockBits = 0 ∧ (u.tributary t).line.blockOnes = 0
      ∧ (if 32 ≤ bits.count true then
          (u.tributary t).line.signal = .present
          ∧ u.flag (.tributary t .signalChange) = s.flagAfter (.tributary t .signalChange) (.signal .present)
          ∧ ((s.tributary t).entry.framing = .framed →
              (u.tributary t).line.search = .hunt ∧ (u.tributary t).line.searchBits = 0)
          ∧ ((s.tributary t).entry.framing = .unframed →
              (u.tributary t).line.source = .line ∧ (u.tributary t).line.frameBits = 0)
          ∧ ((s.tributary t).clocking.inForce = .loop → (s.tributary t).clocking.actual = .free →
              (u.tributary t).clocking.actual = .loop)
        else (u.tributary t).line.signal = .lost
          ∧ u.flag (.tributary t .signalChange) = s.flag (.tributary t .signalChange))

/-- R3: at the end of a block of 512 bits the AIS state is SEEN when the block held fewer than three zeros and CLEAR otherwise,
and AIS_CHANGE is set by a change alone. -/
def Obligations.AisIsJudgedEvery512Bits : Prop :=
  ∀ (t : Fin 16) (bits : List Bool) (s : State), (s.tributary t).line.aisBits = 0 → (s.tributary t).line.aisZeros = 0 →
    bits.length = 512 →
    let now : SeenState := if bits.count false < 3 then .seen else .clear
    ∃ u, exec (.aisBlockEnd t bits) s = .next u ∧ (u.tributary t).line.ais = now
      ∧ (u.tributary t).line.aisBits = 0 ∧ (u.tributary t).line.aisZeros = 0
      ∧ u.flag (.tributary t .aisChange) =
          if (s.tributary t).line.ais = now then s.flag (.tributary t .aisChange)
          else s.flagAfter (.tributary t .aisChange) (.seen now)

/-- R4: the alignment search of a FRAMED tributary, bit by bit: HUNT until the alignment word, CONFIRM_ODD judged 250 bits
after it at bit 2 of the next slot 0, CONFIRM_EVEN at the last bit of the slot 0 after that, where the word declares ALIGNED
with ALIGN_CHANGE and the event source LINE; a failed confirmation returns to HUNT. That CONFIRM_ODD is judged at bit 2 and
CONFIRM_EVEN at the last bit of slot 0, and not at the end of a frame, is the model's reading (log 14). -/
def Obligations.AlignmentIsFoundInThreePhases : Prop :=
  ∀ (t : Fin 16) (b : Bool) (s : State), (s.tributary t).entry.framing = .framed → (s.tributary t).line.signal = .present →
    (s.tributary t).line.alignment = .searching → (b = true ∨ (s.tributary t).line.zeroRun < 255) →
    let octet : BitVec 8 := ((s.tributary t).line.recent <<< 1) ||| BitVec.ofNat 8 b.toNat
    let n := (s.tributary t).line.searchBits
    ∃ u, exec (.alignmentDeclared t [b]) s = .next u ∧ (u.tributary t).line.recent = octet
      ∧ (let x := (u.tributary t).line
         match (s.tributary t).line.search with
         | .idle => x.alignment = .searching ∧ x.search = .idle
         | .hunt => x.alignment = .searching
            ∧ (if 6 ≤ n ∧ octet.extractLsb' 0 7 = 0b0011011#7 then x.search = .confirmOdd ∧ x.searchBits = 6
               else x.search = .hunt ∧ x.searchBits = n + 1)
         | .confirmOdd => x.alignment = .searching
            ∧ (if n < 255 then x.search = .confirmOdd ∧ x.searchBits = n + 1
               else if b then x.search = .confirmEven ∧ x.searchBits = n + 1
               else x.search = .hunt ∧ x.searchBits = 0)
         | .confirmEven =>
            if n < 517 then x.alignment = .searching ∧ x.search = .confirmEven ∧ x.searchBits = n + 1
            else if octet.extractLsb' 0 7 = 0b0011011#7 then
              x.alignment = .aligned ∧ x.search = .idle ∧ x.source = .line ∧ x.remoteAlarm = .clear ∧ x.erroredRun = 0
              ∧ x.frameBits = 8 ∧ x.oddFrame = false ∧ x.gathered = [octet]
              ∧ u.flag (.tributary t .alignChange) = s.flagAfter (.tributary t .alignChange) (.alignment .aligned)
            else x.alignment = .searching ∧ x.search = .hunt ∧ x.searchBits = 0)

/-- R5: in ALIGNED, the last bit of slot 0 of an even frame judges the alignment word: the third consecutive errored word ends
the alignment with ALIGN_CHANGE, the remote alarm CLEAR and the source GENERATED; a good word returns the run to 0. -/
def Obligations.ThirdErroredWordEndsAlignment : Prop :=
  ∀ (t : Fin 16) (b : Bool) (s : State), (s.tributary t).entry.framing = .framed → (s.tributary t).line.signal = .present →
    (s.tributary t).line.alignment = .aligned → (s.tributary t).line.oddFrame = false →
    (s.tributary t).line.frameBits = 7 → (b = true ∨ (s.tributary t).line.zeroRun < 255) →
    let octet : BitVec 8 := ((s.tributary t).line.recent <<< 1) ||| BitVec.ofNat 8 b.toNat
    ∃ u, exec (.alignmentLost t [b]) s = .next u
      ∧ (if octet.extractLsb' 0 7 = 0b0011011#7 then
          (u.tributary t).line.alignment = .aligned ∧ (u.tributary t).line.erroredRun = 0
            ∧ (u.tributary t).line.frameBits = 8
        else if (s.tributary t).line.erroredRun < 2 then
          (u.tributary t).line.alignment = .aligned ∧ (u.tributary t).line.frameBits = 8
            ∧ (u.tributary t).line.erroredRun = (s.tributary t).line.erroredRun + 1
        else
          (u.tributary t).line.alignment = .searching ∧ (u.tributary t).line.search = .hunt
            ∧ (u.tributary t).line.source = .generated ∧ (u.tributary t).line.remoteAlarm = .clear
            ∧ (u.tributary t).line.erroredRun = 0
            ∧ u.flag (.tributary t .alignChange) = s.flagAfter (.tributary t .alignChange) (.alignment .searching)
            ∧ u.flag (.tributary t .remoteAlarmChange) =
                if (s.tributary t).line.remoteAlarm = .seen then
                  s.flagAfter (.tributary t .remoteAlarmChange) (.seen .clear)
                else s.flag (.tributary t .remoteAlarmChange))

/-- R6: in ALIGNED, the remote alarm state follows the indicator of the odd frames once two in a row differ from it, with
REMOTE_ALARM_CHANGE; one alone changes nothing (judged at the indicator's bit, log 14). -/
def Obligations.RemoteAlarmFollowsTwoIndicators : Prop :=
  ∀ (t : Fin 16) (b : Bool) (s : State), (s.tributary t).entry.framing = .framed → (s.tributary t).line.signal = .present →
    (s.tributary t).line.alignment = .aligned → (s.tributary t).line.oddFrame = true →
    (s.tributary t).line.frameBits = 2 → (b = true ∨ (s.tributary t).line.zeroRun < 255) →
    let indicated : SeenState := if b then .seen else .clear
    let x := (s.tributary t).line
    ∃ u, exec (.remoteAlarmStateChange t [b]) s = .next u ∧ (u.tributary t).line.frameBits = 3
      ∧ (u.tributary t).line.lastIndicator = some b ∧ (u.tributary t).line.alignment = .aligned
      ∧ (if x.remoteAlarm = indicated then
          (u.tributary t).line.remoteAlarm = x.remoteAlarm ∧ (u.tributary t).line.alarmRun = 0
            ∧ u.flag (.tributary t .remoteAlarmChange) = s.flag (.tributary t .remoteAlarmChange)
        else if x.lastIndicator = some b ∧ 1 ≤ x.alarmRun then
          (u.tributary t).line.remoteAlarm = indicated ∧ (u.tributary t).line.alarmRun = 0
            ∧ u.flag (.tributary t .remoteAlarmChange) = s.flagAfter (.tributary t .remoteAlarmChange) (.seen indicated)
        else (u.tributary t).line.remoteAlarm = x.remoteAlarm ∧ (u.tributary t).line.alarmRun = 1
            ∧ u.flag (.tributary t .remoteAlarmChange) = s.flag (.tributary t .remoteAlarmChange))

/-- R8: while the event source is LINE, the 256th bit of a frame brings the receive frame event with the 32 octets received
and fault mark CLEAR, and the next frame begins. Each copy of a packet it completes is queued, dropped or counted not sent (R76,
R78). The packetizers take the event in ascending index, the model's choice (log 12). -/
def Obligations.ReceiveFrameEventEveryFrame : Prop :=
  ∀ (t : Fin 16) (b : Bool) (s : State), (s.tributary t).line.signal = .present →
    ((s.tributary t).entry.framing = .unframed
      ∨ (s.tributary t).entry.framing = .framed ∧ (s.tributary t).line.alignment = .aligned) →
    (s.tributary t).line.frameBits = 255 → (b = true ∨ (s.tributary t).line.zeroRun < 255) →
    ∃ u, exec (.receiveFrameEvent t [b]) s = .next u
      ∧ (u.tributary t).line.frameBits = 0 ∧ (u.tributary t).line.gathered = []
      ∧ (u.tributary t).line.oddFrame = !(s.tributary t).line.oddFrame
      ∧ FrameEventTaken s u t
          ((s.tributary t).line.gathered ++ [((s.tributary t).line.recent <<< 1) ||| BitVec.ofNat 8 b.toNat]) false
      ∧ OnlyReceive s u t

/-- R8, R9, R10: a generated receive frame event that is due carries 32 octets of 255 with fault mark FAULTED,
and each copy of a packet it completes is queued, dropped or counted not sent (R76, R78), in ascending index (log 12). -/
def Obligations.GeneratedFrameEventWhenDue : Prop :=
  ∀ (t : Fin 16) (s : State), (s.tributary t).line.source = .generated →
    0 ≤ signed32 s.lt ((s.tributary t).line.lastEvent + 1024) →
    ∃ u, exec (.generatedFrameEvent t) s = .next u ∧ FrameEventTaken s u t (List.replicate 32 255) true
      ∧ OnlyReceive s u t
      ∧ (u.tributary t).line = { (s.tributary t).line with
          frameCount := (s.tributary t).line.frameCount + 1024, lastEvent := s.lt }

/-! ### Packets sent -/

/-- R75 to R78: a completed packet on one path: a copy at the tail of the port's queue when the record is present, the link UP
and the queue below 64; a discard with tx drops and TX_DROP when it is full; a not-sent count when the link is DOWN; nothing
when the record is absent. -/
def Obligations.CompletedPacketMakesItsCopies : Prop :=
  ∀ (s : State) (c : Fin 64) (a : Assembly) (p : Port),
    let k := s.circuit c
    let u := s.completePacket c a
    let dropped := (s.port p).counters.get PortCounter.txDrops.place
    let notSent := k.counters.get (CircuitCounter.notSent p).place
    (u.circuit c).packetizer.nextSeq = k.packetizer.nextSeq + 1 ∧ (u.circuit c).packetizer.assembly = none
    ∧ OnlyCircuit s { u with ports := s.ports } c
    ∧ match k.entry.paths.get p, (s.port p).link with
      | none, _ => u.port p = s.port p ∧ (u.circuit c).counters.get (CircuitCounter.notSent p).place = notSent
      | some _, .down => u.port p = s.port p
          ∧ (u.circuit c).counters.get (CircuitCounter.notSent p).place = countUp notSent
      | some record, .up => (u.circuit c).counters.get (CircuitCounter.notSent p).place = notSent
          ∧ (if (s.port p).circuitQueue.length < 64 then
              u.port p = { s.port p with circuitQueue := (s.port p).circuitQueue ++
                [⟨c, record, k.packetizer.nextSeq, a.ts, k.entry.frames, a.faulted, k.control.state != .playing, a.octets⟩] }
            else (u.port p).circuitQueue = (s.port p).circuitQueue
              ∧ (u.port p).counters.get PortCounter.txDrops.place = countUp dropped
              ∧ u.flag (.port p .txDrop) = s.flagAfter (.port p .txDrop) (.circuit c))

/-- R79 to R81: a port that is UP and sends no frame takes the oldest copy of its circuit queue: the frame is on the line, sent
counts one, and the departure capture is LT_sent in the send log entry of a marked packet's stamp. That the frame
being sent is held is the model's own form (log 18). -/
def Obligations.CopyDepartsFromTheQueueHead : Prop :=
  ∀ (p : Port) (x : Copy) (rest : List Copy) (s : State), (s.port p).link = .up → (s.port p).sending = none →
    (s.port p).circuitQueue = x :: rest →
    ∃ u, exec (.copyDeparture p) s = .next u
      ∧ u.port p = { s.port p with circuitQueue := rest, sending := some (copyFrame s p x) }
      ∧ u.port (otherPort p) = s.port (otherPort p) ∧ u.tributaries = s.tributaries
      ∧ SameRun s u ∧ u.events = s.events ∧ u.overflow = s.overflow
      ∧ (∀ d, d ≠ x.circuit → u.circuit d = s.circuit d)
      ∧ (u.circuit x.circuit).counters.get (CircuitCounter.sent p).place
          = countUp ((s.circuit x.circuit).counters.get (CircuitCounter.sent p).place)
      ∧ u.circuit x.circuit = { s.circuit x.circuit with
          counters := (u.circuit x.circuit).counters
          packetizer := { (s.circuit x.circuit).packetizer with sendLog :=
            if x.seq.toNat % 64 = 0 then (s.circuit x.circuit).packetizer.sendLog.map (fun e =>
              if e.ts = x.ts then { e with sent := e.sent.set p (some s.lt) } else e)
            else (s.circuit x.circuit).packetizer.sendLog } }

/-- R186 to R189: the frame a copy departs as, read by a receive classifier that has the copy's destination as its address and
the sender's frame type value, is a DATA frame whose fields are the copy's, on the sender's path, well formed for F and the
payload's size, with the echo fields of R80. -/
def Obligations.CircuitPacketReadsBack : Prop :=
  ∀ (s : State) (p : Port) (x : Copy), x.record.outLabel < 65536 → x.frames < 256 → x.payload.length < 65536 →
    (∀ g, x.record.tag = some g → g.priority ≤ 7 ∧ g.networkTag < 4096) → (s.port p).entry.frameType ≠ 0x8100 →
    ∃ h, classify x.record.destination (s.port p).entry.frameType (copyFrame s p x) = .data h
      ∧ labelOf h = x.record.outLabel ∧ 60 ≤ (copyFrame s p x).length
      ∧ (readPacket h).l = x.l ∧ (readPacket h).r = x.r ∧ (readPacket h).path = p
      ∧ (readPacket h).frames = x.frames ∧ (readPacket h).seq = x.seq ∧ (readPacket h).ts = x.ts
      ∧ (readPacket h).payloadLength = x.payload.length ∧ (readPacket h).rest.take x.payload.length = x.payload
      ∧ (readPacket h).wellFormed x.frames x.payload.length p = true
      ∧ (match echoFields ((s.circuit x.circuit).merge.up.get p) ((s.circuit x.circuit).delay.get p) s.lt with
        | some e => (readPacket h).echoed = true ∧ (readPacket h).echoTs = e.1 ∧ (readPacket h).echoAge = e.2
        | none => (readPacket h).echoed = false ∧ (readPacket h).echoTs = 0 ∧ (readPacket h).echoAge = 0)

/-- R79: a port that is UP, sends no frame and has no copy waiting takes the oldest response; the last octet of the frame being
sent leaves the port ready for the next. -/
def Obligations.ResponseDepartsAndSendingEnds : Prop :=
  ∀ (p : Port) (s : State),
    (∀ x rest, (s.port p).link = .up → (s.port p).sending = none → (s.port p).circuitQueue = [] →
      (s.port p).responseQueue = x :: rest →
      ∃ u, exec (.responseDeparture p) s = .next u ∧ OnlyPort s u p ∧ u.events = s.events ∧ u.overflow = s.overflow
        ∧ u.port p = { s.port p with responseQueue := rest, sending := some (responseFrame s p x) }
        ∧ (responseFrame s p x).take 12 = octets 6 x.destination.toNat ++ octets 6 (s.port p).entry.address.toNat)
    ∧ ∃ u, exec (.lastOctetSent p) s = .next u ∧ OnlyPort s u p ∧ u.events = s.events ∧ u.overflow = s.overflow
        ∧ u.port p = { s.port p with sending := none }

/-! ### The transmit side of the tributary lines -/

/-- R11 to R14: a transmit frame start that is due alternates the parity and assembles the frame: slot 0 and idle octets where
no engaged circuit has the slot, all ones for a circuit that does not play, and for one in PLAYING or STARVED the octets its
playout supplies, in its timeslots in ascending order, its blocks as that playout leaves them; on an UNFRAMED tributary the one
engaged circuit fills the frame; all ones for the whole frame when OFF. R116, R129, R158: a playout reads its RT at the bit edge
on which the frame start falls, reckoned back from the taking by what RT has advanced since, at the rates of the latest tick of LT
and not at a FREQ made since (R145); a circuit whose RT advances as the source does so reads RT less the time of the next bit
itself, and its lead does not drift. R149: a change of source, or of its rate, is made at that edge, and
leaving LOOP after 4 ticks or more ends the bit in progress (log 7). That both quotients are rounded down to a fine tick is the
model's reading (log 32); that bits sent beyond 256 before a due frame start is taken count into the frame it begins is its
choice (log 26). -/
def Obligations.TransmitFrameIsAssembled : Prop :=
  ∀ (t : Fin 16) (s : State), 256 ≤ (s.tributary t).transmit.bits →
    let idle := (s.tributary t).entry.idle
    let silent (c : Fin 64) : Prop := (s.circuit c).control.state = .awaiting ∨ (s.circuit c).control.state = .acquiring
    let plays (c : Fin 64) : Prop := (s.circuit c).control.state = .playing ∨ (s.circuit c).control.state = .starved
    let rate (v : State) : Nat := ((2 ^ 27 : Int) + match (v.tributary t).clocking.actual with
      | .free | .loop => 0
      | .adaptive => (v.circuit (v.tributary t).clocking.timing).recovery.tickFreq
      | .holdover => (v.tributary t).clocking.holdover).toNat
    let rt (c : Fin 64) : Ticks :=
      ((s.circuit c).recovery.rt.getD 0 - BitVec.ofNat 59 ((s.tributary t).transmit.bitTime
        * (2 ^ 27 + (s.circuit c).recovery.tickFreq).toNat / (s.tributary t).transmit.tickRate)).extractLsb' 27 32
    let played (c : Fin 64) : State × List Byte := s.playFrame c idle (rt c)
    (∀ c, s.rtAtFrameStart t c = rt c)
    ∧ (∀ c, (s.tributary t).transmit.tickRate = 2 ^ 27 + (s.circuit c).recovery.tickFreq →
      -2 ^ 27 < (s.circuit c).recovery.tickFreq →
      rt c = ((s.circuit c).recovery.rt.getD 0 - BitVec.ofNat 59 (s.tributary t).transmit.bitTime).extractLsb' 27 32)
    ∧ ∃ u, exec (.transmitFrameStart t) s = .next u
      ∧ (let x := (s.tributary t).transmit
         let y := (u.tributary t).transmit
         y.begun = true ∧ y.parity = (if x.begun = true ∧ x.parity = .even then .odd else .even)
          ∧ (if (s.tributary t).clocking.actual = .loop ∧ (u.tributary t).clocking.actual ≠ .loop ∧ 2 ^ 29 ≤ x.bitTime then
              y.bits = x.bits - 256 + 1 ∧ y.bitTime = 0
            else y.bits = x.bits - 256
              ∧ y.bitTime = if rate u = rate s then x.bitTime else x.bitTime * rate u / x.tickRate)
          ∧ y.tickRate = (if rate u = rate s then x.tickRate else rate u)
          ∧ y.frame.length = 32)
      ∧ (let frame := (u.tributary t).transmit.frame
         match (s.tributary t).entry.framing with
         | .off => frame = List.replicate 32 255
         | .unframed =>
            ((∀ c, (s.circuit c).engaged = true → (s.circuit c).names t = false) → frame = List.replicate 32 idle)
            ∧ ∀ c, (s.circuit c).names t = true →
              (∀ d, d ≠ c → (s.circuit d).engaged = true → (s.circuit d).names t = false) →
              (silent c → frame = List.replicate 32 255)
              ∧ (plays c → (played c).2.length = 32 → frame = (played c).2)
         | .framed =>
            (∀ k, k < 32 →
              (∀ c, (s.circuit c).engaged = true → (s.circuit c).names t = true →
                (s.circuit c).entry.slotSet.getLsbD k = false) →
              frame[k]? = some (if k = 0 then
                match (u.tributary t).transmit.parity, (s.tributary t).line.alignment with
                | .even, _ => 0b10011011#8
                | .odd, .aligned => 0b11011111#8
                | .odd, _ => 0b11111111#8
              else idle))
            ∧ ∀ c k, k < 32 → (s.circuit c).names t = true → (s.circuit c).entry.slotSet.getLsbD k = true →
              (∀ d, d ≠ c → (s.circuit d).engaged = true → (s.circuit d).names t = true →
                (s.circuit d).entry.slotSet.getLsbD k = false) →
              (silent c → frame[k]? = some 255)
              ∧ (plays c → ∀ (i : Nat) (b : Byte), (slotsOf (s.circuit c).entry.slotSet)[i]? = some k →
                  (played c).2[i]? = some b → frame[k]? = some b))
      ∧ (∀ c, plays c → (s.circuit c).names t = true → u.circuit c = (played c).1.circuit c)
      ∧ (∀ c, ¬plays c → u.circuit c = s.circuit c)
      ∧ (∀ v, v ≠ t → u.tributary v = s.tributary v) ∧ (u.tributary t).entry = (s.tributary t).entry
      ∧ (u.tributary t).line = (s.tributary t).line ∧ u.ports = s.ports ∧ SameRun s u
      ∧ (∀ c, (u.circuit c).entry = (s.circuit c).entry ∧ (u.circuit c).control = (s.circuit c).control
          ∧ (u.circuit c).recovery = (s.circuit c).recovery ∧ (u.circuit c).merge = (s.circuit c).merge)
      ∧ (∀ c, (s.circuit c).names t = false → u.circuit c = s.circuit c)

/-- R151, R152: a transmit frame start applies the table to the clocking block and judges the actual mode by the mode in force,
with CLOCK_MODE_CHANGE at a change; a refresh recomputes H from the timing circuit's history mean. That an old actual mode
ADAPTIVE whose timing circuit does not play or does not name the tributary, a case the law of clock modes excludes and R152 gives
no outcome, is judged FREE is the model's own (log 25). -/
def Obligations.ClockModeIsJudgedAtFrameStart : Prop :=
  ∀ (t : Fin 16) (s : State), 256 ≤ (s.tributary t).transmit.bits →
    let e := (s.tributary t).entry
    let old := (s.tributary t).clocking
    let k := s.circuit e.timing
    ∃ u, exec (.transmitFrameStart t) s = .next u
      ∧ (let now := (u.tributary t).clocking
         now.inForce = e.clockMode ∧ now.timing = e.timing ∧ now.pendingWrite = none
         ∧ (match meanTowardZero k.recovery.history with
            | some h =>
              if old.pendingWrite = some true ∧ k.names t = true then now.holdover = h ∧ now.valid = true
              else now.holdover = old.holdover ∧ now.valid = old.valid
            | none => now.holdover = old.holdover ∧ now.valid = old.valid)
         ∧ now.actual = (match e.clockMode with
            | .free => .free
            | .holdover => if now.valid = true then .holdover else .free
            | .loop => if (s.tributary t).line.signal = .present then .loop else .free
            | .adaptive =>
              if k.names t = true ∧ k.control.state = .playing ∧ (k.recovery.locked = true ∨ old.actual = .adaptive) then
                .adaptive
              else if old.actual = .holdover then .holdover else .free)
         ∧ u.flag (.tributary t .clockModeChange) =
            if now.actual = old.actual then s.flag (.tributary t .clockModeChange)
            else s.flagAfter (.tributary t .clockModeChange) (.clockMode now.actual))

/-! ### Playout -/

/-- R121, R122: when the lead of the frame at the play pointer lies in -512 to +511, the frame is delivered, from the held entry
or as the substitute the entry chooses; it becomes the last delivered frame, the start mark is YES and the pointer advances. RT
is the one the frame start reads (TransmitFrameIsAssembled). -/
def Obligations.DueFrameIsDelivered : Prop :=
  ∀ (s : State) (c : Fin 64) (idle : Byte) (x : Pointer) (rt : Ticks),
    let k := s.circuit c
    let n := s.width c
    let lead := signed32 rt (x.ts + BitVec.ofNat 32 ((x.frame + k.entry.playoutDelay) * 1024))
    let ones : List Byte := List.replicate n 255
    k.buffer.pointer = some x → -512 ≤ lead → lead ≤ 511 →
    ∃ u o, s.playFrame c idle rt = (u, o) ∧ OnlyCircuit s u c ∧ PointerAdvanced k (u.circuit c) x
      ∧ (u.circuit c).buffer.lastFrame = some o ∧ (u.circuit c).buffer.startMark = true
      ∧ (u.circuit c).buffer.lastLead = some lead ∧ (u.circuit c).control = k.control
      ∧ (u.circuit c).recovery = k.recovery ∧ (u.circuit c).flags = k.flags
      ∧ match k.buffer.slot k.entry.depth x.seq with
        | some e => o = (e.payload.drop (x.frame * n)).take n ∧ (u.circuit c).buffer.substitutionRun = 0
            ∧ (u.circuit c).counters.get CircuitCounter.substitutedFrames.place
                = k.counters.get CircuitCounter.substitutedFrames.place
        | none => (o = match k.entry.substitution with
              | .allOnes => ones
              | .idle => List.replicate n idle
              | .repeatLast => if k.buffer.substitutionRun < 8 then k.buffer.lastFrame.getD ones else ones)
            ∧ (u.circuit c).buffer.substitutionRun = min 255 (k.buffer.substitutionRun + 1)
            ∧ (u.circuit c).counters.get CircuitCounter.substitutedFrames.place
                = countUp (k.counters.get CircuitCounter.substitutedFrames.place)

/-- R119, R120: a frame with a lead below -512 is not yet due: the last delivered frame is repeated and the pointer stays, a
repeat slip when the start mark is YES. A lead of 512 or more skips frames, each lowering it by 1024 and each a delete slip,
with SLIP of that kind, when the circuit is in PLAYING with the start mark YES and the sequence held, until it lies in -512 to
+511; the frame then at the pointer is delivered. RT is the one the frame start reads, the same for every
skip. -/
def Obligations.EarlyFramesRepeatAndLateFramesSkip : Prop :=
  ∀ (s : State) (c : Fin 64) (idle : Byte) (x : Pointer) (rt : Ticks),
    let k := s.circuit c
    let lead := leadOf rt x k.entry.playoutDelay
    k.buffer.pointer = some x →
    (lead < -512 →
      ∃ u, s.playFrame c idle rt = (u, k.buffer.lastFrame.getD (List.replicate (s.width c) 255)) ∧ OnlyCircuit s u c
        ∧ (u.circuit c).buffer = { k.buffer with lastLead := some lead }
        ∧ (u.circuit c).counters.get CircuitCounter.repeatSlips.place
            = (if k.buffer.startMark then countUp (k.counters.get CircuitCounter.repeatSlips.place)
              else k.counters.get CircuitCounter.repeatSlips.place)
        ∧ u.flag (.circuit c .slip) = if k.buffer.startMark then s.flagAfter (.circuit c .slip) (.slip .repeated)
            else s.flag (.circuit c .slip))
    ∧ (512 ≤ lead → x.frame < k.entry.frames →
      ∃ y, ((State.skipFrames c (skipsNeeded lead) s).circuit c).buffer.pointer = some y
        ∧ leadOf rt y k.entry.playoutDelay = lead - 1024 * skipsNeeded lead
        ∧ -512 ≤ lead - 1024 * skipsNeeded lead ∧ lead - 1024 * skipsNeeded lead ≤ 511
        ∧ s.playFrame c idle rt = (State.skipFrames c (skipsNeeded lead) s).playFrame c idle rt
        ∧ ((s.playFrame c idle rt).1.circuit c).buffer.lastFrame = some (s.playFrame c idle rt).2
        ∧ ((s.playFrame c idle rt).1.circuit c).buffer.lastLead = some (lead - 1024 * skipsNeeded lead))
    ∧ (PointerAdvanced k ((s.skipFrame c).circuit c) x ∧ OnlyCircuit s (s.skipFrame c) c
      ∧ ((s.skipFrame c).circuit c).counters.get CircuitCounter.deleteSlips.place
          = (if k.control.state = .playing ∧ k.buffer.startMark = true ∧ (k.buffer.slot k.entry.depth x.seq).isSome then
              countUp (k.counters.get CircuitCounter.deleteSlips.place)
            else k.counters.get CircuitCounter.deleteSlips.place)
      ∧ (s.skipFrame c).flag (.circuit c .slip)
          = if k.control.state = .playing ∧ k.buffer.startMark = true ∧ (k.buffer.slot k.entry.depth x.seq).isSome then
              s.flagAfter (.circuit c .slip) (.slip .delete)
            else s.flag (.circuit c .slip))

/-! ### Links and arrivals -/

/-- R82, R86, R93: a link that comes UP changes nothing but the link state and LINK_CHANGE; one that goes DOWN empties the
port's queues, counting each copy not sent, and takes DOWN the path on the port of every engaged circuit, with its timer
stopped and its change flag; the active path and the restore hold-off follow with PATH_SWITCH (R95 to R97), and the forced path,
the other path, its timer and the skew samples stay. That the frame being sent and the accepted management frames stay is the
model's choice (log 10, log 18). -/
def Obligations.LinkReportsChangeTheLink : Prop :=
  ∀ (p : Port) (s : State),
    ((s.port p).link = .down →
      ∃ u, exec (.linkUp p) s = .next u ∧ OnlyPort s u p
        ∧ u.port p = { s.port p with link := .up, flags := (u.port p).flags }
        ∧ u.flag (.port p .linkChange) = s.flagAfter (.port p .linkChange) (.upDown .up))
    ∧ ((s.port p).link = .up →
      ∃ u, exec (.linkDown p) s = .next u
        ∧ u.port p = { s.port p with link := .down, circuitQueue := [], responseQueue := [], flags := (u.port p).flags }
        ∧ u.port (otherPort p) = s.port (otherPort p) ∧ u.tributaries = s.tributaries ∧ SameRun s u
        ∧ u.flag (.port p .linkChange) = s.flagAfter (.port p .linkChange) (.upDown .down)
        ∧ ∀ c, (u.circuit c).entry = (s.circuit c).entry ∧ (u.circuit c).control = (s.circuit c).control
            ∧ (u.circuit c).packetizer = (s.circuit c).packetizer ∧ (u.circuit c).buffer = (s.circuit c).buffer
            ∧ (u.circuit c).recovery = (s.circuit c).recovery ∧ (u.circuit c).delay = (s.circuit c).delay
            ∧ (u.circuit c).merge.up.get (otherPort p) = (s.circuit c).merge.up.get (otherPort p)
            ∧ ((s.circuit c).counters.get (CircuitCounter.notSent p).place ≤ 4294967295 →
                (u.circuit c).counters.get (CircuitCounter.notSent p).place
                  = min 4294967295 ((s.circuit c).counters.get (CircuitCounter.notSent p).place
                      + ((s.port p).circuitQueue.filter (fun x => x.circuit == c)).length))
            ∧ ((s.circuit c).engaged = true → (s.circuit c).merge.up.get p = .up → PathLost s u c p)
            ∧ ((s.circuit c).engaged = false ∨ (s.circuit c).merge.up.get p = .down →
                (u.circuit c).merge = (s.circuit c).merge ∧ (u.circuit c).flags = (s.circuit c).flags))

/-- R87 to R89, R91: every delivered frame is counted; a frame that fails a receive check, names no engaged circuit, is
malformed for its circuit or is a management frame goes to its one count or queue, and nothing else changes; a well-formed
arrival counts received and is taken by its circuit in three stages: path supervision, fault flags and echo, and then by state,
anchoring in AWAITING and the stamp check in ACQUIRING, PLAYING and STARVED. The values in force at the capture and the list of
accepted frames are the model's own form (logs 8, 10); that management accept is read at the taking is its reading (log 9), and
so is that the timers of the taking start from LT then (log 22). -/
def Obligations.FrameArrivalsAreAccountedFor : Prop :=
  ∀ (p : Port) (age : Ticks) (o : List Byte) (s : State), (s.port p).link = .up →
    let v := (s.port p).valuesAt (s.lt - age)
    let counted := s.countPort p .framesReceived
    (classify v.1 v.2 o = .bad → exec (.frameArrival p age o) s = .next (counted.countPort p .badFrames))
    ∧ (∀ h, classify v.1 v.2 o = .data h →
        ((∀ c, (s.circuit c).engaged = true → (s.circuit c).entry.inLabel ≠ 0 → (s.circuit c).entry.inLabel ≠ labelOf h) →
          exec (.frameArrival p age o) s = .next (counted.countPort p .unknownLabel))
        ∧ ∀ c, s.circuitOfLabel (labelOf h) = some c →
          (((readPacket h).frames ≠ (s.circuit c).entry.frames ∨ (readPacket h).path ≠ p
              ∨ (readPacket h).payloadLength ≠ (s.circuit c).entry.frames * s.width c
              ∨ (readPacket h).rest.length < (s.circuit c).entry.frames * s.width c) →
            exec (.frameArrival p age o) s = .next (counted.count c .malformed))
          ∧ ((readPacket h).wellFormed (s.circuit c).entry.frames ((s.circuit c).entry.frames * s.width c) p = true →
            let k := s.circuit c
            let x := readPacket h
            let arrival : Candidate := ⟨x.seq, x.ts, x.l, x.r, x.rest.take (k.entry.frames * s.width c), p, s.lt - age⟩
            let heard := ((counted.count c (.received p)).pathAlive c p).faultAndEcho c p x (s.lt - age)
            ∃ u, exec (.frameArrival p age o) s = .next u ∧ OnlyCircuit counted u c
              ∧ (u.circuit c).counters.get (CircuitCounter.received p).place
                  = countUp (k.counters.get (CircuitCounter.received p).place)
              ∧ (k.control.state = .awaiting →
                  u = if (heard.circuit c).samples p = true then heard.anchor c arrival else heard)
              ∧ ((k.control.state = .acquiring ∨ k.control.state = .playing ∨ k.control.state = .starved) →
                  u = heard.takeChecked c arrival)))
    ∧ ∀ source h, classify v.1 v.2 o = .management source h →
        exec (.frameArrival p age o) s = .next (
          if labelOf h ≠ 0 then counted.countPort p .badFrames
          else if (s.port p).entry.accept then
            (counted.countPort p .managementFrames).onPort p (fun k => { k with waiting := (s.port p).waiting ++
              [⟨source, BitVec.ofNat 16 (numberAt h 4 2), numberAt h 6 1, h.drop 7⟩] })
          else counted.countPort p .managementDiscarded)

/-- R60, R61: a well-formed arrival in AWAITING counts received and brings its path UP with a fresh timer, under PREFER with the
active path of R95; if its path is then a sampling path it anchors the circuit: ACQUIRING, with all that anchoring sets; if not,
it is neither stored nor sampled. Other circuits and the tributaries are as before. That the timers start from LT at the taking
is the model's reading (log 22). -/
def Obligations.FirstArrivalAnchorsTheCircuit : Prop :=
  ∀ (p : Port) (age : Ticks) (o h : List Byte) (c : Fin 64) (s : State),
    let v := (s.port p).valuesAt (s.lt - age)
    let k := s.circuit c
    let size := k.entry.frames * s.width c
    let x := readPacket h
    let up := k.merge.up.set p .up
    let active := if k.merge.up.get p = .up ∨ k.entry.policy = .merge then k.merge.active else freshActive k.entry.policy up
    let sampling := k.merge.forced = some p
      ∨ k.merge.forced = none ∧ (k.entry.policy = .merge ∨ active = some p)
    (s.port p).link = .up → classify v.1 v.2 o = .data h → s.circuitOfLabel (labelOf h) = some c →
    x.wellFormed k.entry.frames size p = true → k.control.state = .awaiting →
    ∃ u, exec (.frameArrival p age o) s = .next u
      ∧ (u.circuit c).merge.up = up
      ∧ (u.circuit c).merge.timers
          = k.merge.timers.set p (some (s.lt + BitVec.ofNat 32 (k.entry.pathTimeout * k.entry.frames * 1024)))
      ∧ (u.circuit c).counters.get (CircuitCounter.received p).place
          = countUp (k.counters.get (CircuitCounter.received p).place)
      ∧ (sampling → Anchored s u c ⟨x.seq, x.ts, x.l, x.r, x.rest.take size, p, s.lt - age⟩
          ∧ (u.circuit c).merge.active = freshActive k.entry.policy up
          ∧ u.flag (.circuit c .stateChanged) = s.flagAfter (.circuit c .stateChanged) (.circuitState .acquiring))
      ∧ (¬sampling → (u.circuit c).control = k.control ∧ (u.circuit c).buffer = k.buffer
          ∧ (u.circuit c).recovery = k.recovery ∧ (u.circuit c).packetizer = k.packetizer
          ∧ (u.circuit c).merge.active = active
          ∧ u.flag (.circuit c .stateChanged) = s.flag (.circuit c .stateChanged)
          ∧ (u.circuit c).counters.get CircuitCounter.firstCopies.place
              = k.counters.get CircuitCounter.firstCopies.place)
      ∧ (u.circuit c).entry = k.entry ∧ (∀ d, d ≠ c → u.circuit d = s.circuit d) ∧ u.tributaries = s.tributaries
      ∧ u.port (otherPort p) = s.port (otherPort p) ∧ SameRun s u
      ∧ u.port p = { s.port p with counters := bump (s.port p).counters PortCounter.framesReceived.place }

/-- R67, R98 to R103, R110 to R112: an arrival that fits its stamp in ACQUIRING, PLAYING or STARVED. One that a forced path
excludes does nothing. Every other is classed by its sequence and counted once: a first copy is stored at its slot; a duplicate
records its capture where it is absent, at its slot or in its PLAYED record, and may give a skew sample; a late arrival and an
overrun store nothing, a MISSED record taking the sampled mark. On a sampling path it ends the mismatch run and gives a sample
unless its sequence has given one. In ACQUIRING an arrival a depth or more ahead first slides the window. In PLAYING under REALIGN
the sixteenth late sample in a row anchors the circuit. (The first sample in STARVED is FirstSampleInStarvedDecides.) That the
starvation timer starts from LT at the taking is the model's reading (log 22). -/
def Obligations.FittingArrivalIsClassed : Prop :=
  ∀ (s : State) (c : Fin 64) (x : Candidate) (y : Pointer) (rt : FineTicks),
    let k := s.circuit c
    let b := k.buffer
    let depth := k.entry.depth
    let d := signed16 x.seq y.seq
    let u := s.takeChecked c x
    let sampling := k.samples x.path
    (k.control.state = .acquiring ∨ k.control.state = .playing ∨ k.control.state = .starved) →
    b.pointer = some y → k.recovery.rt = some rt → 0 < depth →
    x.ts = y.ts + BitVec.ofInt 32 (d * k.entry.frames * 1024) →
    OnlyCircuit s u c
    ∧ (k.merge.forced = some (otherPort x.path) → u = s)
    ∧ (k.merge.forced ≠ some (otherPort x.path) →
      let taken (n : CircuitCounter) (slots : Vector (Option HeldEntry) 128) (history : List HistoryRecord) (sampled : Bool)
          (skew : Option Int) : Prop :=
        ¬(k.control.state = .starved ∧ sampled = true) → u = s.classed c x rt n slots history sampled skew
      let late (history : List HistoryRecord) (sampled : Bool) : Prop :=
        if k.control.state = .playing ∧ k.entry.latePolicy = .realign ∧ sampled = true ∧ 15 ≤ k.control.lateRun then
          Anchored s u c x
          ∧ (u.circuit c).counters.get CircuitCounter.late.place = countUp (k.counters.get CircuitCounter.late.place)
          ∧ u.flag (.circuit c .stateChanged) = s.flagAfter (.circuit c .stateChanged) (.circuitState .acquiring)
          ∧ u.flag (.circuit c .lockLost) = (if k.recovery.locked then s.flagAfter (.circuit c .lockLost) .none
              else s.flag (.circuit c .lockLost))
          ∧ u.flag (.circuit c .farEndRestart) = s.flag (.circuit c .farEndRestart) ∧ TimingLeft s u c
        else taken .late b.slots history sampled none
      (0 ≤ d → d < depth → b.slot depth x.seq = none → (d ≠ 0 ∨ y.frame = 0) →
        taken .firstCopies (b.withSlot depth x.seq (some (x.entry sampling))).slots b.history sampling none)
      ∧ (∀ e, 0 ≤ d → d < depth → b.slot depth x.seq = some e →
        taken .duplicates (b.withSlot depth x.seq (some { e with
            arrival := arrivalKept e.arrival x.path x.capture, sampled := e.sampled || sampling })).slots
          b.history (sampling && !e.sampled) (skewGiven e.arrival x.path x.capture))
      ∧ (d = 0 → 0 < y.frame → b.slot depth x.seq = none → late b.history sampling)
      ∧ (d < 0 → b.recordOf x.seq = none → late b.history sampling)
      ∧ (∀ h, d < 0 → b.recordOf x.seq = some h →
        let sampled := sampling && !h.sampled
        (h.outcome = .missed → late (b.history.map (fun r =>
          if r.seq = x.seq then { r with sampled := r.sampled || sampled } else r)) sampled)
        ∧ (h.outcome = .played → taken .duplicates b.slots (b.history.map (fun r =>
            if r.seq = x.seq then { r with
              arrival := arrivalKept r.arrival x.path x.capture, sampled := r.sampled || sampled } else r))
            sampled (skewGiven h.arrival x.path x.capture)))
      ∧ (depth ≤ d → k.control.state ≠ .acquiring → taken .overrun b.slots b.history sampling none)
      ∧ (depth ≤ d → k.control.state = .acquiring →
        let seq := x.seq - BitVec.ofNat 16 (depth - 1)
        u = (s.onCircuit c (fun k => { k with buffer := { k.buffer with
            pointer := some ⟨seq, y.frame, y.ts + BitVec.ofInt 32 ((d - depth + 1) * k.entry.frames * 1024)⟩
            slots := k.buffer.slots.map (fun v => v.filter (fun e => decide (0 ≤ signed16 e.seq seq))) } })).takeChecked c x))

/-- R66, R99: an arrival whose stamp is not the expected one is counted and discarded; on a sampling path it adds to the run,
and the third in a row, or the first in STARVED, anchors the circuit on itself with FAR_END_RESTART. R60, R153: the anchoring
sets STATE_CHANGED when the state was another and LOCK_LOST when the lock was held, and out of PLAYING the tributary the circuit
times leaves ADAPTIVE. That the starvation timer of the anchoring starts from LT at the taking is the model's reading (log
22). -/
def Obligations.StampMismatchesReanchor : Prop :=
  ∀ (s : State) (c : Fin 64) (x : Candidate) (y : Pointer),
    let k := s.circuit c
    let u := s.takeChecked c x
    k.buffer.pointer = some y → x.ts ≠ y.ts + BitVec.ofInt 32 (signed16 x.seq y.seq * k.entry.frames * 1024) →
    (u.circuit c).counters.get CircuitCounter.stampMismatch.place
        = countUp (k.counters.get CircuitCounter.stampMismatch.place)
    ∧ OnlyCircuit s u c
    ∧ (k.samples x.path = false → u = s.count c .stampMismatch)
    ∧ (k.samples x.path = true → k.control.state ≠ .starved → k.control.mismatchRun < 2 →
        u = (s.count c .stampMismatch).onCircuit c (fun k => { k with control := { k.control with
          mismatchRun := k.control.mismatchRun + 1 } }))
    ∧ (k.samples x.path = true → (k.control.state = .starved ∨ 2 ≤ k.control.mismatchRun) →
        Anchored s u c x
        ∧ u.flag (.circuit c .farEndRestart) = s.flagAfter (.circuit c .farEndRestart) (.path x.path)
        ∧ u.flag (.circuit c .stateChanged) = (if k.control.state = .acquiring then s.flag (.circuit c .stateChanged)
            else s.flagAfter (.circuit c .stateChanged) (.circuitState .acquiring))
        ∧ u.flag (.circuit c .lockLost) = (if k.recovery.locked then s.flagAfter (.circuit c .lockLost) .none
            else s.flag (.circuit c .lockLost))
        ∧ (k.control.state = .playing → TimingLeft s u c)
        ∧ (k.control.state ≠ .playing → u.tributaries = s.tributaries))

/-- R65: in STARVED, the first sample returns the circuit to PLAYING with its pointer, its held entries, FREQ and I kept when
its magnitude is within the re-entry tolerance, and anchors the circuit anew when it is not. The re-entering arrival is classed,
counted and stored or recorded as any other (R100, R101, R111), a duplicate may give a skew sample (R103), its sample is the first
of a new window, and the lock stays as it was, clear in STARVED (R141). That it does not act on the late run (log 17), that the
anchoring arrival is counted a first copy, once (log 17), and that the starvation timer starts from LT at the taking (log 22) are
the model's readings; that the anchoring arrival gives no skew sample is its choice (log 28). -/
def Obligations.FirstSampleInStarvedDecides : Prop :=
  ∀ (s : State) (c : Fin 64) (x : Candidate) (y : Pointer) (rt : FineTicks),
    let k := s.circuit c
    let u := s.takeChecked c x
    let v := u.circuit c
    let atCapture := rt - BitVec.ofInt 59 (signed32 s.lt x.capture * (2 ^ 27 + k.recovery.freq))
    let value := signed32 (atCapture.extractLsb' 27 32) x.ts
    k.control.state = .starved → k.buffer.pointer = some y → k.recovery.rt = some rt → k.recovery.window = none →
    2 ≤ k.entry.window → k.samples x.path = true → k.merge.forced ≠ some (otherPort x.path) →
    x.ts = y.ts + BitVec.ofInt 32 (signed16 x.seq y.seq * k.entry.frames * 1024) →
    (classOf k.buffer y k.entry.depth x.seq).unsampled = true →
    OnlyCircuit s u c
    ∧ (value.natAbs ≤ k.entry.reentryTolerance →
        v.control.state = .playing ∧ v.buffer.pointer = some y ∧ v.buffer.startMark = false
        ∧ v.recovery.window = some ⟨1, value, k.entry.window⟩ ∧ v.recovery.freq = k.recovery.freq
        ∧ v.recovery.integrator = k.recovery.integrator ∧ v.recovery.rt = some rt
        ∧ v.control.starvationTimer = some (s.lt + BitVec.ofNat 32 (k.entry.starvationTimeout * k.entry.frames * 1024))
        ∧ u.flag (.circuit c .stateChanged) = s.flagAfter (.circuit c .stateChanged) (.circuitState .playing)
        ∧ u.flag (.circuit c .delayStep) = s.flag (.circuit c .delayStep)
        ∧ (∀ q e, k.buffer.slot k.entry.depth q = some e → (v.buffer.slot k.entry.depth q).isSome)
        ∧ v.recovery = { k.recovery with window := some ⟨1, value, k.entry.window⟩ }
        ∧ (0 < k.entry.depth →
          let b := k.buffer
          let depth := k.entry.depth
          let d := signed16 x.seq y.seq
          let taken (n : CircuitCounter) (slots : Vector (Option HeldEntry) 128) (history : List HistoryRecord)
              (skew : Option Int) : Prop := u = s.reentered c value n slots history skew
          (0 ≤ d → d < depth → b.slot depth x.seq = none → (d ≠ 0 ∨ y.frame = 0) →
            taken .firstCopies (b.withSlot depth x.seq (some (x.entry true))).slots b.history none)
          ∧ (∀ e, 0 ≤ d → d < depth → b.slot depth x.seq = some e →
            taken .duplicates (b.withSlot depth x.seq (some { e with
                arrival := arrivalKept e.arrival x.path x.capture, sampled := true })).slots
              b.history (skewGiven e.arrival x.path x.capture))
          ∧ (d = 0 → 0 < y.frame → b.slot depth x.seq = none → taken .late b.slots b.history none)
          ∧ (d < 0 → b.recordOf x.seq = none → taken .late b.slots b.history none)
          ∧ (∀ h, d < 0 → b.recordOf x.seq = some h →
            (h.outcome = .missed → taken .late b.slots (b.history.map (fun r =>
              if r.seq = x.seq then { r with sampled := true } else r)) none)
            ∧ (h.outcome = .played → taken .duplicates b.slots (b.history.map (fun r =>
              if r.seq = x.seq then { r with
                arrival := arrivalKept r.arrival x.path x.capture, sampled := true } else r))
              (skewGiven h.arrival x.path x.capture)))
          ∧ (depth ≤ d → taken .overrun b.slots b.history none)))
    ∧ (k.entry.reentryTolerance < value.natAbs → Anchored s u c x
        ∧ u.flag (.circuit c .stateChanged) = s.flagAfter (.circuit c .stateChanged) (.circuitState .acquiring)
        ∧ u.flag (.circuit c .farEndRestart) = s.flag (.circuit c .farEndRestart)
        ∧ v.counters = bump k.counters CircuitCounter.firstCopies.place
        ∧ v.merge.skewSamples = k.merge.skewSamples ∧ u.flag (.circuit c .skewLimit) = s.flag (.circuit c .skewLimit)
        ∧ u.tributaries = s.tributaries)

/-- R62, R133, R134: a sample in ACQUIRING enters the window; the one that brings it to its length shifts recovered time by the
minimum and enters PLAYING with the start mark NO, DELAY_STEP being set only when the acquired mark was YES; FREQ, I and the
lock are not changed. That the starvation timer starts from LT at the taking is the model's reading (log 22). -/
def Obligations.WindowEndCompletesAcquisition : Prop :=
  ∀ (s : State) (c : Fin 64) (x : Int) (w : Window) (rt : FineTicks),
    let k := s.circuit c
    let u := s.takeSample c x
    let v := u.circuit c
    k.control.state = .acquiring → k.recovery.window = some w → k.recovery.rt = some rt →
    OnlyCircuit s u c ∧ v.recovery.freq = k.recovery.freq ∧ v.recovery.integrator = k.recovery.integrator
    ∧ v.recovery.locked = k.recovery.locked ∧ v.recovery.lastError = k.recovery.lastError
    ∧ v.recovery.history = k.recovery.history ∧ v.buffer.pointer = k.buffer.pointer ∧ v.buffer.slots = k.buffer.slots
    ∧ v.control.starvationTimer = some (s.lt + BitVec.ofNat 32 (k.entry.starvationTimeout * k.entry.frames * 1024))
    ∧ (w.count + 1 < w.length →
        v.control.state = .acquiring ∧ v.recovery.rt = some rt
        ∧ v.recovery.window = some ⟨w.count + 1, min w.minimum x, w.length⟩)
    ∧ (w.length ≤ w.count + 1 →
        v.control.state = .playing ∧ v.recovery.window = none ∧ v.buffer.startMark = false
        ∧ v.recovery.rt = some (rt + BitVec.ofInt 59 (-(min w.minimum x) * 2 ^ 27)) ∧ v.control.acquired = true
        ∧ u.flag (.circuit c .stateChanged) = s.flagAfter (.circuit c .stateChanged) (.circuitState .playing)
        ∧ u.flag (.circuit c .delayStep) = if k.control.acquired then s.flagAfter (.circuit c .delayStep) .none
            else s.flag (.circuit c .delayStep))

/-- R135 to R142: a window that ends in PLAYING updates I and then FREQ from the clamped error, records it, judges the lock with
its four-window and two-window rules and flags, appends FREQ to the history while LOCKED, and empties the window. R145: a frame
start taken after it reads the RT it reads taken before it. -/
def Obligations.WindowEndUpdatesTheLoop : Prop :=
  ∀ (s : State) (c : Fin 64) (x : Int) (w : Window),
    let k := s.circuit c
    let u := s.takeSample c x
    let r := k.recovery
    let v := (u.circuit c).recovery
    let e := max (-2047) (min 2047 (-(min w.minimum x)))
    let i := max (-32768) (min 32767 (r.integrator + e * 2 ^ k.entry.shiftA))
    let f := max (-32768) (min 32767 (i + e * 2 ^ k.entry.shiftB))
    k.control.state = .playing → r.window = some w →
    OnlyCircuit s u c ∧ v.rt = r.rt ∧ (u.circuit c).buffer = k.buffer
    ∧ (∀ t d, u.rtAtFrameStart t d = s.rtAtFrameStart t d)
    ∧ (w.count + 1 < w.length → v = { r with window := some ⟨w.count + 1, min w.minimum x, w.length⟩ })
    ∧ (w.length ≤ w.count + 1 →
        v.integrator = i ∧ v.freq = f ∧ v.lastError = some e ∧ v.window = none
        ∧ v.history = (if v.locked then pushBounded 8 r.history f else r.history)
        ∧ (r.locked = false →
            (if e.natAbs ≤ k.entry.lockThreshold then
              if r.towardLock < 3 then v.locked = false ∧ v.towardLock = r.towardLock + 1
              else v.locked = true ∧ v.towardLock = 0 ∧ v.towardLoss = 0
                ∧ u.flag (.circuit c .lockGained) = s.flagAfter (.circuit c .lockGained) .none
            else v.locked = false ∧ v.towardLock = 0)
            ∧ u.flag (.circuit c .lockLost) = s.flag (.circuit c .lockLost))
        ∧ (r.locked = true →
            (if k.entry.unlockThreshold < e.natAbs then
              if r.towardLoss < 1 then v.locked = true ∧ v.towardLoss = r.towardLoss + 1
              else v.locked = false ∧ v.towardLock = 0 ∧ v.towardLoss = 0
                ∧ u.flag (.circuit c .lockLost) = s.flagAfter (.circuit c .lockLost) .none
            else v.locked = true ∧ v.towardLoss = 0)
            ∧ u.flag (.circuit c .lockGained) = s.flag (.circuit c .lockGained)))

/-- R68, R163 to R165: a well-formed arrival with R sets REMOTE_FAULT and one with L sets LOCAL_FAULT_SEEN; a marked one becomes
its path's echo state unless its stamp is held already; its echo fields, when E is set and the echo TS is not the last one taken,
are taken, and give an RTT sample when the send log holds the stamp with the LT_sent of the path, the echo age is not 65535 and
the value is positive. R103, R104, R166, R167: a kept RTT sample enters its path's run, the sixteenth publishes the minimum and
compares it with the RTT limit; a skew sample joins the latest eight, whose mean is compared with the skew limit. -/
def Obligations.EchoesDelayAndSkewAreMeasured : Prop :=
  ∀ (s : State) (c : Fin 64),
    (∀ (p : Port) (x : Packet) (capture : Ticks),
      let k := s.circuit c
      let d := k.delay.get p
      let u := s.faultAndEcho c p x capture
      let v := (u.circuit c).delay.get p
      let fresh := x.echoed = true ∧ d.lastEcho ≠ some x.echoTs
      let sent := (k.packetizer.sendLog.find? (fun e => e.ts == x.echoTs)).bind (fun e => e.sent.get p)
      let value (lt : Ticks) : Int := (capture - lt - BitVec.ofNat 32 x.echoAge).toInt
      let kept (m : Nat) : Prop := fresh ∧ x.echoAge ≠ 65535 ∧ ∃ lt, sent = some lt ∧ 0 < value lt ∧ m = (value lt).toNat
      OnlyCircuit s u c
      ∧ u.circuit c = { k with delay := k.delay.set p v, flags := (u.circuit c).flags }
      ∧ u.flag (.circuit c .remoteFault) = (if x.r then s.flagAfter (.circuit c .remoteFault) (.path p)
          else s.flag (.circuit c .remoteFault))
      ∧ u.flag (.circuit c .localFaultSeen) = (if x.l then s.flagAfter (.circuit c .localFaultSeen) (.path p)
          else s.flag (.circuit c .localFaultSeen))
      ∧ (x.seq.toNat % 64 = 0 → (∀ e, d.echo = some e → e.ts ≠ x.ts) → v.echo = some ⟨x.ts, capture⟩)
      ∧ ((x.seq.toNat % 64 ≠ 0 ∨ ∃ e, d.echo = some e ∧ e.ts = x.ts) → v.echo = d.echo)
      ∧ (fresh → v.lastEcho = some x.echoTs) ∧ (¬fresh → v.lastEcho = d.lastEcho)
      ∧ ((∀ m, ¬kept m) → v.runCount = d.runCount ∧ v.runMin = d.runMin ∧ v.rtt = d.rtt
          ∧ u.flag (.circuit c .delayLimit) = s.flag (.circuit c .delayLimit))
      ∧ (∀ m, kept m → v = { ((s.keepRtt c p m).circuit c).delay.get p with echo := v.echo, lastEcho := v.lastEcho }
          ∧ u.flag (.circuit c .delayLimit) = (s.keepRtt c p m).flag (.circuit c .delayLimit)))
    ∧ (∀ (p : Port) (x : Nat),
      let d := (s.circuit c).delay.get p
      let least := match d.runMin with | none => x | some m => min m x
      let u := s.keepRtt c p x
      let v := (u.circuit c).delay.get p
      OnlyCircuit s u c ∧ v.echo = d.echo ∧ v.lastEcho = d.lastEcho
      ∧ (u.circuit c).delay.get (otherPort p) = (s.circuit c).delay.get (otherPort p)
      ∧ (d.runCount < 15 → v.runCount = d.runCount + 1 ∧ v.runMin = some least ∧ v.rtt = d.rtt
          ∧ u.flag (.circuit c .delayLimit) = s.flag (.circuit c .delayLimit))
      ∧ (15 ≤ d.runCount → v.runCount = 0 ∧ v.runMin = none ∧ v.rtt = some least
          ∧ u.flag (.circuit c .delayLimit) =
            if (s.circuit c).entry.rttLimit ≠ 0 ∧ (s.circuit c).entry.rttLimit * 1024 / 125 < least then
              s.flagAfter (.circuit c .delayLimit) (.path p)
            else s.flag (.circuit c .delayLimit)))
    ∧ ∀ x : Int,
      let u := s.skewSample c x
      let l := pushBounded 8 (s.circuit c).merge.skewSamples x
      (u.circuit c).merge = { (s.circuit c).merge with skewSamples := l } ∧ OnlyCircuit s u c
      ∧ u.flag (.circuit c .skewLimit) =
        if (s.circuit c).entry.skewLimit ≠ 0
            ∧ (s.circuit c).entry.skewLimit * 1024 / 125 < (l.sum.tdiv l.length).natAbs then
          s.flagAfter (.circuit c .skewLimit) .none
        else s.flag (.circuit c .skewLimit)

/-- R92, R95 to R97: a well-formed arrival on a path that is DOWN brings it UP with its change flag, and in either case restarts
its timer. Under PREFER the active path follows: at once in AWAITING and ACQUIRING; in PLAYING and STARVED a path that comes
UP when there is none becomes active, and the preferred path starts the restore hold-off (none of 0 s: it switches at once).
That the path timer starts from LT at the taking of the arrival is the model's reading (log 22). -/
def Obligations.ArrivalBringsItsPathUp : Prop :=
  ∀ (s : State) (c : Fin 64) (p : Port),
    let k := s.circuit c
    let u := s.pathAlive c p
    let v := (u.circuit c).merge
    let timed : Merge := { k.merge with
      up := k.merge.up.set p .up
      timers := k.merge.timers.set p (some (s.lt + BitVec.ofNat 32 (k.entry.pathTimeout * k.entry.frames * 1024))) }
    OnlyCircuit s u c ∧ (u.circuit c).control = k.control ∧ (u.circuit c).buffer = k.buffer
    ∧ (k.merge.up.get p = .up → v = timed
        ∧ u.flag (.circuit c (.pathChange p)) = s.flag (.circuit c (.pathChange p)))
    ∧ (k.merge.up.get p = .down →
        u.flag (.circuit c (.pathChange p)) = s.flagAfter (.circuit c (.pathChange p)) (.upDown .up)
        ∧ (k.entry.policy = .merge → v = timed)
        ∧ (∀ q, k.entry.policy.preferred = some q → (k.control.state = .awaiting ∨ k.control.state = .acquiring) →
            v = { timed with active := if timed.up.get q = .up then some q else some (otherPort q) })
        ∧ (∀ q, k.entry.policy.preferred = some q → (k.control.state = .playing ∨ k.control.state = .starved) →
            (k.merge.active = none → v = { timed with active := some p })
            ∧ (k.merge.active = some q → v = timed)
            ∧ (k.merge.active = some (otherPort q) → p = q →
                if k.entry.restoreHoldOff = 0 then
                  v = { timed with active := some q, holdOff := none }
                  ∧ u.flag (.circuit c .pathSwitch) = s.flagAfter (.circuit c .pathSwitch) (.path q)
                else v = { timed with
                    holdOff := some (s.lt + BitVec.ofNat 32 (k.entry.restoreHoldOff * 8192000)) })))

/-! ### Timer expiries -/

/-- R92, R95, R96: the path timer of a path that is UP, expired, takes the path DOWN with its change flag, and under PREFER the
active path passes to the other path when that is UP (with PATH_SWITCH in PLAYING and STARVED) and to none when it is not.
R59: the engage timer, expired, stops and sets ENGAGE_TIMEOUT, the circuit staying as it is. R97: the restore hold-off, expired,
makes the preferred path active with PATH_SWITCH. -/
def Obligations.PathEngageAndHoldOffTimersExpire : Prop :=
  (∀ (c : Fin 64) (p : Port) (s : State) (e : Ticks),
    let k := s.circuit c
    k.merge.timers.get p = some e → 0 ≤ signed32 s.lt e → k.merge.up.get p = .up →
    ∃ u, exec (.pathTimerExpiry c p) s = .next u ∧ OnlyCircuit s u c
      ∧ u.flag (.circuit c (.pathChange p)) = s.flagAfter (.circuit c (.pathChange p)) (.upDown .down)
      ∧ (u.circuit c).control = k.control ∧ (u.circuit c).buffer = k.buffer ∧ (u.circuit c).packetizer = k.packetizer
      ∧ (u.circuit c).recovery = k.recovery ∧ (u.circuit c).delay = k.delay ∧ u.tributaries = s.tributaries
      ∧ (let v := (u.circuit c).merge
         let down : Merge := { k.merge with up := k.merge.up.set p .down, timers := k.merge.timers.set p none }
         let other := otherPort p
         (k.entry.policy = .merge → v = down)
         ∧ (∀ q, k.entry.policy.preferred = some q → (k.control.state = .awaiting ∨ k.control.state = .acquiring) →
            v = { down with active := if k.merge.up.get other = .up then some other else none })
         ∧ (∀ q, k.entry.policy.preferred = some q → (k.control.state = .playing ∨ k.control.state = .starved) →
            (k.merge.active = some p → k.merge.up.get other = .up →
              v = { down with active := some other, holdOff := none }
              ∧ u.flag (.circuit c .pathSwitch) = s.flagAfter (.circuit c .pathSwitch) (.path other))
            ∧ (k.merge.active = some p → k.merge.up.get other = .down → v = { down with active := none })
            ∧ (k.merge.active ≠ some p → p = q → v = { down with holdOff := none })
            ∧ (k.merge.active ≠ some p → p ≠ q → v = down))))
  ∧ ∀ (c : Fin 64) (s : State) (e : Ticks), 0 ≤ signed32 s.lt e →
    ((s.circuit c).control.engageTimer = some e →
      ∃ u, exec (.engageTimerExpiry c) s = .next u ∧ OnlyCircuit s u c ∧ u.tributaries = s.tributaries
        ∧ u.circuit c = { s.circuit c with
            control := { (s.circuit c).control with engageTimer := none }, flags := (u.circuit c).flags }
        ∧ u.flag (.circuit c .engageTimeout) = s.flagAfter (.circuit c .engageTimeout) .none)
    ∧ (∀ q, (s.circuit c).merge.holdOff = some e → (s.circuit c).entry.policy.preferred = some q →
      ∃ u, exec (.restoreHoldOffExpiry c) s = .next u ∧ OnlyCircuit s u c ∧ u.tributaries = s.tributaries
        ∧ u.circuit c = { s.circuit c with
            merge := { (s.circuit c).merge with active := some q, holdOff := none }, flags := (u.circuit c).flags }
        ∧ u.flag (.circuit c .pathSwitch) = s.flagAfter (.circuit c .pathSwitch) (.path q))

/-- R63, R64, R144, R153: the starvation timer, expired: in ACQUIRING the circuit returns to AWAITING, its buffer flushed and its
anchor gone, and the active path is set afresh and any restore hold-off stopped (R95), the rest of path supervision as it was; in
PLAYING it goes to STARVED, playing on from what it holds, with FREQ and I at the history mean and the tributary it times leaving
ADAPTIVE, and a frame start taken after it reads the RT it reads taken before it (R129). -/
def Obligations.StarvationExpiryByState : Prop :=
  ∀ (c : Fin 64) (s : State) (e : Ticks), (s.circuit c).control.starvationTimer = some e → 0 ≤ signed32 s.lt e →
    let k := s.circuit c
    (k.control.state = .acquiring →
      ∃ u, exec (.starvationTimerExpiry c) s = .next u ∧ OnlyCircuit s u c ∧ u.tributaries = s.tributaries
        ∧ u.flag (.circuit c .stateChanged) = s.flagAfter (.circuit c .stateChanged) (.circuitState .awaiting)
        ∧ (let v := u.circuit c
           v.control = { k.control with
              state := .awaiting, mismatchRun := 0, lateRun := 0, starvationTimer := none
              engageTimer := some (s.lt + BitVec.ofNat 32 (k.entry.engageTimeout * 8192000)) }
           ∧ v.buffer = { k.buffer with
              pointer := none, slots := Vector.replicate 128 none, history := [], substitutionRun := 0
              startMark := false, lastLead := none }
           ∧ v.recovery = { k.recovery with rt := none, window := none }
           ∧ v.packetizer = k.packetizer ∧ v.delay = k.delay ∧ v.counters = k.counters
           ∧ v.merge = { k.merge with active := freshActive k.entry.policy k.merge.up, holdOff := none }))
    ∧ (k.control.state = .playing →
      ∃ u, exec (.starvationTimerExpiry c) s = .next u ∧ OnlyCircuit s u c ∧ TimingLeft s u c
        ∧ (∀ t d, u.rtAtFrameStart t d = s.rtAtFrameStart t d)
        ∧ u.flag (.circuit c .stateChanged) = s.flagAfter (.circuit c .stateChanged) (.circuitState .starved)
        ∧ u.flag (.circuit c .lockLost) = (if k.recovery.locked then s.flagAfter (.circuit c .lockLost) .none
            else s.flag (.circuit c .lockLost))
        ∧ (let v := u.circuit c
           v.control = { k.control with state := .starved, mismatchRun := 0, lateRun := 0, starvationTimer := none }
           ∧ v.buffer = k.buffer ∧ v.packetizer = k.packetizer ∧ v.merge = k.merge ∧ v.delay = k.delay
           ∧ v.counters = k.counters
           ∧ v.recovery = { k.recovery with
              locked := false, towardLock := 0, towardLoss := 0, window := none
              freq := (meanTowardZero k.recovery.history).getD k.recovery.freq
              integrator := (meanTowardZero k.recovery.history).getD k.recovery.integrator }))

/-! ### Management frames -/

/-- R170: an accepted frame that finds four responses waiting, or whose request count is not 1 to 16, is discarded unexecuted:
management discarded counts one and MGMT_DROP is set. The list of accepted
frames is the model's own form (log 10). -/
def Obligations.UnrunnableManagementFrameIsDropped : Prop :=
  ∀ (p : Port) (f : AcceptedFrame) (rest : List AcceptedFrame) (s : State), (s.port p).waiting = f :: rest →
    (4 ≤ (s.port p).responseQueue.length ∨ f.count = 0 ∨ 16 < f.count) →
    ∃ u, exec (.managementFrame p) s = .next u ∧ OnlyPort s u p
      ∧ u.port p = { s.port p with
          waiting := rest, flags := (u.port p).flags
          counters := bump (s.port p).counters PortCounter.managementDiscarded.place }
      ∧ u.flag (.port p .mgmtDrop) = s.flagAfter (.port p .mgmtDrop) .none

/-- R170 to R174, R192, R193: every other accepted frame is taken and its requests executed, from its records on (one by one as
RequestsAreExecutedInOrderWhileTheyFit says); with the link UP it is answered by one response to its source, whose nine octets of
header hold its identifier, the number of results, one for each announced request, and the event count and overflow indicator
as the last request leaves them, and whose other octets are the result records in order; the response has at most 1480 octets.
With the link DOWN there is no response. No request changes LT or a link. The list of accepted frames is the model's own form
(log 10). -/
def Obligations.ManagementFrameIsAnswered : Prop :=
  ∀ (p : Port) (f : AcceptedFrame) (rest : List AcceptedFrame) (s : State), (s.port p).waiting = f :: rest →
    (s.port p).responseQueue.length < 4 → 1 ≤ f.count → f.count ≤ 16 →
    let taken := s.onPort p (fun k => { k with waiting := rest })
    let executed := (executeRequests f.count (some f.records) false 9 taken).1
    let results := (executeRequests f.count (some f.records) false 9 taken).2
    ∃ x : Response, exec (.managementFrame p) s = .next (if (s.port p).link = .up then
        executed.onPort p (fun k => { k with responseQueue := (s.port p).responseQueue ++ [x] }) else executed)
      ∧ x.destination = f.source ∧ results.length = f.count
      ∧ x.octets = [1, 2, 0, 0] ++ octets 2 f.identifier.toNat ++ octets 1 f.count
          ++ octets 1 executed.events.length ++ [if executed.overflow then 1 else 0]
          ++ results.flatMap (fun r => [r.verb, r.kind, r.index] ++ octets 2 (7 + r.data.length)
            ++ [BitVec.ofNat 8 r.code.number, if r.clamped then 1 else 0] ++ r.data)
      ∧ x.octets.length ≤ 1480
      ∧ executed.lt = s.lt ∧ executed.pending = s.pending ∧ executed.draws = s.draws
      ∧ (∀ q, (executed.port q).link = (s.port q).link ∧ (executed.port q).sending = (s.port q).sending
          ∧ (executed.port q).responseQueue = (s.port q).responseQueue
          ∧ (executed.port q).waiting = if q = p then rest else (s.port q).waiting)

/-- R171, R172: one request of a frame is executed, answered and followed by the rest; one that is not present whole is answered
MALFORMED and the rest go on, and after a record that the frame's end cuts short every announced request is answered MALFORMED;
one whose result would not leave room for the short results of the rest is not executed: it and every later request are answered
NOT_EXECUTED with nothing changed. Each short result echoes the verb, object kind and index the frame holds, and 0 for any it does
not hold (in a NOT_EXECUTED result the model's choice, log 30). R173: executing a
request is the meaning of the row of its name, its result the answer; CIRCUIT_COMMAND, EVENTS_TAKE and RESTART of another object
kind or index are refused with BAD_OBJECT and BAD_INDEX, and another command (R53) and an unknown verb with BAD_VALUE. R190, R191:
how a record is read: one present whole, one that the frame's end cuts short, after which nothing follows, and one with a declared
length below 5, after which the walk goes on 5 octets further. -/
def Obligations.RequestsAreExecutedInOrderWhileTheyFit : Prop :=
  let short (o : List Byte) (code : Code) : Result := ⟨(readRecord o).verb, (readRecord o).kind, (readRecord o).index, code, false, []⟩
  (∀ (n : Nat) (o : List Byte) (request : Request) (used : Nat) (s : State), (readRecord o).request = some request →
    let y := s.execute request
    let more := executeRequests n (readRecord o).next false (used + y.2.size) (y.1.answered y.2)
    (used + y.2.size + 7 * n ≤ 1480 → executeRequests (n + 1) (some o) false used s = (more.1, y.2 :: more.2))
    ∧ (1480 < used + y.2.size + 7 * n → executeRequests (n + 1) (some o) false used s
        = (s, short o .notExecuted :: (executeRequests n (readRecord o).next true (used + 7) s).2)))
  ∧ (∀ (n : Nat) (o : List Byte) (used : Nat) (s : State), (readRecord o).request = none →
    let more := executeRequests n (readRecord o).next false (used + 7) s
    executeRequests (n + 1) (some o) false used s = (more.1, short o .malformed :: more.2))
  ∧ (∀ (n used : Nat) (s : State), executeRequests n none false used s = (s, List.replicate n ⟨0, 0, 0, .malformed, false, []⟩))
  ∧ (∀ (n : Nat) (o : Option (List Byte)) (used : Nat) (s : State),
    (executeRequests n o true used s).1 = s ∧ (executeRequests n o true used s).2.length = n
    ∧ (∀ r ∈ (executeRequests n o true used s).2, r.code = .notExecuted ∧ r.clamped = false ∧ r.data = [])
    ∧ (o = none → (executeRequests n o true used s).2 = List.replicate n ⟨0, 0, 0, .notExecuted, false, []⟩)
    ∧ ∀ m b, n = m + 1 → o = some b → (executeRequests n o true used s).2
        = short b .notExecuted :: (executeRequests m (readRecord b).next true (used + 7) s).2)
  ∧ (∀ (s : State) (kind index x path : Byte) (mask : BitVec 32) (items : List FieldItem),
    let means (r : Request) (i : Instr) : Prop := exec i s = .next { (s.execute r).1 with answer := some (s.execute r).2 }
    let refused (r : Request) (verb : Byte) (code : Code) (data : List Byte) : Prop :=
      s.execute r = (s, ⟨verb, kind, index, code, false, data⟩)
    means (.tableRead kind index x) (.tableRead kind index x) ∧ means (.tableWrite kind index items) (.tableWrite kind index items)
    ∧ means (.statusRead kind index) (.statusRead kind index) ∧ means (.countersRead kind index x) (.countersRead kind index x)
    ∧ means (.flagsClear kind index mask) (.flagsClear kind index mask)
    ∧ means (.circuitCommand 4 index 1 path) (.engage index) ∧ means (.circuitCommand 4 index 2 path) (.release index)
    ∧ means (.circuitCommand 4 index 3 path) (.reacquire index) ∧ means (.circuitCommand 4 index 4 path) (.forcePath index path)
    ∧ means (.eventsTake 7 0 x) (.eventsTake x) ∧ means (.restart 7 0) .restart
    ∧ (kind ≠ 4 → refused (.circuitCommand kind index x path) 3 .badObject [])
    ∧ (kind = 4 → 64 ≤ index.toNat → refused (.circuitCommand kind index x path) 3 .badIndex [])
    ∧ (∀ c, kind = 4 → readCircuit index = some c → (x = 0 ∨ 4 < x.toNat) →
        refused (.circuitCommand kind index x path) 3 .badValue [BitVec.ofNat 8 (s.circuit c).control.state.code,
          BitVec.ofNat 8 (pathCode (s.circuit c).merge.forced)])
    ∧ (kind ≠ 7 → refused (.eventsTake kind index x) 7 .badObject [] ∧ refused (.restart kind index) 8 .badObject [])
    ∧ (kind = 7 → index ≠ 0 → refused (.eventsTake kind index x) 7 .badIndex [] ∧ refused (.restart kind index) 8 .badIndex [])
    ∧ ∀ verb, refused (.unknown verb kind index) verb .badValue [])
  ∧ (∀ o : List Byte, let r := readRecord o
    r.verb = o[0]?.getD 0 ∧ r.kind = o[1]?.getD 0 ∧ r.index = o[2]?.getD 0
    ∧ ((o.length < 5 ∨ o.length < numberAt o 3 2) → r.request = none ∧ r.next = none)
    ∧ (5 ≤ o.length → numberAt o 3 2 < 5 → r.request = none ∧ r.next = some (o.drop 5)))
  ∧ ∀ (verb kind index : Byte) (args rest : List Byte), args.length < 65531 →
    let r := readRecord ([verb, kind, index] ++ octets 2 (5 + args.length) ++ args ++ rest)
    r.verb = verb ∧ r.kind = kind ∧ r.index = index ∧ r.next = some rest
    ∧ r.request = (match verb.toNat, args with
      | 1, n :: _ => some (.tableRead kind index n)
      | 2, _ => (readItems args.length args).map (fun items => .tableWrite kind index items)
      | 3, command :: path :: _ => some (.circuitCommand kind index command path)
      | 4, _ => some (.statusRead kind index)
      | 5, clear :: _ => some (.countersRead kind index clear)
      | 6, a :: b :: c :: d :: _ => some (.flagsClear kind index (a ++ b ++ c ++ d))
      | 7, n :: _ => some (.eventsTake kind index n)
      | 8, _ => some (.restart kind index)
      | n, _ => if n ∈ [1, 3, 5, 6, 7] then none else some (.unknown verb kind index))
    ∧ ∀ items : List FieldItem, (∀ i ∈ items, i.value.length < 256) →
        args = items.flatMap (fun i => i.code :: octets 1 i.value.length ++ i.value) →
        readItems args.length args = some items

/-! ### Tables -/

/-- R51, R175, R173, R176: TABLE_READ and STATUS_READ change nothing but the answer. A table read gives its entries from the
index on, as many as are asked (1 to 16) or as the table still has, END telling which; a status read gives the values of a
circuit (R71, R85, R106, R126, R146, R169), a tributary (R16, R157), a port (R85) or the device in their positions, an absent one
with length 0, and then the flags; a kind that is no table or object, or an index beyond it, is refused. That an entry's length
counts its field items alone is the model's reading (log 19). -/
def Obligations.ReadsAnswerWithWhatIsHeld : Prop :=
  ∀ (kind index count : Byte) (s : State),
    (∃ r, exec (.tableRead kind index count) s = .next { s with answer := some r }
      ∧ r.verb = 1 ∧ r.kind = kind ∧ r.index = index
      ∧ (let n := max 1 (min 16 count.toNat)
         let size := if kind = 1 then 64 else if kind = 2 then 16 else if kind = 3 then 2 else 0
         if size = 0 then r.code = .badObject ∧ r.data = []
         else if size ≤ index.toNat then r.code = .badIndex ∧ r.data = []
         else r.code = .ok ∧ (r.clamped = true ↔ count.toNat ≠ n)
          ∧ numberAt r.data 0 1 = (if size < index.toNat + n then 1 else 0)
          ∧ numberAt r.data 1 1 = min n (size - index.toNat)
          ∧ (kind = 1 → r.data.drop 2 = (((List.finRange 64).drop index.toNat).take n).flatMap (fun c =>
              entryOctets c.val (s.circuit c).entry.values []))
          ∧ (kind = 2 → r.data.drop 2 = (((List.finRange 16).drop index.toNat).take n).flatMap (fun t =>
              entryOctets t.val (s.tributary t).entry.values []))
          ∧ (kind = 3 → r.data.drop 2 = (([Port.A, Port.B].drop index.toNat).take n).flatMap (fun p =>
              entryOctets (portIndex p) (s.port p).entry.values []))))
    ∧ ∃ r, exec (.statusRead kind index) s = .next { s with answer := some r }
      ∧ r.verb = 4 ∧ r.kind = kind ∧ r.index = index ∧ r.clamped = false
      ∧ (let size := if kind = 4 then 64 else if kind = 5 then 16 else if kind = 6 then 2 else if kind = 7 then 1 else 0
         let code (n : Nat) : List Byte := octets 1 n
         let mark (b : Bool) : List Byte := [if b then 1 else 0]
         let sequence (q : Option SeqNo) : List Byte := (q.map (fun x => octets 2 x.toNat)).getD []
         let ticks (x : Option Ticks) : List Byte := (x.map (fun x => octets 4 x.toNat)).getD []
         let small (x : Option Nat) : List Byte := (x.map (octets 1)).getD []
         let long (x : Option Nat) : List Byte := (x.map (octets 4)).getD []
         let signed (n : Nat) (x : Option Int) : List Byte := (x.map (signedOctets n)).getD []
         if size = 0 then r.code = .badObject ∧ r.data = []
         else if size ≤ index.toNat then r.code = .badIndex ∧ r.data = []
         else r.code = .ok
          ∧ (kind = 7 → r.data = [1, 4] ++ octets 4 s.lt.toNat ++ [2, 4] ++ octets 4 s.totalReserved
              ++ [3, 1] ++ octets 1 s.events.length ++ [4, 1, if s.overflow then 1 else 0])
          ∧ (∀ p, kind = 6 → readPort index = some p → r.data = [1, 1, if (s.port p).link = .up then 1 else 0]
              ++ [2, 1] ++ octets 1 (s.port p).circuitQueue.length ++ [3, 1] ++ octets 1 (s.port p).responseQueue.length
              ++ flagOctets (s.port p).flags)
          ∧ (∀ c, kind = 4 → readCircuit index = some c →
              let k := s.circuit c
              let b := k.buffer
              let held := b.pointer.bind (fun x => b.slot k.entry.depth x.seq)
              let control : List (List Byte) :=
                [ code k.control.state.code, sequence (b.pointer.map Pointer.seq), ticks (b.pointer.map Pointer.ts),
                  mark k.control.acquired, mark k.control.engageTimer.isSome, mark k.control.starvationTimer.isSome,
                  code k.control.mismatchRun, code k.control.lateRun, code (pathCode k.merge.forced),
                  octets 4 (if k.engaged then k.control.reserved else 0) ]
              let send : List (List Byte) :=
                [ code k.packetizer.phase.code, octets 2 k.packetizer.nextSeq.toNat, code k.packetizer.sendLog.length ]
              let merge : List (List Byte) :=
                [ code k.merge.up.a.code, code k.merge.up.b.code, mark k.merge.timers.a.isSome, mark k.merge.timers.b.isSome,
                  code (pathCode k.merge.active), mark k.merge.holdOff.isSome, code k.merge.skewSamples.length,
                  signed 4 (meanTowardZero k.merge.skewSamples) ]
              let playout : List (List Byte) :=
                [ sequence (b.pointer.map Pointer.seq), small (b.pointer.map Pointer.frame),
                  code (b.slots.toList.countP Option.isSome), code b.history.length,
                  small (b.history.getLast?.map (fun h => h.outcome.code)),
                  small (b.history.getLast?.map (fun h => pathCode h.firstPath)), mark b.startMark, code b.substitutionRun,
                  mark b.lastFrame.isSome, signed 4 b.lastLead, (held.map (fun e => mark e.l)).getD [],
                  (held.map (fun e => mark e.r)).getD [], ticks (held.map HeldEntry.ts) ]
              let recovery : List (List Byte) :=
                [ ticks (k.recovery.rt.map (fun x => x.extractLsb' 27 32)), signedOctets 2 k.recovery.freq,
                  signedOctets 2 k.recovery.integrator, mark k.recovery.locked, code k.recovery.towardLock,
                  code k.recovery.towardLoss, code ((k.recovery.window.map Window.count).getD 0),
                  small (k.recovery.window.map Window.length), signed 4 (k.recovery.window.map Window.minimum),
                  signed 2 k.recovery.lastError, k.recovery.history.flatMap (signedOctets 2),
                  signed 2 (meanTowardZero k.recovery.history) ]
              let delay : List (List Byte) :=
                [ long k.delay.a.rtt, long k.delay.b.rtt, code k.delay.a.runCount, code k.delay.b.runCount,
                  long k.delay.a.runMin, long k.delay.b.runMin, ticks k.delay.a.lastEcho, ticks k.delay.b.lastEcho ]
              r.data = statusItems (control ++ send ++ merge ++ playout ++ recovery ++ delay) ++ flagOctets k.flags)
          ∧ (∀ t, kind = 5 → readTributary index = some t →
              let k := s.tributary t
              r.data = statusItems
                [ code k.line.signal.code, code k.line.alignment.code, code k.line.ais.code, code k.line.remoteAlarm.code,
                  code k.line.source.code, octets 4 k.line.frameCount.toNat, code k.transmit.parity.code,
                  code k.entry.clockMode.code, code k.entry.timing.val, code k.clocking.inForce.code,
                  code k.clocking.timing.val, mark k.clocking.pendingWrite.isSome,
                  mark (k.clocking.pendingWrite == some true), code k.clocking.actual.code,
                  if k.clocking.valid then signedOctets 2 k.clocking.holdover else [],
                  signed 2 (match k.clocking.actual with
                    | .free => some 0
                    | .loop => none
                    | .adaptive => some (s.circuit k.clocking.timing).recovery.freq
                    | .holdover => some k.clocking.holdover) ] ++ flagOctets k.flags))

/-- R31, R32, R38 to R40, R42, R43: a circuit write is refused whole, with the first code that applies, or stored: the effective
entry, the lock of an engaged circuit cleared (without LOCK_LOST) by a change of W, a or b, its active path set afresh by a
change of policy, the late run cleared by leaving REALIGN; nothing else changes. The result gives the effective entry, each field
noted CLAMPED (1) whose stored value differs from the one asked for, or from the one held where none was given. That the
entry's length counts its field items alone is the model's reading (log 19), and that the result's request note is 0 its choice
(log 31). -/
def Obligations.CircuitWriteIsJudgedAndStored : Prop :=
  ∀ (index : Byte) (c : Fin 64) (items : List FieldItem) (s : State), readCircuit index = some c →
    let k := s.circuit c
    let refused (code : Code) : Prop := exec (.tableWrite 1 index items) s
      = .next { s with answer := some ⟨2, 1, index, code, false, []⟩ }
    (readFields readCircuitField items = none → refused .badValue)
    ∧ ∀ fields, readFields readCircuitField items = some fields →
      let e := effectiveEntry k.entry fields
      let clashes := fields.any CircuitField.placesSlots = true ∧ s.framingOf e = .framed
        ∧ ∃ d, d ≠ c ∧ (s.circuit d).entry.tributary = e.tributary ∧ (s.circuit d).entry.slotSet &&& e.slotSet ≠ 0
      let taken := fields.any CircuitField.isLabel = true ∧ e.inLabel ≠ 0
        ∧ ∃ d, d ≠ c ∧ (s.circuit d).entry.inLabel = e.inLabel
      let active := k.engaged = true ∧ fields.any CircuitField.structural = true
      (active → refused .circuitActive)
      ∧ (¬active → clashes → refused .slotConflict)
      ∧ (¬active → ¬clashes → taken → refused .labelInUse)
      ∧ (¬active → ¬clashes → ¬taken →
          ∃ u, exec (.tableWrite 1 index items) s = .next u
            ∧ (∃ notes : List Nat, notes.length = 24
                ∧ (∀ i, i < 24 → notes[i]? = some (if (askedEntry k.entry fields).values[i]? = e.values[i]? then 0 else 1))
                ∧ u.answer = some ⟨2, 1, index, .ok, false, entryOctets c.val e.values notes⟩)
            ∧ u = { s.onCircuit c (fun _ => u.circuit c) with answer := u.answer }
            ∧ u.circuit c = { k with
                entry := e
                control := { k.control with lateRun :=
                  if k.entry.latePolicy = .realign ∧ e.latePolicy ≠ .realign then 0 else k.control.lateRun }
                recovery := if k.engaged = true ∧ (e.window ≠ k.entry.window ∨ e.shiftA ≠ k.entry.shiftA
                    ∨ e.shiftB ≠ k.entry.shiftB) then
                  { k.recovery with locked := false, towardLock := 0, towardLoss := 0 } else k.recovery
                merge := if k.engaged = true ∧ e.policy ≠ k.entry.policy then
                  { k.merge with holdOff := none, active := freshActive e.policy k.merge.up } else k.merge })

/-- R34 to R37: the effective entry of any write to an entry in range is in range, its dependent fields raised or re-clamped;
a path record is clamped; depth and W take the greatest power of two not above the value, within 8..128 and 16..128. -/
def Obligations.WrittenFieldsAreClampedIntoRange : Prop :=
  (∀ (e : CircuitEntry) (items : List FieldItem) (fields : List CircuitField), e.inRange →
    readFields readCircuitField items = some fields → (effectiveEntry e fields).inRange)
  ∧ (∀ (e : CircuitEntry) (v : Nat), (effectiveEntry e [.frames v]).frames = max 1 (min 16 v)
      ∧ (effectiveEntry e [.shiftA v]).shiftA = min 8 v ∧ (effectiveEntry e [.shiftA v]).shiftB = max (min 8 v) e.shiftB
      ∧ (effectiveEntry e [.lockThreshold v]).lockThreshold = max 1 (min 255 v)
      ∧ (effectiveEntry e [.lockThreshold v]).unlockThreshold = max (max 1 (min 255 v)) e.unlockThreshold
      ∧ (e.frames ≤ (e.depth - 1) * e.frames → (effectiveEntry e [.playoutDelay v]).playoutDelay
          = max e.frames (min ((e.depth - 1) * e.frames) v)))
  ∧ (∀ (v : Nat), v < 256 →
      (∃ n, powerOfTwo 8 v = 2 ^ n ∧ 3 ≤ n ∧ n ≤ 7 ∧ (8 ≤ v → 2 ^ n ≤ v) ∧ (n < 7 → v < 2 ^ (n + 1)))
      ∧ ∃ n, powerOfTwo 16 v = 2 ^ n ∧ 4 ≤ n ∧ n ≤ 7 ∧ (16 ≤ v → 2 ^ n ≤ v) ∧ (n < 7 → v < 2 ^ (n + 1)))

/-- R51, R190, R191, R193: the field items a TABLE_READ gives for an entry in range are the items of a write that stores that
very entry, whatever entry it is written over, with no field clamped. -/
def Obligations.CircuitEntryReadsBackWhole : Prop :=
  ∀ e d : CircuitEntry, e.inRange →
    ∃ fields, readFields readCircuitField
        (e.values.zipIdx.map (fun x => (⟨BitVec.ofNat 8 (x.2 + 1), x.1⟩ : FieldItem))) = some fields
      ∧ effectiveEntry d fields = e ∧ askedEntry d fields = e

/-- R7, R31, R32, R45, R46, R150: a tributary write is refused whole, with the first code that applies, or stored. Refused are a
framing while an engaged circuit names the tributary, FRAMED while two entries on it share a timeslot, LOOP or ADAPTIVE while the
actual mode is either, and ADAPTIVE when the timing circuit left in force does not name the tributary. Stored, each field given
has its value, but a timing circuit while the requested mode held is ADAPTIVE (noted IGNORED, 2, in the result); a mode waits for
the frame start with the refresh mark of HOLDOVER; a framing restarts the receive side, with ALIGN_CHANGE when it was ALIGNED and
REMOTE_ALARM_CHANGE when the alarm was SEEN; nothing else changes. The detectors' places are the model's working state (log 23),
what the entry's length counts its reading (log 19), the result's request note 0 its choice (log 31). -/
def Obligations.TributaryWriteIsJudgedAndStored : Prop :=
  ∀ (index : Byte) (t : Fin 16) (items : List FieldItem) (s : State), readTributary index = some t →
    let k := s.tributary t
    let refused (code : Code) : Prop := exec (.tableWrite 2 index items) s
      = .next { s with answer := some ⟨2, 2, index, code, false, []⟩ }
    (readFields readTributaryField items = none → refused .badValue)
    ∧ ∀ fields, readFields readTributaryField items = some fields →
      ∃ e, TributaryEntry.writtenBy e k.entry fields ∧
      (let active := (∃ v, TributaryField.framing v ∈ fields) ∧ ∃ c, (s.circuit c).engaged = true ∧ (s.circuit c).names t = true
       let clash := TributaryField.framing .framed ∈ fields ∧ ∃ c d, c ≠ d ∧ (s.circuit c).names t = true
         ∧ (s.circuit d).names t = true ∧ (s.circuit c).entry.slotSet &&& (s.circuit d).entry.slotSet ≠ 0
       let busy := (TributaryField.clockMode .loop ∈ fields ∨ TributaryField.clockMode .adaptive ∈ fields)
         ∧ (k.clocking.actual = .loop ∨ k.clocking.actual = .adaptive)
       let untimed := TributaryField.clockMode .adaptive ∈ fields ∧ (s.circuit e.timing).names t = false
       (active → refused .circuitActive)
       ∧ (¬active → clash → refused .slotConflict)
       ∧ (¬active → ¬clash → busy → refused .modeSequence)
       ∧ (¬active → ¬clash → ¬busy → untimed → refused .notReady)
       ∧ (¬active → ¬clash → ¬busy → ¬untimed →
          ∃ u, exec (.tableWrite 2 index items) s = .next u
            ∧ u.answer = some ⟨2, 2, index, .ok, false, entryOctets t.val e.values
                [0, 0, if (∃ c, TributaryField.timing c ∈ fields) ∧ k.entry.clockMode = .adaptive then 2 else 0, 0, 0]⟩
            ∧ OnlyTributary { s with answer := u.answer } (u.onTributary t (fun x => { x with entry := k.entry })) t
            ∧ (u.tributary t).entry = e ∧ (u.tributary t).transmit = k.transmit
            ∧ (∀ m, TributaryField.clockMode m ∈ fields →
                (u.tributary t).clocking = { k.clocking with pendingWrite := some (m == .holdover) })
            ∧ ((∀ m, TributaryField.clockMode m ∉ fields) → (u.tributary t).clocking = k.clocking)
            ∧ ((∀ v, TributaryField.framing v ∉ fields) → (u.tributary t).line = k.line ∧ (u.tributary t).flags = k.flags
                ∧ u.events = s.events ∧ u.overflow = s.overflow)
            ∧ ∀ v, TributaryField.framing v ∈ fields →
              let now : AlignmentState := if v = .framed then .searching else .notFramed
              (u.tributary t).line = { k.line with
                alignment := now, remoteAlarm := .clear
                source := if v = .unframed ∧ k.line.signal = .present then .line else .generated
                search := if v = .framed ∧ k.line.signal = .present then .hunt else .idle
                searchBits := 0, erroredRun := 0, frameBits := 0, oddFrame := false, gathered := []
                lastIndicator := none, alarmRun := 0 }
              ∧ u.flag (.tributary t .alignChange) = (if k.line.alignment = .aligned then
                  some ((s.flag (.tributary t .alignChange)).getD (.alignment now)) else s.flag (.tributary t .alignChange))
              ∧ u.flag (.tributary t .remoteAlarmChange) = (if k.line.remoteAlarm = .seen then
                  some ((s.flag (.tributary t .remoteAlarmChange)).getD (.seen .clear))
                  else s.flag (.tributary t .remoteAlarmChange))
              ∧ ∀ f ∈ [TributaryFlag.signalChange, .aisChange, .clockModeChange],
                  u.flag (.tributary t f) = s.flag (.tributary t f)))

/-- R33, R34, R47, R48: a port write whose items are not all good, a group address among them, is refused; any other stores the
station address, management accept, frame type value and event enables it gives, a frame type value below 0x0600 as 0x0600 (noted
CLAMPED, 1, in the result), and changes nothing else. The model keeps the address and frame type value it replaces for the frames
captured before it, a capture at the LT of the write counting as after it (log 8); what the entry's length counts is its reading
(log 19), the result's request note 0 its choice (log 31). -/
def Obligations.PortWriteKeepsCapturedFramesValues : Prop :=
  (∀ (index : Byte) (p : Port) (items : List FieldItem) (s : State), readPort index = some p →
    (readFields readPortField items = none →
      exec (.tableWrite 3 index items) s = .next { s with answer := some ⟨2, 3, index, .badValue, false, []⟩ })
    ∧ ∀ fields, readFields readPortField items = some fields →
      ∃ u, exec (.tableWrite 3 index items) s = .next u ∧ PortEntry.writtenBy (u.port p).entry (s.port p).entry fields
        ∧ u.answer = some ⟨2, 3, index, .ok, false, entryOctets (portIndex p) (u.port p).entry.values
            [0, 0, if ∃ v : Fin 0x0600, PortField.frameType v.val ∈ fields then 1 else 0, 0]⟩
        ∧ u = { s.onPort p (fun k => { k with entry := (u.port p).entry, earlier := (u.port p).earlier })
            with answer := u.answer }
        ∧ ((s.port p).earlier = [] → ∀ capture : Ticks, 0 < signed32 s.lt capture →
            (u.port p).valuesAt capture = ((s.port p).entry.address, (s.port p).entry.frameType))
        ∧ ((s.port p).earlier = [] → (u.port p).valuesAt s.lt = ((u.port p).entry.address, (u.port p).entry.frameType)))
  ∧ (∀ a : Address, readPortField ⟨1, octets 6 a.toNat⟩ = if a.getLsbD 40 then none else some (.address a))
  ∧ (∀ v : Byte, readPortField ⟨2, [v]⟩ = if v = 0 then some (.accept false) else if v = 1 then some (.accept true) else none)
  ∧ (∀ v : BitVec 16, readPortField ⟨3, octets 2 v.toNat⟩ = some (.frameType v.toNat))
  ∧ (∀ m : BitVec 32, readPortField ⟨4, octets 4 m.toNat⟩
      = if m.toNat < 8 then some (.enables (BitVec.ofNat 3 m.toNat)) else none)
  ∧ ∀ i : FieldItem, (i.code.toNat = 0 ∨ 4 < i.code.toNat
      ∨ i.value.length ≠ (if i.code = 1 then 6 else if i.code = 2 then 1 else if i.code = 3 then 2 else 4)) →
      readPortField i = none

/-! ### Circuit commands -/

/-- R54, R55: an ENGAGE that passes its four steps reserves the circuit's memory and starts it in AWAITING with its packetizer
ARMED and its engage timer running, every other block as a DISABLED circuit has it. -/
def Obligations.EngageStartsTheCircuit : Prop :=
  ∀ (index : Byte) (c : Fin 64) (t : Fin 16) (s : State), readCircuit index = some c →
    let k := s.circuit c
    let framing := (s.tributary t).entry.framing
    let size := reservationSize framing k.entry
    k.control.state = .disabled → k.entry.tributary = some t → framing ≠ .off →
    (framing = .framed → k.entry.slotSet ≠ 0) → k.entry.inLabel ≠ 0 → (k.entry.paths.a ≠ none ∨ k.entry.paths.b ≠ none) →
    (framing = .unframed → ∀ d, d ≠ c → (s.circuit d).engaged = true → (s.circuit d).entry.tributary ≠ some t) →
    s.totalReserved + size ≤ 2097152 →
    ∃ u, exec (.engage index) s = .next u ∧ OnlyCircuit s { u with answer := s.answer } c
      ∧ u.tributaries = s.tributaries
      ∧ u.circuit c = { entry := k.entry, counters := k.counters, flags := (u.circuit c).flags
                        control := { state := .awaiting, reserved := size
                                     engageTimer := some (s.lt + BitVec.ofNat 32 (k.entry.engageTimeout * 8192000)) }
                        packetizer := { phase := .armed } }
      ∧ u.flag (.circuit c .stateChanged) = s.flagAfter (.circuit c .stateChanged) (.circuitState .awaiting)
      ∧ u.totalReserved = s.totalReserved + size
      ∧ u.answer = some ⟨3, 4, index, .ok, false, [1, 0]⟩

/-- R56: RELEASE of an engaged circuit leaves nothing but its table entry, its counters and its flags, sets STATE_CHANGED and no
other flag of the circuit, takes its copies out of both circuit queues uncounted, and makes the clocking change for a timing circuit that was PLAYING; in DISABLED it answers OK
and changes nothing. That its paths go DOWN without their change flags is the model's reading (log 15). -/
def Obligations.ReleaseReturnsToDisabled : Prop :=
  ∀ (index : Byte) (c : Fin 64) (s : State), readCircuit index = some c →
    ((s.circuit c).engaged = true →
      ∃ u, exec (.release index) s = .next u
        ∧ u.circuit c = { entry := (s.circuit c).entry, counters := (s.circuit c).counters, flags := (u.circuit c).flags }
        ∧ u.flag (.circuit c .stateChanged) = s.flagAfter (.circuit c .stateChanged) (.circuitState .disabled)
        ∧ (∀ f, f ≠ .stateChanged → u.flag (.circuit c f) = s.flag (.circuit c f)) ∧ EventsGrow s u
        ∧ (∀ d, d ≠ c → u.circuit d = s.circuit d)
        ∧ (∀ p, u.port p = { s.port p with
            circuitQueue := (s.port p).circuitQueue.filter (fun x => x.circuit != c) })
        ∧ ((s.circuit c).control.state = .playing → TimingLeft s u c)
        ∧ ((s.circuit c).control.state ≠ .playing → u.tributaries = s.tributaries)
        ∧ u.lt = s.lt ∧ u.answer = some ⟨3, 4, index, .ok, false, [0, 0]⟩)
    ∧ ((s.circuit c).engaged = false →
      ∃ data, exec (.release index) s = .next { s with answer := some ⟨3, 4, index, .ok, false, data⟩ })

/-- R57: REACQUIRE in ACQUIRING, PLAYING or STARVED returns the circuit to AWAITING with its buffer flushed, its anchor, window and
lock gone and the engage timer started afresh; packetizer, paths, measurement, FREQ, I, the FREQ history and the acquired mark
are kept. -/
def Obligations.ReacquireReturnsToAwaiting : Prop :=
  ∀ (index : Byte) (c : Fin 64) (s : State), readCircuit index = some c →
    let k := s.circuit c
    (k.control.state = .acquiring ∨ k.control.state = .playing ∨ k.control.state = .starved) →
    ∃ u, exec (.reacquire index) s = .next u ∧ OnlyCircuit s { u with answer := s.answer } c
      ∧ (let v := u.circuit c
         v.control = { k.control with
            state := .awaiting, mismatchRun := 0, lateRun := 0, starvationTimer := none
            engageTimer := some (s.lt + BitVec.ofNat 32 (k.entry.engageTimeout * 8192000)) }
         ∧ v.buffer = { k.buffer with
            pointer := none, slots := Vector.replicate 128 none, history := [], substitutionRun := 0
            startMark := false, lastLead := none }
         ∧ v.recovery = { k.recovery with rt := none, window := none, locked := false, towardLock := 0, towardLoss := 0 }
         ∧ v.merge = { k.merge with holdOff := none, active := freshActive k.entry.policy k.merge.up }
         ∧ v.packetizer = k.packetizer ∧ v.delay = k.delay ∧ v.counters = k.counters)
      ∧ u.flag (.circuit c .stateChanged) = s.flagAfter (.circuit c .stateChanged) (.circuitState .awaiting)
      ∧ u.flag (.circuit c .lockLost) = (if k.recovery.locked then s.flagAfter (.circuit c .lockLost) .none
          else s.flag (.circuit c .lockLost))
      ∧ (k.control.state = .playing → TimingLeft s u c)
      ∧ (k.control.state ≠ .playing → u.tributaries = s.tributaries)
      ∧ ∃ data, u.answer = some ⟨3, 4, index, .ok, false, data⟩

/-- R53, R54, R57, R58: FORCE_PATH on an engaged circuit sets or clears the forced path and nothing else; every circuit command is
refused, changing nothing but the answer, for an index above 63, and ENGAGE, REACQUIRE and FORCE_PATH for the states and
arguments their rules name. -/
def Obligations.ForcePathAndCommandRefusals : Prop :=
  ∀ (index : Byte) (s : State),
    (∀ c path p, readCircuit index = some c → readPath path = some p → (s.circuit c).engaged = true →
      ∃ data, exec (.forcePath index path) s = .next { s.onCircuit c (fun k =>
        { k with merge := { k.merge with forced := p } }) with answer := some ⟨3, 4, index, .ok, false, data⟩ })
    ∧ (∀ i, 64 ≤ index.toNat → i ∈ [Instr.engage index, Instr.release index, Instr.reacquire index] →
        exec i s = .next { s with answer := some ⟨3, 4, index, .badIndex, false, []⟩ })
    ∧ (64 ≤ index.toNat → ∀ path,
        exec (.forcePath index path) s = .next { s with answer := some ⟨3, 4, index, .badIndex, false, []⟩ })
    ∧ ∀ c, readCircuit index = some c →
      let k := s.circuit c
      let framing := s.framingOf k.entry
      let refused (i : Instr) (code : Code) : Prop := exec i s = .next { s with answer := some ⟨3, 4, index, code, false,
        [BitVec.ofNat 8 k.control.state.code, BitVec.ofNat 8 (pathCode k.merge.forced)]⟩ }
      let ready := framing ≠ .off ∧ (framing = .framed → k.entry.slotSet ≠ 0) ∧ k.entry.inLabel ≠ 0
        ∧ (k.entry.paths.a ≠ none ∨ k.entry.paths.b ≠ none)
      let shared := framing = .unframed
        ∧ ∃ d, d ≠ c ∧ (s.circuit d).engaged = true ∧ (s.circuit d).entry.tributary = k.entry.tributary
      (∀ path, 2 < path.toNat → refused (.forcePath index path) .badValue)
      ∧ (∀ path, path.toNat ≤ 2 → k.engaged = false → refused (.forcePath index path) .wrongState)
      ∧ ((k.control.state = .disabled ∨ k.control.state = .awaiting) → refused (.reacquire index) .wrongState)
      ∧ (k.engaged = true → refused (.engage index) .wrongState)
      ∧ (k.engaged = false → ¬ready → refused (.engage index) .notReady)
      ∧ (k.engaged = false → ready → shared → refused (.engage index) .slotConflict)
      ∧ (k.engaged = false → ready → ¬shared → 2097152 < s.totalReserved + reservationSize framing k.entry →
          refused (.engage index) .noMemory)

/-! ### Counters, flags, events, restart -/

/-- R177, R178, R182: COUNTERS_READ answers a circuit's or port's counters in order, 4 octets each, and with clear 1 sets them
all to 0; FLAGS_CLEAR makes exactly the flags of the mask CLEAR. A clear above 1 or a mask bit that names no flag is refused
with BAD_VALUE. R173: these two and TABLE_WRITE are refused with BAD_OBJECT for a kind they do not accept, and with BAD_INDEX
for an index beyond the kind's range, changing nothing but the answer. -/
def Obligations.CountersReadFlagsClearAndRefusals : Prop :=
  ∀ (index : Byte) (s : State),
    let answering (u : State) (verb kind : Byte) (code : Code) (data : List Byte) : State :=
      { u with answer := some ⟨verb, kind, index, code, false, data⟩ }
    (∀ c, readCircuit index = some c →
      (∀ clear : Byte, clear.toNat ≤ 1 →
        ∃ data, exec (.countersRead 4 index clear) s = .next (answering (s.onCircuit c (fun k =>
            { k with counters := (if clear = 1 then Vector.replicate 16 0 else k.counters) })) 5 4 .ok data)
          ∧ data.length = 64 ∧ ∀ i : Fin 16, (s.circuit c).counters.get i ≤ 4294967295 →
            numberAt data (4 * i.val) 4 = (s.circuit c).counters.get i)
      ∧ (∀ clear : Byte, 1 < clear.toNat → exec (.countersRead 4 index clear) s = .next (answering s 5 4 .badValue []))
      ∧ (∀ mask : BitVec 32, mask.toNat < 2 ^ 14 →
        ∃ u data, exec (.flagsClear 4 index mask) s = .next u
          ∧ u = answering (s.onCircuit c (fun k => { k with flags := (u.circuit c).flags })) 6 4 .ok data
          ∧ ∀ f, u.flag (.circuit c f) = if mask.getLsbD f.code.val then none else s.flag (.circuit c f))
      ∧ (∀ mask : BitVec 32, 2 ^ 14 ≤ mask.toNat → exec (.flagsClear 4 index mask) s = .next (answering s 6 4 .badValue [])))
    ∧ (∀ t, readTributary index = some t →
      (∀ mask : BitVec 32, mask.toNat < 2 ^ 5 →
        ∃ u data, exec (.flagsClear 5 index mask) s = .next u
          ∧ u = answering (s.onTributary t (fun k => { k with flags := (u.tributary t).flags })) 6 5 .ok data
          ∧ ∀ f, u.flag (.tributary t f) = if mask.getLsbD f.code.val then none else s.flag (.tributary t f))
      ∧ (∀ mask : BitVec 32, 2 ^ 5 ≤ mask.toNat → exec (.flagsClear 5 index mask) s = .next (answering s 6 5 .badValue [])))
    ∧ (∀ p, readPort index = some p →
      (∀ clear : Byte, clear.toNat ≤ 1 →
        ∃ data, exec (.countersRead 6 index clear) s = .next (answering (s.onPort p (fun k =>
            { k with counters := (if clear = 1 then Vector.replicate 6 0 else k.counters) })) 5 6 .ok data)
          ∧ data.length = 24 ∧ ∀ i : Fin 6, (s.port p).counters.get i ≤ 4294967295 →
            numberAt data (4 * i.val) 4 = (s.port p).counters.get i)
      ∧ (∀ clear : Byte, 1 < clear.toNat → exec (.countersRead 6 index clear) s = .next (answering s 5 6 .badValue []))
      ∧ (∀ mask : BitVec 32, mask.toNat < 2 ^ 3 →
        ∃ u data, exec (.flagsClear 6 index mask) s = .next u
          ∧ u = answering (s.onPort p (fun k => { k with flags := (u.port p).flags })) 6 6 .ok data
          ∧ ∀ f, u.flag (.port p f) = if mask.getLsbD f.code.val then none else s.flag (.port p f))
      ∧ (∀ mask : BitVec 32, 2 ^ 3 ≤ mask.toNat → exec (.flagsClear 6 index mask) s = .next (answering s 6 6 .badValue [])))
    ∧ ∀ kind : Byte,
      let refused (i : Instr) (verb : Byte) (size : Nat) : Prop :=
        (size = 0 → exec i s = .next (answering s verb kind .badObject []))
        ∧ (0 < size → size ≤ index.toNat → exec i s = .next (answering s verb kind .badIndex []))
      (∀ clear, refused (.countersRead kind index clear) 5 (if kind = 4 then 64 else if kind = 6 then 2 else 0))
      ∧ (∀ mask, refused (.flagsClear kind index mask) 6
          (if kind = 4 then 64 else if kind = 5 then 16 else if kind = 6 then 2 else 0))
      ∧ ∀ items, refused (.tableWrite kind index items) 2
          (if kind = 1 then 64 else if kind = 2 then 16 else if kind = 3 then 2 else 0)

/-- R179: EVENTS_TAKE removes the oldest records, as many as are asked (1 to 16, CLAMPED otherwise) or as there are, and answers
them, oldest first, each with its object kind, index, flag, LT at queueing and detail, with how many they are and how many
remain; the overflow indicator becomes CLEAR when at least one is removed and stays otherwise; nothing else changes. That the
object kind octet is 4, 5 or 6, the codes of the objects, is the model's reading (log 20). -/
def Obligations.EventsTakeRemovesTheOldest : Prop :=
  ∀ (n : Byte) (s : State),
    let count := max 1 (min 16 n.toNat)
    ∃ r, exec (.eventsTake n) s = .next { s with
        events := s.events.drop count, overflow := if s.events = [] then s.overflow else false, answer := some r }
      ∧ r.verb = 7 ∧ r.code = .ok ∧ (r.clamped = true ↔ n.toNat ≠ count)
      ∧ numberAt r.data 0 1 = min count s.events.length
      ∧ (s.events.length ≤ 64 → numberAt r.data 1 1 = s.events.length - count)
      ∧ r.data.drop 2 = ((s.events.take count).map (fun x => x.flag.octets ++ octets 4 x.lt.toNat ++ [x.detail.octet])).flatten
      ∧ r.data.length = 2 + 8 * min count s.events.length

/-- R183, R159, R84, R18: RESTART keeps the tables, LT, the lines, the links, the response queues and the frames being sent; it
releases every circuit without STATE_CHANGED, empties the circuit queues and the event queue, recomputes the clock modes, and
sets every counter to 0 and every flag CLEAR. A bit in progress that LOOP began 4 ticks ago or more ends as LOOP is left (R149,
log 7). That the fraction of a bit is kept through the two changes of mode RESTART may make at one instant, that accepted
management frames stay and that no path change flag is set is the model's choice (log 29, log 10, log 15). -/
def Obligations.RestartKeepsTablesTimeAndLines : Prop :=
  ∀ s : State, ∃ u, exec .restart s = .next u
    ∧ u.lt = s.lt ∧ u.events = [] ∧ u.overflow = false ∧ u.pending = s.pending ∧ u.draws = s.draws
    ∧ u.answer = some ⟨8, 7, 0, .ok, false, []⟩
    ∧ (∀ c, (s.circuit c).engaged = true → u.circuit c = { entry := (s.circuit c).entry })
    ∧ (∀ c, (s.circuit c).engaged = false →
        u.circuit c = { s.circuit c with counters := Vector.replicate 16 0, flags := Vector.replicate 14 none })
    ∧ (∀ p, u.port p = { s.port p with
        circuitQueue := [], counters := Vector.replicate 6 0, flags := Vector.replicate 3 none })
    ∧ ∀ t, (u.tributary t).entry = (s.tributary t).entry ∧ (u.tributary t).line = (s.tributary t).line
        ∧ (u.tributary t).flags = Vector.replicate 5 none
        ∧ (u.tributary t).transmit = (if (s.tributary t).clocking.actual = .loop ∧ (u.tributary t).clocking.actual ≠ .loop
              ∧ 2 ^ 29 ≤ (s.tributary t).transmit.bitTime then
            { (s.tributary t).transmit with bits := (s.tributary t).transmit.bits + 1, bitTime := 0 }
          else (s.tributary t).transmit)
        ∧ (let k := s.tributary t
           let left := k.clocking.actual = .adaptive ∧ (s.circuit k.clocking.timing).entry.tributary = some t
             ∧ (s.circuit k.clocking.timing).control.state = .playing
             ∧ (s.circuit k.clocking.timing).recovery.history ≠ []
           let now := (u.tributary t).clocking
           now.inForce = k.entry.clockMode ∧ now.timing = k.entry.timing ∧ now.pendingWrite = none
           ∧ (left → now.valid = true
              ∧ some now.holdover = meanTowardZero (s.circuit k.clocking.timing).recovery.history)
           ∧ (¬left → now.valid = k.clocking.valid ∧ now.holdover = k.clocking.holdover)
           ∧ now.actual = (match k.entry.clockMode with
              | .free => .free
              | .loop => if k.line.signal = .present then .loop else .free
              | .holdover => if now.valid then .holdover else .free
              | .adaptive => if now.valid then .holdover else .free))

/-- R180, R181: setting a flag that is SET changes nothing; one that is CLEAR becomes SET with the detail and, with its enable on,
queues a record with LT at the tail, or at a full queue sets the overflow indicator instead. No other flag changes. -/
def Obligations.SettingAFlagQueuesOneRecord : Prop :=
  ∀ (s : State) (r : FlagRef) (d : Detail),
    let u := s.raise r d
    u.flag r = s.flagAfter r d ∧ (∀ q, q ≠ r → u.flag q = s.flag q)
    ∧ (s.flag r ≠ none → u = s)
    ∧ (s.flag r = none → s.enabled r = false → u.events = s.events ∧ u.overflow = s.overflow)
    ∧ (s.flag r = none → s.enabled r = true → s.events.length < 64 →
        u.events = s.events ++ [⟨r, s.lt, d⟩] ∧ u.overflow = s.overflow)
    ∧ (s.flag r = none → s.enabled r = true → 64 ≤ s.events.length → u.events = s.events ∧ u.overflow = true)
    ∧ SameRun s u

/-! ### Time and sequence arithmetic -/

/-- R22: the signed difference of two time values, and "has reached". -/
def Obligations.SignedTimeDifference : Prop :=
  ∀ x y : Ticks,
    let r := (x.toNat + 4294967296 - y.toNat) % 4294967296
    signed32 x y = (if r < 2147483648 then (r : Int) else (r : Int) - 4294967296)
    ∧ -2147483648 ≤ signed32 x y ∧ signed32 x y ≤ 2147483647
    ∧ (reached x y = true ↔ 0 ≤ signed32 x y)
    ∧ (signed32 x y = 0 ↔ x = y)
    ∧ (r = 2147483648 → signed32 x y = -2147483648)
    ∧ ∀ a b : Int, x = BitVec.ofInt 32 a → y = BitVec.ofInt 32 b → (a - b).natAbs < 2147483648 → signed32 x y = a - b

/-- R23: the signed difference of two sequence numbers. -/
def Obligations.SignedSequenceDifference : Prop :=
  ∀ q u : SeqNo,
    let r := (q.toNat + 65536 - u.toNat) % 65536
    signed16 q u = (if r < 32768 then (r : Int) else (r : Int) - 65536)
    ∧ -32768 ≤ signed16 q u ∧ signed16 q u ≤ 32767
    ∧ (r = 32768 → signed16 q u = -32768)
    ∧ ∀ (ts : Ticks) (f : Nat), expectedStamp u ts f q = ts + BitVec.ofInt 32 (signed16 q u * f * 1024)

/-! ### The laws of the device, kept by every step from every state that meets them -/

/-- R41, R54, R78, R170, R181, R182: the queues stay within 64 event records, 64 copies and 4 responses, the counters within
4,294,967,295, and the memory reserved within 2,097,152 octets, each engaged circuit reserving what its entry gives. -/
def Obligations.StepsKeepQueuesCountersAndMemoryBounded : Prop :=
  (∀ s u, queuesBounded s → step s = .next u → queuesBounded u)
  ∧ (∀ s u, countersLaw s → step s = .next u → countersLaw u)
  ∧ (∀ s u, memoryLaw s → step s = .next u → memoryLaw u)
  ∧ ∀ s u, reservationLaw s → step s = .next u → reservationLaw u

/-- R19, R50, R180, R182: apart from POWER_ON, RESTART and the requests of a management frame, no command changes LT; none but
COUNTERS_READ lowers a counter, none but FLAGS_CLEAR clears a flag or changes its detail, none but TABLE_WRITE changes a table
entry, and none but EVENTS_TAKE takes an event record or clears the overflow indicator. -/
def Obligations.OnlyTheirRequestsUndoCountsFlagsAndEntries : Prop :=
  ∀ (i : Instr) (s u : State), exec i s = .next u → (∀ unit, i ≠ .powerOn unit) → i ≠ .restart →
    (∀ p, i ≠ .managementFrame p) →
    u.lt = s.lt
    ∧ ((∀ kind index clear, i ≠ .countersRead kind index clear) →
        (∀ c n, (s.circuit c).counters.get n ≤ (u.circuit c).counters.get n)
        ∧ ∀ p n, (s.port p).counters.get n ≤ (u.port p).counters.get n)
    ∧ ((∀ kind index mask, i ≠ .flagsClear kind index mask) → ∀ r d, s.flag r = some d → u.flag r = some d)
    ∧ ((∀ kind index items, i ≠ .tableWrite kind index items) →
        (∀ c, (u.circuit c).entry = (s.circuit c).entry) ∧ (∀ t, (u.tributary t).entry = (s.tributary t).entry)
        ∧ ∀ p, (u.port p).entry = (s.port p).entry)
    ∧ ((∀ n, i ≠ .eventsTake n) → EventsGrow s u)

/-- R137, R141: FREQ, I, H, the FREQ history and the offsets of the latest tick (the model's own values, log 32) stay within
-32,768..+32,767 and loop errors within -2,047..+2,047; a LOCKED circuit is in PLAYING. -/
def Obligations.StepsKeepTheRecoveryLaws : Prop :=
  (∀ s u, recoveryRangeLaw s → step s = .next u → recoveryRangeLaw u)
  ∧ ∀ s u, lockLaw s → step s = .next u → lockLaw u

/-- R56, R92: a DISABLED circuit holds nothing but its entry, counters and flags and every other circuit's packetizer runs; a
path is UP only if its circuit is not DISABLED and its port's link is UP. -/
def Obligations.StepsKeepTheDisabledAndPathLaws : Prop :=
  (∀ s u, disabledLaw s → step s = .next u → disabledLaw u)
  ∧ ∀ s u, pathLaw s → step s = .next u → pathLaw u

/-- R153, R155: the law of clock modes, and with it that a tributary in ADAPTIVE always has a FREQ history to fall back on. -/
def Obligations.StepsKeepTheClockLaw : Prop :=
  (∀ s u, clockLaw s → step s = .next u → clockLaw u)
  ∧ ∀ s u, clockLaw s → historyLaw s → step s = .next u → historyLaw u

/-- R30, R33 to R37, R39, R40: every circuit entry and every port's frame type value stays in range, and the tables stay free of
the three conflicts. -/
def Obligations.StepsKeepTheTablesInRangeAndFreeOfConflicts : Prop :=
  (∀ s u, tablesLaw s → step s = .next u → tablesLaw u)
  ∧ (∀ s u, conflictLaw s → step s = .next u → conflictLaw u)
  ∧ ∀ s u, unframedLaw s → step s = .next u → unframedLaw u

/-- R108, R110, R112, R114: a held entry stands at its own slot, less than a depth ahead of the play pointer. -/
def Obligations.StepsKeepThePlayoutBufferLaw : Prop :=
  ∀ s u, bufferLaw s → step s = .next u → bufferLaw u
end

