-- ==== Sys2Proof/Laws/State.lean ====
section
/-! SUPPORT. One lemma for each part of State under each of the three primitive updates (one circuit, one tributary, one
port changed), so that no later proof unfolds a record update. The named updates of one block are written as these. -/

namespace Sys2Proof.Machine

/-! ### Pairs -/

@[simp] theorem otherPort_otherPort (p : Port) : otherPort (otherPort p) = p := by cases p <;> rfl

@[simp] theorem otherPort_ne (p : Port) : otherPort p ≠ p := by cases p <;> decide

@[simp] theorem Pair.get_set_self {α : Type} (x : Pair α) (p : Port) (v : α) : (x.set p v).get p = v := by
  cases p <;> rfl

theorem Pair.get_set_of_ne {α : Type} (x : Pair α) {p q : Port} (v : α) (h : q ≠ p) : (x.set p v).get q = x.get q := by
  cases p <;> cases q <;> first | rfl | exact absurd rfl h

theorem Pair.get_set {α : Type} (x : Pair α) (p q : Port) (v : α) :
    (x.set p v).get q = if q = p then v else x.get q := by
  cases p <;> cases q <;> rfl

theorem Pair.ext_get {α : Type} {x y : Pair α} (h : ∀ p, x.get p = y.get p) : x = y := by
  have ha := h .A
  have hb := h .B
  cases x; cases y; simp_all [Pair.get]

/-! ### One circuit changed -/

@[simp] theorem circuit_onCircuit_self (s : State) (c : Fin 64) (f : Circuit → Circuit) :
    (s.onCircuit c f).circuit c = f (s.circuit c) := by
  simp [State.onCircuit, State.circuit]

theorem circuit_onCircuit_of_ne (s : State) {c d : Fin 64} (f : Circuit → Circuit) (h : d ≠ c) :
    (s.onCircuit c f).circuit d = s.circuit d := by
  have h' : c.val ≠ d.val := fun e => h (Fin.ext e.symm)
  simp [State.onCircuit, State.circuit, Vector.getElem_set_ne, h']

theorem circuit_onCircuit (s : State) (c d : Fin 64) (f : Circuit → Circuit) :
    (s.onCircuit c f).circuit d = if d = c then f (s.circuit c) else s.circuit d := by
  by_cases h : d = c
  · subst h; simp
  · simp [h, circuit_onCircuit_of_ne s f h]

@[simp] theorem tributaries_onCircuit (s : State) (c : Fin 64) (f : Circuit → Circuit) :
    (s.onCircuit c f).tributaries = s.tributaries := rfl

@[simp] theorem tributary_onCircuit (s : State) (c : Fin 64) (f : Circuit → Circuit) (t : Fin 16) :
    (s.onCircuit c f).tributary t = s.tributary t := rfl

@[simp] theorem ports_onCircuit (s : State) (c : Fin 64) (f : Circuit → Circuit) : (s.onCircuit c f).ports = s.ports := rfl

@[simp] theorem port_onCircuit (s : State) (c : Fin 64) (f : Circuit → Circuit) (p : Port) :
    (s.onCircuit c f).port p = s.port p := rfl

@[simp] theorem lt_onCircuit (s : State) (c : Fin 64) (f : Circuit → Circuit) : (s.onCircuit c f).lt = s.lt := rfl

@[simp] theorem events_onCircuit (s : State) (c : Fin 64) (f : Circuit → Circuit) :
    (s.onCircuit c f).events = s.events := rfl

@[simp] theorem overflow_onCircuit (s : State) (c : Fin 64) (f : Circuit → Circuit) :
    (s.onCircuit c f).overflow = s.overflow := rfl

@[simp] theorem answer_onCircuit (s : State) (c : Fin 64) (f : Circuit → Circuit) :
    (s.onCircuit c f).answer = s.answer := rfl

@[simp] theorem draws_onCircuit (s : State) (c : Fin 64) (f : Circuit → Circuit) : (s.onCircuit c f).draws = s.draws := rfl

@[simp] theorem pending_onCircuit (s : State) (c : Fin 64) (f : Circuit → Circuit) :
    (s.onCircuit c f).pending = s.pending := rfl

/-! ### One tributary changed -/

@[simp] theorem tributary_onTributary_self (s : State) (t : Fin 16) (f : Tributary → Tributary) :
    (s.onTributary t f).tributary t = f (s.tributary t) := by
  simp [State.onTributary, State.tributary]

theorem tributary_onTributary_of_ne (s : State) {t u : Fin 16} (f : Tributary → Tributary) (h : u ≠ t) :
    (s.onTributary t f).tributary u = s.tributary u := by
  have h' : t.val ≠ u.val := fun e => h (Fin.ext e.symm)
  simp [State.onTributary, State.tributary, Vector.getElem_set_ne, h']

theorem tributary_onTributary (s : State) (t u : Fin 16) (f : Tributary → Tributary) :
    (s.onTributary t f).tributary u = if u = t then f (s.tributary t) else s.tributary u := by
  by_cases h : u = t
  · subst h; simp
  · simp [h, tributary_onTributary_of_ne s f h]

@[simp] theorem circuits_onTributary (s : State) (t : Fin 16) (f : Tributary → Tributary) :
    (s.onTributary t f).circuits = s.circuits := rfl

@[simp] theorem circuit_onTributary (s : State) (t : Fin 16) (f : Tributary → Tributary) (c : Fin 64) :
    (s.onTributary t f).circuit c = s.circuit c := rfl

@[simp] theorem ports_onTributary (s : State) (t : Fin 16) (f : Tributary → Tributary) :
    (s.onTributary t f).ports = s.ports := rfl

@[simp] theorem port_onTributary (s : State) (t : Fin 16) (f : Tributary → Tributary) (p : Port) :
    (s.onTributary t f).port p = s.port p := rfl

@[simp] theorem lt_onTributary (s : State) (t : Fin 16) (f : Tributary → Tributary) : (s.onTributary t f).lt = s.lt := rfl

@[simp] theorem events_onTributary (s : State) (t : Fin 16) (f : Tributary → Tributary) :
    (s.onTributary t f).events = s.events := rfl

@[simp] theorem overflow_onTributary (s : State) (t : Fin 16) (f : Tributary → Tributary) :
    (s.onTributary t f).overflow = s.overflow := rfl

@[simp] theorem answer_onTributary (s : State) (t : Fin 16) (f : Tributary → Tributary) :
    (s.onTributary t f).answer = s.answer := rfl

@[simp] theorem draws_onTributary (s : State) (t : Fin 16) (f : Tributary → Tributary) :
    (s.onTributary t f).draws = s.draws := rfl

@[simp] theorem pending_onTributary (s : State) (t : Fin 16) (f : Tributary → Tributary) :
    (s.onTributary t f).pending = s.pending := rfl

/-! ### One trunk port changed -/

@[simp] theorem port_onPort_self (s : State) (p : Port) (f : PortState → PortState) :
    (s.onPort p f).port p = f (s.port p) := by
  simp [State.onPort, State.port]

theorem port_onPort_of_ne (s : State) {p q : Port} (f : PortState → PortState) (h : q ≠ p) :
    (s.onPort p f).port q = s.port q := by
  simp [State.onPort, State.port, Pair.get_set_of_ne _ _ h]

theorem port_onPort (s : State) (p q : Port) (f : PortState → PortState) :
    (s.onPort p f).port q = if q = p then f (s.port p) else s.port q := by
  by_cases h : q = p
  · subst h; simp
  · simp [h, port_onPort_of_ne s f h]

@[simp] theorem circuits_onPort (s : State) (p : Port) (f : PortState → PortState) :
    (s.onPort p f).circuits = s.circuits := rfl

@[simp] theorem circuit_onPort (s : State) (p : Port) (f : PortState → PortState) (c : Fin 64) :
    (s.onPort p f).circuit c = s.circuit c := rfl

@[simp] theorem tributaries_onPort (s : State) (p : Port) (f : PortState → PortState) :
    (s.onPort p f).tributaries = s.tributaries := rfl

@[simp] theorem tributary_onPort (s : State) (p : Port) (f : PortState → PortState) (t : Fin 16) :
    (s.onPort p f).tributary t = s.tributary t := rfl

@[simp] theorem lt_onPort (s : State) (p : Port) (f : PortState → PortState) : (s.onPort p f).lt = s.lt := rfl

@[simp] theorem events_onPort (s : State) (p : Port) (f : PortState → PortState) :
    (s.onPort p f).events = s.events := rfl

@[simp] theorem overflow_onPort (s : State) (p : Port) (f : PortState → PortState) :
    (s.onPort p f).overflow = s.overflow := rfl

@[simp] theorem answer_onPort (s : State) (p : Port) (f : PortState → PortState) :
    (s.onPort p f).answer = s.answer := rfl

@[simp] theorem draws_onPort (s : State) (p : Port) (f : PortState → PortState) : (s.onPort p f).draws = s.draws := rfl

@[simp] theorem pending_onPort (s : State) (p : Port) (f : PortState → PortState) :
    (s.onPort p f).pending = s.pending := rfl

/-! ### The named updates, as the primitive ones -/

@[simp] theorem onControl_eq (s : State) (c : Fin 64) (f : Control → Control) :
    s.onControl c f = s.onCircuit c (fun k => { k with control := f k.control }) := rfl

@[simp] theorem onMerge_eq (s : State) (c : Fin 64) (f : Merge → Merge) :
    s.onMerge c f = s.onCircuit c (fun k => { k with merge := f k.merge }) := rfl

@[simp] theorem onBuffer_eq (s : State) (c : Fin 64) (f : Buffer → Buffer) :
    s.onBuffer c f = s.onCircuit c (fun k => { k with buffer := f k.buffer }) := rfl

@[simp] theorem onRecovery_eq (s : State) (c : Fin 64) (f : Recovery → Recovery) :
    s.onRecovery c f = s.onCircuit c (fun k => { k with recovery := f k.recovery }) := rfl

@[simp] theorem onPacketizer_eq (s : State) (c : Fin 64) (f : Packetizer → Packetizer) :
    s.onPacketizer c f = s.onCircuit c (fun k => { k with packetizer := f k.packetizer }) := rfl

@[simp] theorem onDelay_eq (s : State) (c : Fin 64) (p : Port) (f : Delay → Delay) :
    s.onDelay c p f = s.onCircuit c (fun k => { k with delay := k.delay.set p (f (k.delay.get p)) }) := rfl

@[simp] theorem onLine_eq (s : State) (t : Fin 16) (f : LineUnit → LineUnit) :
    s.onLine t f = s.onTributary t (fun k => { k with line := f k.line }) := rfl

@[simp] theorem onTransmit_eq (s : State) (t : Fin 16) (f : Transmit → Transmit) :
    s.onTransmit t f = s.onTributary t (fun k => { k with transmit := f k.transmit }) := rfl

@[simp] theorem onClocking_eq (s : State) (t : Fin 16) (f : Clocking → Clocking) :
    s.onClocking t f = s.onTributary t (fun k => { k with clocking := f k.clocking }) := rfl

@[simp] theorem count_eq (s : State) (c : Fin 64) (k : CircuitCounter) :
    s.count c k = s.onCircuit c (fun x => { x with counters := bump x.counters k.place }) := rfl

@[simp] theorem countPort_eq (s : State) (p : Port) (k : PortCounter) :
    s.countPort p k = s.onPort p (fun x => { x with counters := bump x.counters k.place }) := rfl

/-! ### States are equal when their parts are -/

theorem State.circuits_ext {s u : State} (h : ∀ c, s.circuit c = u.circuit c) : s.circuits = u.circuits := by
  apply Vector.ext
  intro i hi
  exact h ⟨i, hi⟩

theorem State.tributaries_ext {s u : State} (h : ∀ t, s.tributary t = u.tributary t) : s.tributaries = u.tributaries := by
  apply Vector.ext
  intro i hi
  exact h ⟨i, hi⟩

theorem State.ports_ext {s u : State} (h : ∀ p, s.port p = u.port p) : s.ports = u.ports := Pair.ext_get h

theorem State.circuit_congr {s u : State} (h : s.circuits = u.circuits) (c : Fin 64) : s.circuit c = u.circuit c := by
  simp [State.circuit, h]

theorem State.tributary_congr {s u : State} (h : s.tributaries = u.tributaries) (t : Fin 16) :
    s.tributary t = u.tributary t := by
  simp [State.tributary, h]

theorem State.port_congr {s u : State} (h : s.ports = u.ports) (p : Port) : s.port p = u.port p := by
  simp [State.port, h]

end Sys2Proof.Machine
end

