-- ==== Sys2Proof/Laws/Flags.lean ====
section
/-! SUPPORT. What setting a flag (R180) and queueing a record (R181) can do, said once, and what they leave alone. -/

namespace Sys2Proof.Machine

/-- Everything that queueing a record can do (R181). -/
theorem queueRecord_cases (s : State) (r : EventRecord) :
    (s.events.length < 64 ∧ s.queueRecord r = { s with events := s.events ++ [r] })
      ∨ (64 ≤ s.events.length ∧ s.queueRecord r = { s with overflow := true }) := by
  unfold State.queueRecord
  split
  · exact .inl ⟨‹_›, rfl⟩
  · exact .inr ⟨by omega, rfl⟩

/-- Everything that setting a flag can do (R180): a SET flag is left; a CLEAR one is set with its detail, with a record when
its enable is on. -/
theorem raise_cases (s : State) (r : FlagRef) (d : Detail) :
    ((s.flag r).isSome ∧ s.raise r d = s)
      ∨ (s.flag r = none ∧ s.enabled r = false ∧ s.raise r d = s.withFlag r (some d))
      ∨ (s.flag r = none ∧ s.enabled r = true ∧ s.raise r d = (s.withFlag r (some d)).queueRecord ⟨r, s.lt, d⟩) := by
  unfold State.raise
  split
  · exact .inl ⟨by simp [*], rfl⟩
  · split
    · exact .inr (.inr ⟨‹_›, ‹_›, rfl⟩)
    · exact .inr (.inl ⟨‹_›, by simp_all, rfl⟩)

@[simp] theorem raiseCircuit_eq (s : State) (c : Fin 64) (f : CircuitFlag) (d : Detail) :
    s.raiseCircuit c f d = s.raise (.circuit c f) d := rfl

@[simp] theorem raiseTributary_eq (s : State) (t : Fin 16) (f : TributaryFlag) (d : Detail) :
    s.raiseTributary t f d = s.raise (.tributary t f) d := rfl

@[simp] theorem raisePort_eq (s : State) (p : Port) (f : PortFlag) (d : Detail) :
    s.raisePort p f d = s.raise (.port p f) d := rfl

/-! ### Queueing a record -/

@[simp] theorem circuits_queueRecord (s : State) (r : EventRecord) : (s.queueRecord r).circuits = s.circuits := by
  unfold State.queueRecord; split <;> rfl

@[simp] theorem tributaries_queueRecord (s : State) (r : EventRecord) : (s.queueRecord r).tributaries = s.tributaries := by
  unfold State.queueRecord; split <;> rfl

@[simp] theorem ports_queueRecord (s : State) (r : EventRecord) : (s.queueRecord r).ports = s.ports := by
  unfold State.queueRecord; split <;> rfl

@[simp] theorem lt_queueRecord (s : State) (r : EventRecord) : (s.queueRecord r).lt = s.lt := by
  unfold State.queueRecord; split <;> rfl

@[simp] theorem answer_queueRecord (s : State) (r : EventRecord) : (s.queueRecord r).answer = s.answer := by
  unfold State.queueRecord; split <;> rfl

@[simp] theorem draws_queueRecord (s : State) (r : EventRecord) : (s.queueRecord r).draws = s.draws := by
  unfold State.queueRecord; split <;> rfl

@[simp] theorem pending_queueRecord (s : State) (r : EventRecord) : (s.queueRecord r).pending = s.pending := by
  unfold State.queueRecord; split <;> rfl

@[simp] theorem circuit_queueRecord (s : State) (r : EventRecord) (c : Fin 64) :
    (s.queueRecord r).circuit c = s.circuit c := by
  unfold State.queueRecord; split <;> rfl

@[simp] theorem tributary_queueRecord (s : State) (r : EventRecord) (t : Fin 16) :
    (s.queueRecord r).tributary t = s.tributary t := by
  unfold State.queueRecord; split <;> rfl

@[simp] theorem port_queueRecord (s : State) (r : EventRecord) (p : Port) :
    (s.queueRecord r).port p = s.port p := by
  unfold State.queueRecord; split <;> rfl

/-! ### Giving a flag a value -/

@[simp] theorem lt_withFlag (s : State) (r : FlagRef) (v : Option Detail) : (s.withFlag r v).lt = s.lt := by
  cases r <;> rfl

@[simp] theorem events_withFlag (s : State) (r : FlagRef) (v : Option Detail) : (s.withFlag r v).events = s.events := by
  cases r <;> rfl

@[simp] theorem overflow_withFlag (s : State) (r : FlagRef) (v : Option Detail) : (s.withFlag r v).overflow = s.overflow := by
  cases r <;> rfl

@[simp] theorem answer_withFlag (s : State) (r : FlagRef) (v : Option Detail) : (s.withFlag r v).answer = s.answer := by
  cases r <;> rfl

@[simp] theorem draws_withFlag (s : State) (r : FlagRef) (v : Option Detail) : (s.withFlag r v).draws = s.draws := by
  cases r <;> rfl

@[simp] theorem pending_withFlag (s : State) (r : FlagRef) (v : Option Detail) : (s.withFlag r v).pending = s.pending := by
  cases r <;> rfl

@[simp] theorem circuit_withFlag_entry (s : State) (r : FlagRef) (x : Option Detail) (c : Fin 64) :
    ((s.withFlag r x).circuit c).entry = (s.circuit c).entry := by
  cases r <;> simp only [State.withFlag, circuit_onCircuit]
  all_goals first | rfl | (split <;> simp_all)

@[simp] theorem circuit_withFlag_control (s : State) (r : FlagRef) (x : Option Detail) (c : Fin 64) :
    ((s.withFlag r x).circuit c).control = (s.circuit c).control := by
  cases r <;> simp only [State.withFlag, circuit_onCircuit]
  all_goals first | rfl | (split <;> simp_all)

@[simp] theorem circuit_withFlag_packetizer (s : State) (r : FlagRef) (x : Option Detail) (c : Fin 64) :
    ((s.withFlag r x).circuit c).packetizer = (s.circuit c).packetizer := by
  cases r <;> simp only [State.withFlag, circuit_onCircuit]
  all_goals first | rfl | (split <;> simp_all)

@[simp] theorem circuit_withFlag_merge (s : State) (r : FlagRef) (x : Option Detail) (c : Fin 64) :
    ((s.withFlag r x).circuit c).merge = (s.circuit c).merge := by
  cases r <;> simp only [State.withFlag, circuit_onCircuit]
  all_goals first | rfl | (split <;> simp_all)

@[simp] theorem circuit_withFlag_buffer (s : State) (r : FlagRef) (x : Option Detail) (c : Fin 64) :
    ((s.withFlag r x).circuit c).buffer = (s.circuit c).buffer := by
  cases r <;> simp only [State.withFlag, circuit_onCircuit]
  all_goals first | rfl | (split <;> simp_all)

@[simp] theorem circuit_withFlag_recovery (s : State) (r : FlagRef) (x : Option Detail) (c : Fin 64) :
    ((s.withFlag r x).circuit c).recovery = (s.circuit c).recovery := by
  cases r <;> simp only [State.withFlag, circuit_onCircuit]
  all_goals first | rfl | (split <;> simp_all)

@[simp] theorem circuit_withFlag_delay (s : State) (r : FlagRef) (x : Option Detail) (c : Fin 64) :
    ((s.withFlag r x).circuit c).delay = (s.circuit c).delay := by
  cases r <;> simp only [State.withFlag, circuit_onCircuit]
  all_goals first | rfl | (split <;> simp_all)

@[simp] theorem circuit_withFlag_counters (s : State) (r : FlagRef) (x : Option Detail) (c : Fin 64) :
    ((s.withFlag r x).circuit c).counters = (s.circuit c).counters := by
  cases r <;> simp only [State.withFlag, circuit_onCircuit]
  all_goals first | rfl | (split <;> simp_all)

@[simp] theorem tributary_withFlag_entry (s : State) (r : FlagRef) (x : Option Detail) (t : Fin 16) :
    ((s.withFlag r x).tributary t).entry = (s.tributary t).entry := by
  cases r <;> simp only [State.withFlag, tributary_onTributary]
  all_goals first | rfl | (split <;> simp_all)

@[simp] theorem tributary_withFlag_line (s : State) (r : FlagRef) (x : Option Detail) (t : Fin 16) :
    ((s.withFlag r x).tributary t).line = (s.tributary t).line := by
  cases r <;> simp only [State.withFlag, tributary_onTributary]
  all_goals first | rfl | (split <;> simp_all)

@[simp] theorem tributary_withFlag_transmit (s : State) (r : FlagRef) (x : Option Detail) (t : Fin 16) :
    ((s.withFlag r x).tributary t).transmit = (s.tributary t).transmit := by
  cases r <;> simp only [State.withFlag, tributary_onTributary]
  all_goals first | rfl | (split <;> simp_all)

@[simp] theorem tributary_withFlag_clocking (s : State) (r : FlagRef) (x : Option Detail) (t : Fin 16) :
    ((s.withFlag r x).tributary t).clocking = (s.tributary t).clocking := by
  cases r <;> simp only [State.withFlag, tributary_onTributary]
  all_goals first | rfl | (split <;> simp_all)

@[simp] theorem port_withFlag_entry (s : State) (r : FlagRef) (x : Option Detail) (p : Port) :
    ((s.withFlag r x).port p).entry = (s.port p).entry := by
  cases r <;> simp only [State.withFlag, port_onPort]
  all_goals first | rfl | (split <;> simp_all)

@[simp] theorem port_withFlag_earlier (s : State) (r : FlagRef) (x : Option Detail) (p : Port) :
    ((s.withFlag r x).port p).earlier = (s.port p).earlier := by
  cases r <;> simp only [State.withFlag, port_onPort]
  all_goals first | rfl | (split <;> simp_all)

@[simp] theorem port_withFlag_link (s : State) (r : FlagRef) (x : Option Detail) (p : Port) :
    ((s.withFlag r x).port p).link = (s.port p).link := by
  cases r <;> simp only [State.withFlag, port_onPort]
  all_goals first | rfl | (split <;> simp_all)

@[simp] theorem port_withFlag_circuitQueue (s : State) (r : FlagRef) (x : Option Detail) (p : Port) :
    ((s.withFlag r x).port p).circuitQueue = (s.port p).circuitQueue := by
  cases r <;> simp only [State.withFlag, port_onPort]
  all_goals first | rfl | (split <;> simp_all)

@[simp] theorem port_withFlag_responseQueue (s : State) (r : FlagRef) (x : Option Detail) (p : Port) :
    ((s.withFlag r x).port p).responseQueue = (s.port p).responseQueue := by
  cases r <;> simp only [State.withFlag, port_onPort]
  all_goals first | rfl | (split <;> simp_all)

@[simp] theorem port_withFlag_sending (s : State) (r : FlagRef) (x : Option Detail) (p : Port) :
    ((s.withFlag r x).port p).sending = (s.port p).sending := by
  cases r <;> simp only [State.withFlag, port_onPort]
  all_goals first | rfl | (split <;> simp_all)

@[simp] theorem port_withFlag_waiting (s : State) (r : FlagRef) (x : Option Detail) (p : Port) :
    ((s.withFlag r x).port p).waiting = (s.port p).waiting := by
  cases r <;> simp only [State.withFlag, port_onPort]
  all_goals first | rfl | (split <;> simp_all)

@[simp] theorem port_withFlag_counters (s : State) (r : FlagRef) (x : Option Detail) (p : Port) :
    ((s.withFlag r x).port p).counters = (s.port p).counters := by
  cases r <;> simp only [State.withFlag, port_onPort]
  all_goals first | rfl | (split <;> simp_all)

/-! ### Setting a flag -/

@[simp] theorem lt_raise (s : State) (r : FlagRef) (d : Detail) : (s.raise r d).lt = s.lt := by
  rcases raise_cases s r d with ⟨_, h⟩ | ⟨_, _, h⟩ | ⟨_, _, h⟩ <;> simp [h]

@[simp] theorem answer_raise (s : State) (r : FlagRef) (d : Detail) : (s.raise r d).answer = s.answer := by
  rcases raise_cases s r d with ⟨_, h⟩ | ⟨_, _, h⟩ | ⟨_, _, h⟩ <;> simp [h]

@[simp] theorem draws_raise (s : State) (r : FlagRef) (d : Detail) : (s.raise r d).draws = s.draws := by
  rcases raise_cases s r d with ⟨_, h⟩ | ⟨_, _, h⟩ | ⟨_, _, h⟩ <;> simp [h]

@[simp] theorem pending_raise (s : State) (r : FlagRef) (d : Detail) : (s.raise r d).pending = s.pending := by
  rcases raise_cases s r d with ⟨_, h⟩ | ⟨_, _, h⟩ | ⟨_, _, h⟩ <;> simp [h]

@[simp] theorem circuit_raise_entry (s : State) (r : FlagRef) (d : Detail) (c : Fin 64) :
    ((s.raise r d).circuit c).entry = (s.circuit c).entry := by
  rcases raise_cases s r d with ⟨_, h⟩ | ⟨_, _, h⟩ | ⟨_, _, h⟩ <;> simp [h]

@[simp] theorem circuit_raise_control (s : State) (r : FlagRef) (d : Detail) (c : Fin 64) :
    ((s.raise r d).circuit c).control = (s.circuit c).control := by
  rcases raise_cases s r d with ⟨_, h⟩ | ⟨_, _, h⟩ | ⟨_, _, h⟩ <;> simp [h]

@[simp] theorem circuit_raise_packetizer (s : State) (r : FlagRef) (d : Detail) (c : Fin 64) :
    ((s.raise r d).circuit c).packetizer = (s.circuit c).packetizer := by
  rcases raise_cases s r d with ⟨_, h⟩ | ⟨_, _, h⟩ | ⟨_, _, h⟩ <;> simp [h]

@[simp] theorem circuit_raise_merge (s : State) (r : FlagRef) (d : Detail) (c : Fin 64) :
    ((s.raise r d).circuit c).merge = (s.circuit c).merge := by
  rcases raise_cases s r d with ⟨_, h⟩ | ⟨_, _, h⟩ | ⟨_, _, h⟩ <;> simp [h]

@[simp] theorem circuit_raise_buffer (s : State) (r : FlagRef) (d : Detail) (c : Fin 64) :
    ((s.raise r d).circuit c).buffer = (s.circuit c).buffer := by
  rcases raise_cases s r d with ⟨_, h⟩ | ⟨_, _, h⟩ | ⟨_, _, h⟩ <;> simp [h]

@[simp] theorem circuit_raise_recovery (s : State) (r : FlagRef) (d : Detail) (c : Fin 64) :
    ((s.raise r d).circuit c).recovery = (s.circuit c).recovery := by
  rcases raise_cases s r d with ⟨_, h⟩ | ⟨_, _, h⟩ | ⟨_, _, h⟩ <;> simp [h]

@[simp] theorem circuit_raise_delay (s : State) (r : FlagRef) (d : Detail) (c : Fin 64) :
    ((s.raise r d).circuit c).delay = (s.circuit c).delay := by
  rcases raise_cases s r d with ⟨_, h⟩ | ⟨_, _, h⟩ | ⟨_, _, h⟩ <;> simp [h]

@[simp] theorem circuit_raise_counters (s : State) (r : FlagRef) (d : Detail) (c : Fin 64) :
    ((s.raise r d).circuit c).counters = (s.circuit c).counters := by
  rcases raise_cases s r d with ⟨_, h⟩ | ⟨_, _, h⟩ | ⟨_, _, h⟩ <;> simp [h]

@[simp] theorem tributary_raise_entry (s : State) (r : FlagRef) (d : Detail) (t : Fin 16) :
    ((s.raise r d).tributary t).entry = (s.tributary t).entry := by
  rcases raise_cases s r d with ⟨_, h⟩ | ⟨_, _, h⟩ | ⟨_, _, h⟩ <;> simp [h]

@[simp] theorem tributary_raise_line (s : State) (r : FlagRef) (d : Detail) (t : Fin 16) :
    ((s.raise r d).tributary t).line = (s.tributary t).line := by
  rcases raise_cases s r d with ⟨_, h⟩ | ⟨_, _, h⟩ | ⟨_, _, h⟩ <;> simp [h]

@[simp] theorem tributary_raise_transmit (s : State) (r : FlagRef) (d : Detail) (t : Fin 16) :
    ((s.raise r d).tributary t).transmit = (s.tributary t).transmit := by
  rcases raise_cases s r d with ⟨_, h⟩ | ⟨_, _, h⟩ | ⟨_, _, h⟩ <;> simp [h]

@[simp] theorem tributary_raise_clocking (s : State) (r : FlagRef) (d : Detail) (t : Fin 16) :
    ((s.raise r d).tributary t).clocking = (s.tributary t).clocking := by
  rcases raise_cases s r d with ⟨_, h⟩ | ⟨_, _, h⟩ | ⟨_, _, h⟩ <;> simp [h]

@[simp] theorem port_raise_entry (s : State) (r : FlagRef) (d : Detail) (p : Port) :
    ((s.raise r d).port p).entry = (s.port p).entry := by
  rcases raise_cases s r d with ⟨_, h⟩ | ⟨_, _, h⟩ | ⟨_, _, h⟩ <;> simp [h]

@[simp] theorem port_raise_earlier (s : State) (r : FlagRef) (d : Detail) (p : Port) :
    ((s.raise r d).port p).earlier = (s.port p).earlier := by
  rcases raise_cases s r d with ⟨_, h⟩ | ⟨_, _, h⟩ | ⟨_, _, h⟩ <;> simp [h]

@[simp] theorem port_raise_link (s : State) (r : FlagRef) (d : Detail) (p : Port) :
    ((s.raise r d).port p).link = (s.port p).link := by
  rcases raise_cases s r d with ⟨_, h⟩ | ⟨_, _, h⟩ | ⟨_, _, h⟩ <;> simp [h]

@[simp] theorem port_raise_circuitQueue (s : State) (r : FlagRef) (d : Detail) (p : Port) :
    ((s.raise r d).port p).circuitQueue = (s.port p).circuitQueue := by
  rcases raise_cases s r d with ⟨_, h⟩ | ⟨_, _, h⟩ | ⟨_, _, h⟩ <;> simp [h]

@[simp] theorem port_raise_responseQueue (s : State) (r : FlagRef) (d : Detail) (p : Port) :
    ((s.raise r d).port p).responseQueue = (s.port p).responseQueue := by
  rcases raise_cases s r d with ⟨_, h⟩ | ⟨_, _, h⟩ | ⟨_, _, h⟩ <;> simp [h]

@[simp] theorem port_raise_sending (s : State) (r : FlagRef) (d : Detail) (p : Port) :
    ((s.raise r d).port p).sending = (s.port p).sending := by
  rcases raise_cases s r d with ⟨_, h⟩ | ⟨_, _, h⟩ | ⟨_, _, h⟩ <;> simp [h]

@[simp] theorem port_raise_waiting (s : State) (r : FlagRef) (d : Detail) (p : Port) :
    ((s.raise r d).port p).waiting = (s.port p).waiting := by
  rcases raise_cases s r d with ⟨_, h⟩ | ⟨_, _, h⟩ | ⟨_, _, h⟩ <;> simp [h]

@[simp] theorem port_raise_counters (s : State) (r : FlagRef) (d : Detail) (p : Port) :
    ((s.raise r d).port p).counters = (s.port p).counters := by
  rcases raise_cases s r d with ⟨_, h⟩ | ⟨_, _, h⟩ | ⟨_, _, h⟩ <;> simp [h]

@[simp] theorem circuits_raise_tributary (s : State) (u : Fin 16) (f : TributaryFlag) (d : Detail) :
    (s.raise (.tributary u f) d).circuits = s.circuits := by
  rcases raise_cases s (.tributary u f) d with ⟨_, h⟩ | ⟨_, _, h⟩ | ⟨_, _, h⟩ <;> simp [h, State.withFlag]

@[simp] theorem circuit_raise_tributary (s : State) (u : Fin 16) (f : TributaryFlag) (d : Detail) (c : Fin 64) :
    (s.raise (.tributary u f) d).circuit c = s.circuit c := by
  rcases raise_cases s (.tributary u f) d with ⟨_, h⟩ | ⟨_, _, h⟩ | ⟨_, _, h⟩ <;> simp [h, State.withFlag]

@[simp] theorem circuits_raise_port (s : State) (q : Port) (f : PortFlag) (d : Detail) :
    (s.raise (.port q f) d).circuits = s.circuits := by
  rcases raise_cases s (.port q f) d with ⟨_, h⟩ | ⟨_, _, h⟩ | ⟨_, _, h⟩ <;> simp [h, State.withFlag]

@[simp] theorem circuit_raise_port (s : State) (q : Port) (f : PortFlag) (d : Detail) (c : Fin 64) :
    (s.raise (.port q f) d).circuit c = s.circuit c := by
  rcases raise_cases s (.port q f) d with ⟨_, h⟩ | ⟨_, _, h⟩ | ⟨_, _, h⟩ <;> simp [h, State.withFlag]

@[simp] theorem tributaries_raise_circuit (s : State) (e : Fin 64) (f : CircuitFlag) (d : Detail) :
    (s.raise (.circuit e f) d).tributaries = s.tributaries := by
  rcases raise_cases s (.circuit e f) d with ⟨_, h⟩ | ⟨_, _, h⟩ | ⟨_, _, h⟩ <;> simp [h, State.withFlag]

@[simp] theorem tributary_raise_circuit (s : State) (e : Fin 64) (f : CircuitFlag) (d : Detail) (t : Fin 16) :
    (s.raise (.circuit e f) d).tributary t = s.tributary t := by
  rcases raise_cases s (.circuit e f) d with ⟨_, h⟩ | ⟨_, _, h⟩ | ⟨_, _, h⟩ <;> simp [h, State.withFlag]

@[simp] theorem tributaries_raise_port (s : State) (q : Port) (f : PortFlag) (d : Detail) :
    (s.raise (.port q f) d).tributaries = s.tributaries := by
  rcases raise_cases s (.port q f) d with ⟨_, h⟩ | ⟨_, _, h⟩ | ⟨_, _, h⟩ <;> simp [h, State.withFlag]

@[simp] theorem tributary_raise_port (s : State) (q : Port) (f : PortFlag) (d : Detail) (t : Fin 16) :
    (s.raise (.port q f) d).tributary t = s.tributary t := by
  rcases raise_cases s (.port q f) d with ⟨_, h⟩ | ⟨_, _, h⟩ | ⟨_, _, h⟩ <;> simp [h, State.withFlag]

@[simp] theorem ports_raise_circuit (s : State) (e : Fin 64) (f : CircuitFlag) (d : Detail) :
    (s.raise (.circuit e f) d).ports = s.ports := by
  rcases raise_cases s (.circuit e f) d with ⟨_, h⟩ | ⟨_, _, h⟩ | ⟨_, _, h⟩ <;> simp [h, State.withFlag]

@[simp] theorem port_raise_circuit (s : State) (e : Fin 64) (f : CircuitFlag) (d : Detail) (p : Port) :
    (s.raise (.circuit e f) d).port p = s.port p := by
  rcases raise_cases s (.circuit e f) d with ⟨_, h⟩ | ⟨_, _, h⟩ | ⟨_, _, h⟩ <;> simp [h, State.withFlag]

@[simp] theorem ports_raise_tributary (s : State) (u : Fin 16) (f : TributaryFlag) (d : Detail) :
    (s.raise (.tributary u f) d).ports = s.ports := by
  rcases raise_cases s (.tributary u f) d with ⟨_, h⟩ | ⟨_, _, h⟩ | ⟨_, _, h⟩ <;> simp [h, State.withFlag]

@[simp] theorem port_raise_tributary (s : State) (u : Fin 16) (f : TributaryFlag) (d : Detail) (p : Port) :
    (s.raise (.tributary u f) d).port p = s.port p := by
  rcases raise_cases s (.tributary u f) d with ⟨_, h⟩ | ⟨_, _, h⟩ | ⟨_, _, h⟩ <;> simp [h, State.withFlag]

theorem circuit_raise_of_ne (s : State) {c d : Fin 64} (f : CircuitFlag) (x : Detail) (h : d ≠ c) :
    (s.raise (.circuit c f) x).circuit d = s.circuit d := by
  rcases raise_cases s (.circuit c f) x with ⟨_, e⟩ | ⟨_, _, e⟩ | ⟨_, _, e⟩ <;>
    simp [e, State.withFlag, circuit_onCircuit_of_ne _ _ h]

theorem tributary_raise_of_ne (s : State) {t u : Fin 16} (f : TributaryFlag) (x : Detail) (h : u ≠ t) :
    (s.raise (.tributary t f) x).tributary u = s.tributary u := by
  rcases raise_cases s (.tributary t f) x with ⟨_, e⟩ | ⟨_, _, e⟩ | ⟨_, _, e⟩ <;>
    simp [e, State.withFlag, tributary_onTributary_of_ne _ _ h]

theorem port_raise_of_ne (s : State) {p q : Port} (f : PortFlag) (x : Detail) (h : q ≠ p) :
    (s.raise (.port p f) x).port q = s.port q := by
  rcases raise_cases s (.port p f) x with ⟨_, e⟩ | ⟨_, _, e⟩ | ⟨_, _, e⟩ <;>
    simp [e, State.withFlag, port_onPort_of_ne _ _ h]

@[simp] theorem engaged_raise (s : State) (r : FlagRef) (d : Detail) (c : Fin 64) :
    ((s.raise r d).circuit c).engaged = (s.circuit c).engaged := by
  simp [Circuit.engaged]

@[simp] theorem names_raise (s : State) (r : FlagRef) (d : Detail) (c : Fin 64) (t : Fin 16) :
    ((s.raise r d).circuit c).names t = (s.circuit c).names t := by
  simp [Circuit.names]

/-- The event queue never passes 64 by a flag (R181). -/
theorem events_raise_le (s : State) (r : FlagRef) (d : Detail) (h : s.events.length ≤ 64) :
    (s.raise r d).events.length ≤ 64 := by
  rcases raise_cases s r d with ⟨_, e⟩ | ⟨_, _, e⟩ | ⟨_, _, e⟩
  · simpa [e] using h
  · simpa [e] using h
  · rcases queueRecord_cases (s.withFlag r (some d)) ⟨r, s.lt, d⟩ with ⟨k, q⟩ | ⟨_, q⟩
    · simp at k; simp [e, q]; omega
    · simpa [e, q] using h

/-! ### Reading a flag after an update -/

theorem CircuitFlag.code_injective {f g : CircuitFlag} (h : f.code = g.code) : f = g := by
  rcases f with _ | _ | _ | _ | (_ | _) | _ | _ | _ | _ | _ | _ | _ | _ <;>
    rcases g with _ | _ | _ | _ | (_ | _) | _ | _ | _ | _ | _ | _ | _ | _ <;>
    first | rfl | exact absurd h (by decide)

theorem TributaryFlag.code_injective {f g : TributaryFlag} (h : f.code = g.code) : f = g := by
  cases f <;> cases g <;> first | rfl | exact absurd h (by decide)

theorem PortFlag.code_injective {f g : PortFlag} (h : f.code = g.code) : f = g := by
  cases f <;> cases g <;> first | rfl | exact absurd h (by decide)

/-- A change of a circuit that keeps its flags keeps every flag. -/
@[simp] theorem flag_onCircuit (s : State) (c : Fin 64) (f : Circuit → Circuit) (r : FlagRef)
    (h : (f (s.circuit c)).flags = (s.circuit c).flags) : (s.onCircuit c f).flag r = s.flag r := by
  cases r with
  | circuit d g => simp only [State.flag, circuit_onCircuit]; split <;> simp_all
  | tributary t g => rfl
  | port p g => rfl

@[simp] theorem flag_onTributary (s : State) (t : Fin 16) (f : Tributary → Tributary) (r : FlagRef)
    (h : (f (s.tributary t)).flags = (s.tributary t).flags) : (s.onTributary t f).flag r = s.flag r := by
  cases r with
  | circuit c g => rfl
  | tributary u g => simp only [State.flag, tributary_onTributary]; split <;> simp_all
  | port p g => rfl

@[simp] theorem flag_onPort (s : State) (p : Port) (f : PortState → PortState) (r : FlagRef)
    (h : (f (s.port p)).flags = (s.port p).flags) : (s.onPort p f).flag r = s.flag r := by
  cases r with
  | circuit c g => rfl
  | tributary t g => rfl
  | port q g => simp only [State.flag, port_onPort]; split <;> simp_all

@[simp] theorem flag_queueRecord (s : State) (x : EventRecord) (r : FlagRef) : (s.queueRecord x).flag r = s.flag r := by
  cases r <;> simp [State.flag]

@[simp] theorem flag_withFlag_self (s : State) (r : FlagRef) (v : Option Detail) : (s.withFlag r v).flag r = v := by
  cases r <;> simp [State.flag, State.withFlag]

theorem flag_withFlag_of_ne (s : State) {q r : FlagRef} (v : Option Detail) (h : q ≠ r) :
    (s.withFlag r v).flag q = s.flag q := by
  cases r with
  | circuit c f =>
    cases q with
    | circuit d g =>
      simp only [State.withFlag, State.flag, circuit_onCircuit]
      split
      · rename_i e
        subst e
        have hc : f.code.val ≠ g.code.val := fun e => h (by rw [CircuitFlag.code_injective (Fin.ext e)])
        simp [Vector.getElem_set_ne, hc]
      · rfl
    | tributary t g => rfl
    | port p g => rfl
  | tributary t f =>
    cases q with
    | circuit d g => rfl
    | tributary u g =>
      simp only [State.withFlag, State.flag, tributary_onTributary]
      split
      · rename_i e
        subst e
        have hc : f.code.val ≠ g.code.val := fun e => h (by rw [TributaryFlag.code_injective (Fin.ext e)])
        simp [Vector.getElem_set_ne, hc]
      · rfl
    | port p g => rfl
  | port p f =>
    cases q with
    | circuit d g => rfl
    | tributary u g => rfl
    | port q g =>
      simp only [State.withFlag, State.flag, port_onPort]
      split
      · rename_i e
        subst e
        have hc : f.code.val ≠ g.code.val := fun e => h (by rw [PortFlag.code_injective (Fin.ext e)])
        simp [Vector.getElem_set_ne, hc]
      · rfl

/-- A flag that a rule sets keeps its detail if it was SET, and takes the given one if it was CLEAR (R180). -/
@[simp] theorem flag_raise_self (s : State) (r : FlagRef) (d : Detail) : (s.raise r d).flag r = some ((s.flag r).getD d) := by
  rcases raise_cases s r d with ⟨h, k⟩ | ⟨h, _, k⟩ | ⟨h, _, k⟩
  · rw [k]
    obtain ⟨v, hv⟩ := Option.isSome_iff_exists.mp h
    simp [hv]
  · simp [k, h]
  · simp [k, h]

/-- Setting one flag leaves every other as it was. -/
theorem flag_raise_of_ne (s : State) {q r : FlagRef} (d : Detail) (h : q ≠ r) : (s.raise r d).flag q = s.flag q := by
  rcases raise_cases s r d with ⟨_, k⟩ | ⟨_, _, k⟩ | ⟨_, _, k⟩
  · rw [k]
  · rw [k]; exact flag_withFlag_of_ne s _ h
  · rw [k, flag_queueRecord]; exact flag_withFlag_of_ne s _ h

/-- A flag after another (or the same) has been set. -/
theorem flag_raise (s : State) (q r : FlagRef) (d : Detail) :
    (s.raise r d).flag q = if q = r then some ((s.flag q).getD d) else s.flag q := by
  split
  · rename_i h; subst h; exact flag_raise_self s q d
  · rename_i h; exact flag_raise_of_ne s d h

end Sys2Proof.Machine
end

