-- ==== Sys2Proof/Laws/Frames.lean ====
section
/-! SUPPORT. The frames of Safety.lean compose: each is reflexive and transitive, and each primitive update lies in it. -/

namespace Sys2Proof.Machine

/-! ### Events -/

theorem EventsGrow.of_eq {s u : State} (he : u.events = s.events) (ho : u.overflow = s.overflow) : EventsGrow s u :=
  ⟨⟨[], by simp [he]⟩, .inr he, fun h => by rw [ho, h]⟩

theorem EventsGrow.refl (s : State) : EventsGrow s s := .of_eq rfl rfl

theorem EventsGrow.trans {s u w : State} (h : EventsGrow s u) (k : EventsGrow u w) : EventsGrow s w := by
  obtain ⟨⟨l, hl⟩, hb, ho⟩ := h
  obtain ⟨⟨m, hm⟩, kb, ko⟩ := k
  refine ⟨⟨l ++ m, by simp [hm, hl]⟩, ?_, fun e => ko (ho e)⟩
  rcases kb with kb | kb
  · exact .inl kb
  · rcases hb with hb | hb
    · exact .inl (by rw [kb]; exact hb)
    · exact .inr (by rw [kb, hb])

theorem EventsGrow.raise (s : State) (r : FlagRef) (d : Detail) : EventsGrow s (s.raise r d) := by
  rcases raise_cases s r d with ⟨_, h⟩ | ⟨_, _, h⟩ | ⟨_, _, h⟩
  · rw [h]; exact .refl s
  · rw [h]; exact .of_eq (by simp) (by simp)
  · rcases queueRecord_cases (s.withFlag r (some d)) ⟨r, s.lt, d⟩ with ⟨k, q⟩ | ⟨_, q⟩
    · simp at k
      refine ⟨⟨[⟨r, s.lt, d⟩], by simp [h, q]⟩, .inl (by simp [h, q]; omega), ?_⟩
      simp [h, q]
    · exact ⟨⟨[], by simp [h, q]⟩, .inr (by simp [h, q]), by simp [h, q]⟩

theorem EventsGrow.le {s u : State} (h : EventsGrow s u) (b : s.events.length ≤ 64) : u.events.length ≤ 64 := by
  rcases h.2.1 with k | k
  · exact k
  · rw [k]; exact b

/-! ### What every command keeps -/

theorem SameRun.refl (s : State) : SameRun s s := ⟨rfl, rfl, rfl, rfl⟩

theorem SameRun.trans {s u w : State} (h : SameRun s u) (k : SameRun u w) : SameRun s w :=
  ⟨k.lt.trans h.lt, k.answer.trans h.answer, k.draws.trans h.draws, k.pending.trans h.pending⟩

theorem SameRun.raise (s : State) (r : FlagRef) (d : Detail) : SameRun s (s.raise r d) := ⟨by simp, by simp, by simp, by simp⟩

/-! ### One circuit -/

theorem OnlyCircuit.refl (s : State) (c : Fin 64) : OnlyCircuit s s c :=
  ⟨.refl s, .refl s, rfl, fun _ _ => rfl, rfl, fun _ => ⟨rfl, rfl, rfl⟩, fun _ _ => rfl⟩

theorem OnlyCircuit.trans {s u w : State} {c : Fin 64} (h : OnlyCircuit s u c) (k : OnlyCircuit u w c) :
    OnlyCircuit s w c where
  run := h.run.trans k.run
  events := h.events.trans k.events
  ports := k.ports.trans h.ports
  others d hd := (k.others d hd).trans (h.others d hd)
  entry := k.entry.trans h.entry
  lines t := ⟨(k.lines t).1.trans (h.lines t).1, (k.lines t).2.1.trans (h.lines t).2.1,
    (k.lines t).2.2.trans (h.lines t).2.2⟩
  tributaries t ht := (k.tributaries t (by rw [h.entry]; exact ht)).trans (h.tributaries t ht)

theorem OnlyCircuit.onCircuit (s : State) (c : Fin 64) (f : Circuit → Circuit)
    (h : (f (s.circuit c)).entry = (s.circuit c).entry) : OnlyCircuit s (s.onCircuit c f) c where
  run := ⟨rfl, rfl, rfl, rfl⟩
  events := .of_eq rfl rfl
  ports := rfl
  others d hd := circuit_onCircuit_of_ne s f hd
  entry := by simpa using h
  lines t := ⟨rfl, rfl, rfl⟩
  tributaries t _ := rfl

theorem OnlyCircuit.raise (s : State) (c : Fin 64) (f : CircuitFlag) (d : Detail) :
    OnlyCircuit s (s.raise (.circuit c f) d) c where
  run := .raise s _ d
  events := .raise s _ d
  ports := by simp
  others e he := circuit_raise_of_ne s f d he
  entry := by simp
  lines t := by simp
  tributaries t _ := by simp

/-- A change of the clocking block, with its flag, of the tributary the circuit names. -/
theorem OnlyCircuit.clocking (s : State) (c : Fin 64) (t : Fin 16) (f : Clocking → Clocking)
    (h : (s.circuit c).entry.tributary = some t) : OnlyCircuit s (s.onClocking t f) c where
  run := ⟨rfl, rfl, rfl, rfl⟩
  events := .of_eq rfl rfl
  ports := rfl
  others _ _ := rfl
  entry := rfl
  lines v := by simp only [onClocking_eq, tributary_onTributary]; split <;> simp_all
  tributaries v hv := by
    have hne : v ≠ t := fun e => hv (by rw [e]; exact h)
    simp [tributary_onTributary_of_ne _ _ hne]

theorem OnlyCircuit.raiseTributary (s : State) (c : Fin 64) (t : Fin 16) (f : TributaryFlag) (d : Detail)
    (h : (s.circuit c).entry.tributary = some t) : OnlyCircuit s (s.raise (.tributary t f) d) c where
  run := .raise s _ d
  events := .raise s _ d
  ports := by simp
  others _ _ := by simp
  entry := by simp
  lines v := by simp
  tributaries v hv := tributary_raise_of_ne s f d (fun e => hv (by rw [e]; exact h))

/-! ### One tributary -/

theorem OnlyTributary.refl (s : State) (t : Fin 16) : OnlyTributary s s t :=
  ⟨.refl s, .refl s, rfl, rfl, fun _ _ => rfl, rfl⟩

theorem OnlyTributary.trans {s u w : State} {t : Fin 16} (h : OnlyTributary s u t) (k : OnlyTributary u w t) :
    OnlyTributary s w t where
  run := h.run.trans k.run
  events := h.events.trans k.events
  circuits := k.circuits.trans h.circuits
  ports := k.ports.trans h.ports
  others v hv := (k.others v hv).trans (h.others v hv)
  entry := k.entry.trans h.entry

theorem OnlyTributary.onTributary (s : State) (t : Fin 16) (f : Tributary → Tributary)
    (h : (f (s.tributary t)).entry = (s.tributary t).entry) : OnlyTributary s (s.onTributary t f) t where
  run := ⟨rfl, rfl, rfl, rfl⟩
  events := .of_eq rfl rfl
  circuits := rfl
  ports := rfl
  others v hv := tributary_onTributary_of_ne s f hv
  entry := by simpa using h

theorem OnlyTributary.raise (s : State) (t : Fin 16) (f : TributaryFlag) (d : Detail) :
    OnlyTributary s (s.raise (.tributary t f) d) t where
  run := .raise s _ d
  events := .raise s _ d
  circuits := by simp
  ports := by simp
  others v hv := tributary_raise_of_ne s f d hv
  entry := by simp

/-! ### One trunk port -/

theorem OnlyPort.refl (s : State) (p : Port) : OnlyPort s s p := ⟨.refl s, .refl s, rfl, rfl, rfl, rfl⟩

theorem OnlyPort.trans {s u w : State} {p : Port} (h : OnlyPort s u p) (k : OnlyPort u w p) : OnlyPort s w p where
  run := h.run.trans k.run
  events := h.events.trans k.events
  circuits := k.circuits.trans h.circuits
  tributaries := k.tributaries.trans h.tributaries
  other := k.other.trans h.other
  entry := k.entry.trans h.entry

theorem OnlyPort.onPort (s : State) (p : Port) (f : PortState → PortState)
    (h : (f (s.port p)).entry = (s.port p).entry) : OnlyPort s (s.onPort p f) p where
  run := ⟨rfl, rfl, rfl, rfl⟩
  events := .of_eq rfl rfl
  circuits := rfl
  tributaries := rfl
  other := port_onPort_of_ne s f (otherPort_ne p)
  entry := by simpa using h

theorem OnlyPort.raise (s : State) (p : Port) (f : PortFlag) (d : Detail) : OnlyPort s (s.raise (.port p f) d) p where
  run := .raise s _ d
  events := .raise s _ d
  circuits := by simp
  tributaries := by simp
  other := port_raise_of_ne s f d (otherPort_ne p)
  entry := by simp

/-! ### Frames carried on by one more update -/

variable {s u : State}

theorem OnlyCircuit.thenOn {c : Fin 64} (h : OnlyCircuit s u c) (f : Circuit → Circuit) (hf : ∀ k, (f k).entry = k.entry) :
    OnlyCircuit s (u.onCircuit c f) c := h.trans (.onCircuit u c f (hf _))

theorem OnlyCircuit.thenRaise {c : Fin 64} (h : OnlyCircuit s u c) (f : CircuitFlag) (d : Detail) :
    OnlyCircuit s (u.raise (.circuit c f) d) c := h.trans (.raise u c f d)

theorem OnlyCircuit.thenControl {c : Fin 64} (h : OnlyCircuit s u c) (f : Control → Control) : OnlyCircuit s (u.onControl c f) c :=
  h.thenOn _ (fun _ => rfl)

theorem OnlyCircuit.thenMerge {c : Fin 64} (h : OnlyCircuit s u c) (f : Merge → Merge) : OnlyCircuit s (u.onMerge c f) c :=
  h.thenOn _ (fun _ => rfl)

theorem OnlyCircuit.thenBuffer {c : Fin 64} (h : OnlyCircuit s u c) (f : Buffer → Buffer) : OnlyCircuit s (u.onBuffer c f) c :=
  h.thenOn _ (fun _ => rfl)

theorem OnlyCircuit.thenRecovery {c : Fin 64} (h : OnlyCircuit s u c) (f : Recovery → Recovery) : OnlyCircuit s (u.onRecovery c f) c :=
  h.thenOn _ (fun _ => rfl)

theorem OnlyCircuit.thenPacketizer {c : Fin 64} (h : OnlyCircuit s u c) (f : Packetizer → Packetizer) : OnlyCircuit s (u.onPacketizer c f) c :=
  h.thenOn _ (fun _ => rfl)

theorem OnlyCircuit.thenDelay {c : Fin 64} (h : OnlyCircuit s u c) (p : Port) (f : Delay → Delay) : OnlyCircuit s (u.onDelay c p f) c :=
  h.thenOn _ (fun _ => rfl)

theorem OnlyCircuit.thenCount {c : Fin 64} (h : OnlyCircuit s u c) (k : CircuitCounter) : OnlyCircuit s (u.count c k) c :=
  h.thenOn _ (fun _ => rfl)

theorem OnlyCircuit.thenFlag {c : Fin 64} (h : OnlyCircuit s u c) (f : CircuitFlag) (d : Detail) :
    OnlyCircuit s (u.raiseCircuit c f d) c := h.thenRaise f d

theorem OnlyTributary.thenOn {t : Fin 16} (h : OnlyTributary s u t) (f : Tributary → Tributary)
    (hf : ∀ k, (f k).entry = k.entry) : OnlyTributary s (u.onTributary t f) t := h.trans (.onTributary u t f (hf _))

theorem OnlyTributary.thenRaise {t : Fin 16} (h : OnlyTributary s u t) (f : TributaryFlag) (d : Detail) :
    OnlyTributary s (u.raise (.tributary t f) d) t := h.trans (.raise u t f d)

theorem OnlyTributary.thenLine {t : Fin 16} (h : OnlyTributary s u t) (f : LineUnit → LineUnit) : OnlyTributary s (u.onLine t f) t :=
  h.thenOn _ (fun _ => rfl)

theorem OnlyTributary.thenTransmit {t : Fin 16} (h : OnlyTributary s u t) (f : Transmit → Transmit) : OnlyTributary s (u.onTransmit t f) t :=
  h.thenOn _ (fun _ => rfl)

theorem OnlyTributary.thenClocking {t : Fin 16} (h : OnlyTributary s u t) (f : Clocking → Clocking) : OnlyTributary s (u.onClocking t f) t :=
  h.thenOn _ (fun _ => rfl)

theorem OnlyTributary.thenFlag {t : Fin 16} (h : OnlyTributary s u t) (f : TributaryFlag) (d : Detail) :
    OnlyTributary s (u.raiseTributary t f d) t := h.thenRaise f d

theorem OnlyPort.thenOn {p : Port} (h : OnlyPort s u p) (f : PortState → PortState) (hf : ∀ k, (f k).entry = k.entry) :
    OnlyPort s (u.onPort p f) p := h.trans (.onPort u p f (hf _))

theorem OnlyPort.thenRaise {p : Port} (h : OnlyPort s u p) (f : PortFlag) (d : Detail) :
    OnlyPort s (u.raise (.port p f) d) p := h.trans (.raise u p f d)

theorem OnlyPort.thenCount {p : Port} (h : OnlyPort s u p) (k : PortCounter) : OnlyPort s (u.countPort p k) p :=
  h.thenOn _ (fun _ => rfl)

theorem OnlyPort.thenFlag {p : Port} (h : OnlyPort s u p) (f : PortFlag) (d : Detail) :
    OnlyPort s (u.raisePort p f d) p := h.thenRaise f d

/-! ### A list of changes -/

/-- What one change keeps, a list of changes keeps. -/
theorem forEach_induction {α : Type} (P : State → Prop) (f : α → State → State) (h : ∀ x s, P s → P (f x s)) (l : List α)
    (s : State) (hs : P s) : P (forEach l f s) := by
  induction l generalizing s with
  | nil => exact hs
  | cons x xs ih => exact ih _ (h x s hs)

/-- A relation that is reflexive and transitive and holds of one change holds of a list of changes. -/
theorem forEach_relation {α : Type} (R : State → State → Prop) (refl : ∀ s, R s s)
    (trans : ∀ {s u w}, R s u → R u w → R s w) (f : α → State → State) (h : ∀ x s, R s (f x s)) (l : List α) (s : State) :
    R s (forEach l f s) := by
  induction l generalizing s with
  | nil => exact refl s
  | cons x xs ih => exact trans (h x s) (ih _)

end Sys2Proof.Machine
end

