-- ==== Sys2Proof/Laws/Circuits.lean ====
section
/-! SUPPORT. What each operation on the blocks of a circuit leaves alone: only that circuit changes, and the clocking block of
the tributary it names. -/

namespace Sys2Proof.Machine

variable (s : State) (c : Fin 64)

theorem loseLock_only : OnlyCircuit s (s.loseLock c) c := by
  unfold State.loseLock
  try dsimp only
  repeat first
    | with_reducible exact .refl _ _ | with_reducible refine .thenFlag ?_ _ _
    | with_reducible refine .thenRecovery ?_ _ | split

theorem loopUpdate_only (m : Int) : OnlyCircuit s (s.loopUpdate c m) c := by
  unfold State.loopUpdate
  try dsimp only
  repeat first
    | with_reducible exact .refl _ _ | with_reducible refine .thenFlag ?_ _ _
    | with_reducible refine .thenRecovery ?_ _ | split

theorem enter_only (st : CircuitState) : OnlyCircuit s (s.enter c st) c := by
  unfold State.enter
  try dsimp only
  repeat first
    | with_reducible exact .refl _ _ | with_reducible refine .thenFlag ?_ _ _
    | with_reducible refine .thenControl ?_ _

theorem startStarvation_only : OnlyCircuit s (s.startStarvation c) c := by
  unfold State.startStarvation
  try dsimp only
  repeat first
    | with_reducible exact .refl _ _ | with_reducible refine .thenControl ?_ _

theorem startEngageTimer_only : OnlyCircuit s (s.startEngageTimer c) c := by
  unfold State.startEngageTimer
  try dsimp only
  repeat first
    | with_reducible exact .refl _ _ | with_reducible refine .thenControl ?_ _

theorem refreshActive_only : OnlyCircuit s (s.refreshActive c) c := by
  unfold State.refreshActive
  try dsimp only
  repeat first
    | with_reducible exact .refl _ _ | with_reducible refine .thenMerge ?_ _

theorem switchActive_only (p : Port) : OnlyCircuit s (s.switchActive c p) c := by
  unfold State.switchActive
  try dsimp only
  repeat first
    | with_reducible exact .refl _ _ | with_reducible refine .thenFlag ?_ _ _ | with_reducible refine .thenMerge ?_ _

theorem startHoldOff_only (p : Port) : OnlyCircuit s (s.startHoldOff c p) c := by
  unfold State.startHoldOff
  try dsimp only
  repeat first
    | with_reducible exact .refl _ _ | with_reducible refine .trans ?_ (switchActive_only _ _ _)
    | with_reducible refine .thenMerge ?_ _ | split

theorem activeAfterUp_only (p : Port) : OnlyCircuit s (s.activeAfterUp c p) c := by
  unfold State.activeAfterUp
  try dsimp only
  repeat first
    | with_reducible exact .refl _ _ | with_reducible refine .trans ?_ (startHoldOff_only _ _ _)
    | with_reducible refine .thenMerge ?_ _ | split

theorem activeAfterDown_only (p : Port) : OnlyCircuit s (s.activeAfterDown c p) c := by
  unfold State.activeAfterDown
  try dsimp only
  repeat first
    | with_reducible exact .refl _ _ | with_reducible refine .trans ?_ (switchActive_only _ _ _)
    | with_reducible refine .thenMerge ?_ _ | split

theorem pathAlive_only (p : Port) : OnlyCircuit s (s.pathAlive c p) c := by
  unfold State.pathAlive
  try dsimp only
  repeat first
    | with_reducible exact .refl _ _ | with_reducible refine .trans ?_ (activeAfterUp_only _ _ _)
    | with_reducible refine .thenFlag ?_ _ _ | with_reducible refine .thenMerge ?_ _ | split

theorem pathDown_only (p : Port) : OnlyCircuit s (s.pathDown c p) c := by
  unfold State.pathDown
  try dsimp only
  repeat first
    | with_reducible exact .refl _ _ | with_reducible refine .trans ?_ (activeAfterDown_only _ _ _)
    | with_reducible refine .thenFlag ?_ _ _ | with_reducible refine .thenMerge ?_ _ | split

/-! ### The change of the actual mode (R149, R156) -/

@[simp] theorem changeMode_entry (k : Tributary) (m : ClockMode) : (k.changeMode m).entry = k.entry := rfl

@[simp] theorem changeMode_line (k : Tributary) (m : ClockMode) : (k.changeMode m).line = k.line := rfl

@[simp] theorem changeMode_flags (k : Tributary) (m : ClockMode) : (k.changeMode m).flags = k.flags := rfl

@[simp] theorem changeMode_clocking (k : Tributary) (m : ClockMode) :
    (k.changeMode m).clocking = { k.clocking with actual := m } := rfl

/-- A change from a source other than LOOP leaves the bit in progress alone. -/
theorem changeMode_of_ne_loop (k : Tributary) (m : ClockMode) (h : k.clocking.actual ≠ .loop) :
    k.changeMode m = { k with clocking := { k.clocking with actual := m } } := by
  simp [Tributary.changeMode, h]

/-- The frame in progress and its parity pass a change of mode as they are; at most one bit ends by it. -/
theorem changeMode_transmit (k : Tributary) (m : ClockMode) :
    (k.changeMode m).transmit = k.transmit
    ∨ k.clocking.actual = .loop ∧ m ≠ .loop ∧ bitFine ≤ k.transmit.bitTime
      ∧ (k.changeMode m).transmit = { k.transmit with bits := k.transmit.bits + 1, bitTime := 0 } := by
  unfold Tributary.changeMode Transmit.leaveLoop
  dsimp only
  split
  · next h =>
    split
    · next e => exact .inr ⟨h.1, h.2, e, rfl⟩
    · exact .inl rfl
  · exact .inl rfl

/-- The change of R153 reaches the clocking block of the tributary the circuit names, and nothing else. -/
theorem timingLeavesPlaying_only (mean : Option Int) : OnlyCircuit s (s.timingLeavesPlaying c mean) c := by
  unfold State.timingLeavesPlaying
  split
  · exact .refl _ _
  · rename_i t ht
    have actual : ∀ (u : State) (m : ClockMode), OnlyCircuit s u c → (u.tributary t).clocking.actual ≠ .loop →
        OnlyCircuit s (u.setActual t m) c := by
      intro u m h k
      have hu : (u.circuit c).entry.tributary = some t := by rw [h.entry]; exact ht
      have e : u.onTributary t (fun k => k.changeMode m) = u.onClocking t (fun x => { x with actual := m }) := by
        simp only [State.onTributary, State.onClocking, changeMode_of_ne_loop _ _ k]
      unfold State.setActual
      rw [e]
      split
      · exact h
      · exact (h.trans (.clocking u c t _ hu)).trans (.raiseTributary _ c t _ _ hu)
    split
    · next h =>
      split
      · exact actual _ _ (.clocking s c t _ ht) (by simp [State.setHoldover, h.2])
      · exact actual _ _ (.refl _ _) (by simp [h.2])
    · exact .refl _ _

theorem leavesPlaying_only (was : CircuitState) (mean : Option Int) : OnlyCircuit s (s.leavesPlaying c was mean) c := by
  unfold State.leavesPlaying
  try dsimp only
  repeat first
    | with_reducible exact .refl _ _ | with_reducible refine .trans ?_ (timingLeavesPlaying_only _ _ _) | split

theorem anchor_only (x : Candidate) : OnlyCircuit s (s.anchor c x) c := by
  unfold State.anchor
  try dsimp only
  repeat first
    | with_reducible exact .refl _ _ | with_reducible refine .trans ?_ (leavesPlaying_only _ _ _ _)
    | with_reducible refine .trans ?_ (enter_only _ _ _) | with_reducible refine .trans ?_ (refreshActive_only _ _)
    | with_reducible refine .trans ?_ (startStarvation_only _ _)
    | with_reducible refine .trans ?_ (loseLock_only _ _) | with_reducible refine .thenCount ?_ _
    | with_reducible refine .thenControl ?_ _ | with_reducible refine .thenOn ?_ _ (fun _ => rfl) | split

theorem completeAcquisition_only (m : Int) : OnlyCircuit s (s.completeAcquisition c m) c := by
  have h := (((OnlyCircuit.refl s c).thenRecovery (fun r => r.shift m)).thenBuffer
    (fun b => { b with startMark := false })).trans (enter_only _ c .playing)
  simp only [State.completeAcquisition]
  split
  · exact h.thenFlag _ _
  · exact h.thenControl _

theorem enterSample_only (x : Int) : OnlyCircuit s (s.enterSample c x) c := by
  unfold State.enterSample
  try dsimp only
  repeat first
    | with_reducible exact .refl _ _ | with_reducible refine .trans ?_ (completeAcquisition_only _ _ _)
    | with_reducible refine .trans ?_ (loopUpdate_only _ _ _) | with_reducible refine .thenRecovery ?_ _ | split

theorem takeSample_only (x : Int) : OnlyCircuit s (s.takeSample c x) c := by
  unfold State.takeSample
  try dsimp only
  repeat first
    | with_reducible exact .refl _ _ | with_reducible refine .trans ?_ (enterSample_only _ _ _)
    | with_reducible refine .trans ?_ (startStarvation_only _ _)

theorem reenter_only (x : Int) : OnlyCircuit s (s.reenter c x) c := by
  unfold State.reenter
  try dsimp only
  repeat first
    | with_reducible exact .refl _ _ | with_reducible refine .trans ?_ (enterSample_only _ _ _)
    | with_reducible refine .trans ?_ (enter_only _ _ _) | with_reducible refine .trans ?_ (startStarvation_only _ _)
    | with_reducible refine .thenBuffer ?_ _

theorem starveAcquiring_only : OnlyCircuit s (s.starveAcquiring c) c := by
  unfold State.starveAcquiring
  try dsimp only
  repeat first
    | with_reducible exact .refl _ _ | with_reducible refine .trans ?_ (enter_only _ _ _)
    | with_reducible refine .trans ?_ (refreshActive_only _ _)
    | with_reducible refine .trans ?_ (startEngageTimer_only _ _) | with_reducible refine .thenOn ?_ _ (fun _ => rfl)

theorem starvePlaying_only : OnlyCircuit s (s.starvePlaying c) c := by
  unfold State.starvePlaying
  try dsimp only
  repeat first
    | with_reducible exact .refl _ _ | with_reducible refine .trans ?_ (timingLeavesPlaying_only _ _ _)
    | with_reducible refine .trans ?_ (loseLock_only _ _) | with_reducible refine .trans ?_ (enter_only _ _ _)
    | with_reducible refine .thenControl ?_ _ | with_reducible refine .thenRecovery ?_ _

theorem starve_only : OnlyCircuit s (s.starve c) c := by
  unfold State.starve
  try dsimp only
  repeat first
    | with_reducible exact .refl _ _ | with_reducible refine .trans ?_ (starveAcquiring_only _ _)
    | with_reducible refine .trans ?_ (starvePlaying_only _ _) | with_reducible refine .thenControl ?_ _ | split

theorem engage_only : OnlyCircuit s (s.engage c) c := by
  unfold State.engage
  try dsimp only
  repeat first
    | with_reducible exact .refl _ _ | with_reducible refine .trans ?_ (enter_only _ _ _)
    | with_reducible refine .trans ?_ (startEngageTimer_only _ _) | with_reducible refine .thenOn ?_ _ (fun _ => rfl)

theorem reacquire_only : OnlyCircuit s (s.reacquire c) c := by
  unfold State.reacquire
  try dsimp only
  repeat first
    | with_reducible exact .refl _ _ | with_reducible refine .trans ?_ (leavesPlaying_only _ _ _ _)
    | with_reducible refine .trans ?_ (enter_only _ _ _) | with_reducible refine .trans ?_ (refreshActive_only _ _)
    | with_reducible refine .trans ?_ (startEngageTimer_only _ _)
    | with_reducible refine .trans ?_ (loseLock_only _ _) | with_reducible refine .thenControl ?_ _
    | with_reducible refine .thenOn ?_ _ (fun _ => rfl)

theorem forcePath_only (p : Option Port) : OnlyCircuit s (s.forcePath c p) c := by
  unfold State.forcePath
  try dsimp only
  repeat first
    | with_reducible exact .refl _ _ | with_reducible refine .thenMerge ?_ _

theorem publishRtt_only (p : Port) (m : Nat) : OnlyCircuit s (s.publishRtt c p m) c := by
  unfold State.publishRtt
  try dsimp only
  repeat first
    | with_reducible exact .refl _ _ | with_reducible refine .thenFlag ?_ _ _
    | with_reducible refine .thenDelay ?_ _ _ | split

theorem keepRtt_only (p : Port) (x : Nat) : OnlyCircuit s (s.keepRtt c p x) c := by
  unfold State.keepRtt
  try dsimp only
  repeat first
    | with_reducible exact .refl _ _ | with_reducible refine .trans ?_ (publishRtt_only _ _ _ _)
    | with_reducible refine .thenDelay ?_ _ _ | split

theorem examineEcho_only (p : Port) (echoTs : Ticks) (capture : Ticks) (echoAge : Nat) : OnlyCircuit s (s.examineEcho c p echoTs capture echoAge) c := by
  unfold State.examineEcho
  try dsimp only
  repeat first
    | with_reducible exact .refl _ _ | with_reducible refine .trans ?_ (keepRtt_only _ _ _ _)
    | with_reducible refine .thenDelay ?_ _ _ | split

theorem skewSample_only (x : Int) : OnlyCircuit s (s.skewSample c x) c := by
  unfold State.skewSample
  try dsimp only
  repeat first
    | with_reducible exact .refl _ _ | with_reducible refine .thenFlag ?_ _ _ | with_reducible refine .thenMerge ?_ _
    | split

theorem takeSkew_only (x : Option Int) : OnlyCircuit s (s.takeSkew c x) c := by
  unfold State.takeSkew
  try dsimp only
  repeat first
    | with_reducible exact .refl _ _ | with_reducible refine .trans ?_ (skewSample_only _ _ _) | split

theorem stampMismatch_only (x : Candidate) : OnlyCircuit s (s.stampMismatch c x) c := by
  unfold State.stampMismatch
  try dsimp only
  repeat first
    | with_reducible exact .refl _ _ | with_reducible refine .trans ?_ (anchor_only _ _ _)
    | with_reducible refine .thenFlag ?_ _ _ | with_reducible refine .thenCount ?_ _
    | with_reducible refine .thenControl ?_ _ | split

theorem slideFor_only (seq : SeqNo) : OnlyCircuit s (s.slideFor c seq) c := by
  unfold State.slideFor
  try dsimp only
  repeat first
    | with_reducible exact .refl _ _ | with_reducible refine .thenBuffer ?_ _ | split

theorem takeClass_only (k : ArrivalClass) (x : Candidate) (sampled : Bool) : OnlyCircuit s (s.takeClass c k x sampled) c := by
  unfold State.takeClass
  try dsimp only
  repeat first
    | with_reducible exact .refl _ _ | with_reducible refine .thenCount ?_ _ | with_reducible refine .thenBuffer ?_ _

theorem lateRunAfter_only (k : ArrivalClass) : OnlyCircuit s (s.lateRunAfter c k) c := by
  unfold State.lateRunAfter
  try dsimp only
  repeat first
    | with_reducible exact .refl _ _ | with_reducible refine .thenControl ?_ _ | split

theorem takeFitting_only (x : Candidate) : OnlyCircuit s (s.takeFitting c x) c := by
  have h := slideFor_only s c x.seq
  unfold State.takeFitting
  generalize s.slideFor c x.seq = u at h ⊢
  dsimp only
  split
  · exact h
  · split
    · split
      · split
        · exact ((h.trans (takeClass_only _ c _ _ _)).trans (reenter_only _ c _)).trans (takeSkew_only _ c _)
        · exact h.trans (anchor_only _ c _)
      · split
        · exact (h.trans (takeClass_only _ c _ _ _)).trans (anchor_only _ c _)
        · exact (((h.trans (takeClass_only _ c _ _ _)).trans (lateRunAfter_only _ c _)).trans
            (takeSample_only _ c _)).trans (takeSkew_only _ c _)
    · exact (h.trans (takeClass_only _ c _ _ _)).trans (takeSkew_only _ c _)

theorem takeChecked_only (x : Candidate) : OnlyCircuit s (s.takeChecked c x) c := by
  unfold State.takeChecked
  try dsimp only
  repeat first
    | with_reducible exact .refl _ _ | with_reducible refine .trans ?_ (takeFitting_only _ _ _)
    | with_reducible refine .trans ?_ (stampMismatch_only _ _ _) | with_reducible refine .thenControl ?_ _ | split

theorem takeByState_only (x : Candidate) : OnlyCircuit s (s.takeByState c x) c := by
  unfold State.takeByState
  try dsimp only
  repeat first
    | with_reducible exact .refl _ _ | with_reducible refine .trans ?_ (takeChecked_only _ _ _)
    | with_reducible refine .trans ?_ (anchor_only _ _ _) | split

theorem faultAndEcho_only (p : Port) (x : Packet) (capture : Ticks) : OnlyCircuit s (s.faultAndEcho c p x capture) c := by
  unfold State.faultAndEcho
  try dsimp only
  repeat first
    | with_reducible exact .refl _ _ | with_reducible refine .trans ?_ (examineEcho_only _ _ _ _ _ _)
    | with_reducible refine .thenFlag ?_ _ _ | with_reducible refine .thenDelay ?_ _ _ | split

theorem takeArrival_only (p : Port) (x : Packet) (size : Nat) (capture : Ticks) : OnlyCircuit s (s.takeArrival c p x size capture) c := by
  unfold State.takeArrival
  try dsimp only
  repeat first
    | with_reducible exact .refl _ _ | with_reducible refine .trans ?_ (takeByState_only _ _ _)
    | with_reducible refine .trans ?_ (faultAndEcho_only _ _ _ _ _)
    | with_reducible refine .trans ?_ (pathAlive_only _ _ _) | with_reducible refine .thenCount ?_ _

/-! ### The frame start rule -/

theorem advancePointer_only : OnlyCircuit s (s.advancePointer c) c := by
  unfold State.advancePointer
  try dsimp only
  repeat first
    | with_reducible exact .refl _ _ | with_reducible refine .thenCount ?_ _ | with_reducible refine .thenBuffer ?_ _
    | split

theorem skipFrame_only : OnlyCircuit s (s.skipFrame c) c := by
  unfold State.skipFrame
  try dsimp only
  repeat first
    | with_reducible exact .refl _ _ | with_reducible refine .trans ?_ (advancePointer_only _ _)
    | with_reducible refine .thenFlag ?_ _ _ | with_reducible refine .thenCount ?_ _ | split

theorem skipFrames_only (n : Nat) : OnlyCircuit s (State.skipFrames c n s) c := by
  induction n generalizing s with
  | zero => exact .refl _ _
  | succ n ih => exact (skipFrame_only s c).trans (ih _)

theorem repeatFrame_only (n : Nat) : OnlyCircuit s (s.repeatFrame c n).1 c := by
  unfold State.repeatFrame
  try dsimp only
  repeat first
    | with_reducible exact .refl _ _ | with_reducible refine .thenFlag ?_ _ _ | with_reducible refine .thenCount ?_ _
    | split

theorem deliverFrame_only (x : Pointer) (idle : Byte) (n : Nat) : OnlyCircuit s (s.deliverFrame c x idle n).1 c := by
  unfold State.deliverFrame
  try dsimp only
  repeat first
    | with_reducible exact .refl _ _ | with_reducible refine .trans ?_ (advancePointer_only _ _)
    | with_reducible refine .thenCount ?_ _ | with_reducible refine .thenBuffer ?_ _ | split

theorem playFrame_only (idle : Byte) (rt : Ticks) : OnlyCircuit s (s.playFrame c idle rt).1 c := by
  unfold State.playFrame
  try dsimp only
  repeat first
    | with_reducible exact .refl _ _ | with_reducible refine .trans ?_ (repeatFrame_only _ _ _)
    | with_reducible refine .trans ?_ (deliverFrame_only _ _ _ _ _)
    | with_reducible refine .trans ?_ (skipFrames_only _ _ _) | with_reducible refine .thenBuffer ?_ _ | split

/-! ### The instant of a frame start -/

/-- What the RT a frame start reads depends on: RT and the rate of the circuit's latest tick, the time since the bit edge and the
rate at which it was counted. No FREQ, no clock mode and no H is among them. -/
theorem rtAtFrameStart_congr {s u : State} {t : Fin 16} {c : Fin 64}
    (rt : (u.circuit c).recovery.rt = (s.circuit c).recovery.rt)
    (freq : (u.circuit c).recovery.tickFreq = (s.circuit c).recovery.tickFreq)
    (x : (u.tributary t).transmit = (s.tributary t).transmit) : u.rtAtFrameStart t c = s.rtAtFrameStart t c := by
  simp only [State.rtAtFrameStart, rt, freq, x]

/-- R129, R145: an event of circuit `c` that leaves its RT and the rate of its latest tick alone moves the RT of no frame start. -/
theorem OnlyCircuit.rtAtFrameStart {s u : State} {c : Fin 64} (h : OnlyCircuit s u c)
    (rt : (u.circuit c).recovery.rt = (s.circuit c).recovery.rt)
    (freq : (u.circuit c).recovery.tickFreq = (s.circuit c).recovery.tickFreq) (t : Fin 16) (d : Fin 64) :
    u.rtAtFrameStart t d = s.rtAtFrameStart t d := by
  by_cases e : d = c
  · subst e; exact rtAtFrameStart_congr rt freq (h.lines t).2.2
  · exact rtAtFrameStart_congr (by rw [h.others d e]) (by rw [h.others d e]) (h.lines t).2.2

/-- A tick leaves the timing circuit of an ADAPTIVE tributary and its bit timing with one rate (R148). -/
theorem tick_tickRate_of_adaptive (x : Transmit) (r : Recovery) :
    (x.tick (some r.freq)).tickRate = fineRate r.tick.tickFreq := by
  simp only [Transmit.tick]; split <;> rfl

/-- R158: a circuit whose RT advances as the source of the bit timing does reads RT less the time the bit in progress has had, to
the fine tick. -/
theorem rtAtFrameStart_of_rate_eq (t : Fin 16)
    (h : (s.tributary t).transmit.tickRate = fineRate (s.circuit c).recovery.tickFreq)
    (hf : -2 ^ 27 < (s.circuit c).recovery.tickFreq) :
    s.rtAtFrameStart t c
      = rtInt ((s.circuit c).recovery.rt.getD 0 - BitVec.ofNat 59 (s.tributary t).transmit.bitTime) := by
  have hr : 0 < fineRate (s.circuit c).recovery.tickFreq := by unfold fineRate; omega
  simp only [State.rtAtFrameStart, h]
  rw [Nat.mul_div_cancel _ hr]

end Sys2Proof.Machine
end

