-- ==== Sys2Proof/Laws/Lines.lean ====
section
/-! SUPPORT. What each operation on a tributary leaves alone: only that tributary changes; and what a receive frame event
leaves alone. -/

namespace Sys2Proof.Machine

variable (s : State) (t : Fin 16)

theorem setActual_only (m : ClockMode) : OnlyTributary s (s.setActual t m) t := by
  unfold State.setActual
  try dsimp only
  repeat first
    | with_reducible exact .refl _ _ | with_reducible refine .thenFlag ?_ _ _
    | with_reducible refine .thenOn ?_ _ (fun _ => rfl) | split

/-- R149, R156: the mode in force already changes nothing; another is entered with its flag. -/
theorem setActual_cases (m : ClockMode) :
    ((s.tributary t).clocking.actual = m ∧ s.setActual t m = s)
    ∨ ((s.tributary t).clocking.actual ≠ m
      ∧ s.setActual t m = (s.onTributary t (fun k => k.changeMode m)).raise (.tributary t .clockModeChange) (.clockMode m)) := by
  unfold State.setActual
  split
  · next h => exact .inl ⟨h, rfl⟩
  · next h => exact .inr ⟨h, rfl⟩

theorem setHoldover_only (h : Int) : OnlyTributary s (s.setHoldover t h) t := by
  unfold State.setHoldover
  try dsimp only
  repeat first
    | with_reducible exact .refl _ _ | with_reducible refine .thenClocking ?_ _

theorem loopFollows_only : OnlyTributary s (s.loopFollows t) t := by
  unfold State.loopFollows
  try dsimp only
  repeat first
    | with_reducible exact .refl _ _ | with_reducible refine .trans ?_ (setActual_only _ _ _) | split

theorem refreshHoldover_only : OnlyTributary s (s.refreshHoldover t) t := by
  unfold State.refreshHoldover
  try dsimp only
  repeat first
    | with_reducible exact .refl _ _ | with_reducible refine .trans ?_ (setHoldover_only _ _ _) | split

theorem applyClockTable_only : OnlyTributary s (s.applyClockTable t) t := by
  unfold State.applyClockTable
  try dsimp only
  repeat first
    | with_reducible exact .refl _ _ | with_reducible refine .trans ?_ (refreshHoldover_only _ _)
    | with_reducible refine .thenOn ?_ _ (fun _ => rfl) | split

theorem loopBit_only : OnlyTributary s (s.loopBit t) t := by
  unfold State.loopBit
  try dsimp only
  repeat first
    | with_reducible exact .refl _ _ | with_reducible refine .thenTransmit ?_ _ | split

theorem clearRemoteAlarm_only : OnlyTributary s (s.clearRemoteAlarm t) t := by
  unfold State.clearRemoteAlarm
  try dsimp only
  repeat first
    | with_reducible exact .refl _ _ | with_reducible refine .thenFlag ?_ _ _ | with_reducible refine .thenLine ?_ _
    | split

theorem loseAlignment_only (search : SearchPhase) : OnlyTributary s (s.loseAlignment t search) t := by
  unfold State.loseAlignment
  try dsimp only
  repeat first
    | with_reducible exact .refl _ _ | with_reducible refine .trans ?_ (clearRemoteAlarm_only _ _)
    | with_reducible refine .thenFlag ?_ _ _ | with_reducible refine .thenLine ?_ _

theorem declareLoss_only : OnlyTributary s (s.declareLoss t) t := by
  simp only [State.declareLoss]
  refine .trans ?_ (loopFollows_only _ _)
  split
  · exact (((OnlyTributary.refl s t).thenLine _).thenFlag _ _).trans (loseAlignment_only _ _ _)
  · exact ((OnlyTributary.refl s t).thenLine _).thenFlag _ _

theorem clearLoss_only : OnlyTributary s (s.clearLoss t) t :=
  (((OnlyTributary.refl s t).thenLine _).thenFlag _ _).trans (loopFollows_only _ _)

theorem signalBit_only (b : Bool) : OnlyTributary s (s.signalBit t b) t := by
  unfold State.signalBit
  extract_lets u run ones
  clear_value u run ones
  split
  · split
    · exact declareLoss_only s t
    · exact (OnlyTributary.refl s t).thenLine _
  · split
    · exact (OnlyTributary.refl s t).thenLine _
    · split
      · exact clearLoss_only s t
      · exact (OnlyTributary.refl s t).thenLine _

theorem aisBit_only (b : Bool) : OnlyTributary s (s.aisBit t b) t := by
  unfold State.aisBit
  extract_lets u zeros now s₁
  have h₁ : OnlyTributary s s₁ t := (OnlyTributary.refl s t).thenLine _
  clear_value u zeros now s₁
  split
  · exact (OnlyTributary.refl s t).thenLine _
  · split
    · exact h₁
    · exact h₁.thenFlag _ _

theorem declareAlignment_only : OnlyTributary s (s.declareAlignment t) t :=
  ((OnlyTributary.refl s t).thenLine _).thenFlag _ _

theorem searchBit_only (b : Bool) : OnlyTributary s (s.searchBit t b) t := by
  unfold State.searchBit
  extract_lets u n hunt
  have hh : OnlyTributary s hunt t := (OnlyTributary.refl s t).thenLine _
  clear_value u n hunt
  split
  · exact .refl s t
  · split <;> exact (OnlyTributary.refl s t).thenLine _
  · split
    · exact (OnlyTributary.refl s t).thenLine _
    · split
      · exact (OnlyTributary.refl s t).thenLine _
      · exact hh
  · split
    · exact (OnlyTributary.refl s t).thenLine _
    · split
      · exact declareAlignment_only s t
      · exact hh

theorem alarmBit_only (b : Bool) : OnlyTributary s (s.alarmBit t b) t := by
  unfold State.alarmBit
  extract_lets u indicated run
  clear_value u indicated run
  split
  · exact (OnlyTributary.refl s t).thenLine _
  · split
    · exact ((OnlyTributary.refl s t).thenLine _).thenFlag _ _
    · exact (OnlyTributary.refl s t).thenLine _

theorem wordCheck_only : OnlyTributary s (s.wordCheck t) t := by
  unfold State.wordCheck
  extract_lets u
  clear_value u
  split
  · exact (OnlyTributary.refl s t).thenLine _
  · split
    · exact (OnlyTributary.refl s t).thenLine _
    · exact loseAlignment_only s t _

theorem restartFraming_only : OnlyTributary s (s.restartFraming t) t := by
  unfold State.restartFraming
  extract_lets k signal was now live s₁ s₂
  have h₁ : OnlyTributary s s₁ t := (OnlyTributary.refl s t).thenLine _
  have h₂ : OnlyTributary s s₂ t := by
    simp only [s₂]
    split
    · exact h₁.thenFlag _ _
    · exact h₁
  exact h₂.trans (clearRemoteAlarm_only _ t)

end Sys2Proof.Machine
end

