-- ==== Sys2Proof/Laws/Ops.lean ====
section
/-! SUPPORT. What the shared arithmetic can answer: bounds of clamped values, lists that hold at most n, octets and the
numbers they spell, free orders, and reads of a counted row. -/

namespace Sys2Proof.Machine

/-! ### Clamped values -/

theorem clampInt_mem {low high : Int} (h : low ≤ high) (v : Int) : low ≤ clampInt low high v ∧ clampInt low high v ≤ high := by
  unfold clampInt; split_ifs <;> omega

theorem clampInt_eq {low high : Int} (h : low ≤ high) (v : Int) : clampInt low high v = max low (min high v) := by
  unfold clampInt; split_ifs <;> omega

theorem clampNat_mem {low high : Nat} (h : low ≤ high) (v : Nat) : low ≤ clampNat low high v ∧ clampNat low high v ≤ high := by
  unfold clampNat; split_ifs <;> omega

theorem clampNat_eq {low high : Nat} (h : low ≤ high) (v : Nat) : clampNat low high v = max low (min high v) := by
  unfold clampNat; split_ifs <;> omega

theorem clampNat_of_mem {low high v : Nat} (h : low ≤ v) (k : v ≤ high) : clampNat low high v = v := by
  unfold clampNat; split_ifs <;> omega

/-- R137. -/
theorem sat_mem (v : Int) : -32768 ≤ sat v ∧ sat v ≤ 32767 := clampInt_mem (by decide) v

/-- R136. -/
theorem loopError_mem (m : Int) : -2047 ≤ loopError m ∧ loopError m ≤ 2047 := clampInt_mem (by decide) (-m)

/-! ### Counters -/

theorem le_countUp (n : Nat) : n ≤ countUp n := by unfold countUp; split_ifs <;> omega

theorem countUp_le {n : Nat} (h : n ≤ 4294967295) : countUp n ≤ 4294967295 := by unfold countUp; split_ifs <;> omega

theorem get_bump_self {n : Nat} (v : Vector Nat n) (i : Fin n) : (bump v i).get i = countUp (v.get i) := by
  simp [bump, Vector.get_eq_getElem]

theorem get_bump_of_ne {n : Nat} (v : Vector Nat n) {i j : Fin n} (h : j ≠ i) : (bump v i).get j = v.get j := by
  have : i.val ≠ j.val := fun e => h (Fin.ext e.symm)
  simp [bump, Vector.get_eq_getElem, Vector.getElem_set_ne, this]

theorem CircuitCounter.place_injective {x y : CircuitCounter} (h : x.place = y.place) : x = y := by
  revert h
  cases x <;> cases y <;> (try rename_i p; cases p) <;> (try rename_i q; cases q) <;> simp [CircuitCounter.place]

theorem PortCounter.place_injective {x y : PortCounter} (h : x.place = y.place) : x = y := by
  revert h
  cases x <;> cases y <;> simp [PortCounter.place]

/-! ### Lists that hold at most n -/

theorem length_pushBounded_le {α : Type} {n : Nat} {l : List α} (x : α) : (pushBounded n l x).length ≤ n := by
  simp [pushBounded]; omega

theorem pushBounded_ne_nil {α : Type} {n : Nat} {l : List α} (x : α) (k : 0 < n) :
    pushBounded n l x ≠ [] := by
  intro h
  have := congrArg List.length h
  simp [pushBounded] at this
  omega

theorem mem_pushBounded {α : Type} {n : Nat} {l : List α} {x y : α} (h : y ∈ pushBounded n l x) : y ∈ l ∨ y = x := by
  have := List.mem_of_mem_drop h
  simpa using this

/-- While there is room, an entry is only added (R77, R104, R114, R142). -/
theorem pushBounded_of_lt {α : Type} {n : Nat} {l : List α} (x : α) (h : l.length < n) : pushBounded n l x = l ++ [x] := by
  have : l.length + 1 - n = 0 := by omega
  simp [pushBounded, this]

/-! ### Means -/

theorem meanTowardZero_eq_none {l : List Int} : meanTowardZero l = none ↔ l = [] := by
  unfold meanTowardZero; cases l <;> simp

/-- A mean lies in any range that holds its numbers and 0 (R143). -/
theorem meanTowardZero_mem {l : List Int} {m low high : Int} (hl : low ≤ 0) (hh : 0 ≤ high)
    (h : ∀ x ∈ l, low ≤ x ∧ x ≤ high) (k : meanTowardZero l = some m) : low ≤ m ∧ m ≤ high := by
  have bounds : ∀ l : List Int, (∀ x ∈ l, low ≤ x ∧ x ≤ high) → low * l.length ≤ l.sum ∧ l.sum ≤ high * l.length := by
    intro l
    induction l with
    | nil => simp
    | cons a l ih =>
      intro h
      have h1 := h a (by simp)
      have h2 := ih (fun x hx => h x (by simp [hx]))
      simp only [List.sum_cons, List.length_cons, Nat.cast_add, Nat.cast_one, mul_add, mul_one]
      omega
  unfold meanTowardZero at k
  cases l with
  | nil => simp at k
  | cons a t =>
    have b := bounds (a :: t) h
    have pos : (0 : Int) < ((a :: t).length : Int) := by simp
    simp only [List.isEmpty_cons, Bool.false_eq_true, if_false, Option.some.injEq] at k
    subst k
    generalize (a :: t).sum = x at b ⊢
    generalize ((a :: t).length : Int) = n at b pos ⊢
    rcases Int.le_total 0 x with hx | hx
    · have h1 : x.tdiv n = x / n := Int.tdiv_eq_ediv_of_nonneg hx
      rw [h1]
      exact ⟨hl.trans (Int.ediv_nonneg hx pos.le), Int.ediv_le_of_le_mul pos b.2⟩
    · have h1 : x.tdiv n = -((-x) / n) := by
        rw [show x = -(-x) by ring, Int.neg_tdiv, Int.tdiv_eq_ediv_of_nonneg (by omega)]; simp
      rw [h1]
      have h2 : 0 ≤ (-x) / n := Int.ediv_nonneg (by omega) pos.le
      have h3 : (-x) / n ≤ -low := Int.ediv_le_of_le_mul pos (by nlinarith [b.1])
      omega

/-! ### Octets (chapter 12) -/

@[simp] theorem length_octets (n v : Nat) : (octets n v).length = n := by
  induction n generalizing v with
  | zero => rfl
  | succ n ih => simp [octets, ih]

theorem number_append (l : List Byte) (b : Byte) : number (l ++ [b]) = number l * 256 + b.toNat := by
  simp [number, List.foldl_append]

theorem number_octets (n v : Nat) : number (octets n v) = v % 256 ^ n := by
  induction n generalizing v with
  | zero => simp [octets, number, Nat.mod_one]
  | succ n ih =>
    rw [octets, number_append, ih, pow_succ']
    simp only [BitVec.toNat_ofNat, Nat.reducePow]
    rw [Nat.mod_mul]
    omega

theorem number_lt (l : List Byte) : number l < 256 ^ l.length := by
  induction l using List.reverseRecOn with
  | nil => simp [number]
  | append_singleton l b ih =>
    rw [number_append, List.length_append, List.length_singleton, pow_succ]
    have := b.isLt
    omega

/-- The number read at an offset that octets written there follow. -/
theorem numberAt_append {front back : List Byte} {n v : Nat} {offset : Nat} (h : front.length = offset) :
    numberAt (front ++ octets n v ++ back) offset n = v % 256 ^ n := by
  subst h
  simp [numberAt, List.append_assoc, number_octets]

theorem length_padFrame (o : List Byte) : 60 ≤ (padFrame o).length := by simp [padFrame]; omega

theorem padFrame_prefix (o : List Byte) : o <+: padFrame o := ⟨_, rfl⟩

/-! ### Free orders (log 2) -/

theorem insertAt_perm {α : Type} (x : α) (l : List α) (n : Nat) : (insertAt x l n).Perm (x :: l) := by
  induction l generalizing n with
  | nil => cases n <;> simp [insertAt]
  | cons y l ih =>
    cases n with
    | zero => simp [insertAt]
    | succ n => exact ((ih n).cons y).trans (List.Perm.swap x y l)

/-- A free order holds every element once, whatever the choices are. -/
theorem freeOrder_perm {α : Type} (n : Nat) (l : List α) : (freeOrder n l).Perm l := by
  induction l generalizing n with
  | nil => simp [freeOrder]
  | cons x l ih =>
    have h := ih (n + 1)
    simp only [freeOrder]
    split
    · next e => rw [e] at h; rw [List.nil_perm.mp h]
    · next ys _ => exact (insertAt_perm x _ _).trans (h.cons x)

/-! ### Sequence and slot places (R100, R108) -/

theorem slotPlace_val {depth : Nat} (h : 0 < depth) (k : depth ≤ 128) (q : SeqNo) :
    (slotPlace depth q).val = q.toNat % depth := by
  have := Nat.mod_lt q.toNat h
  simp [slotPlace, Fin.ofNat]
  omega

end Sys2Proof.Machine
end

