-- ==== Sys2Proof/Laws/Queues.lean ====
section
/-! SUPPORT. What the shared operations of the ports' queues can do (R56, R76, R78, R81, R82, R174), and of
the requests of a management frame (R171, R172). -/

namespace Sys2Proof.Machine

variable (s : State) (p : Port) (c : Fin 64)

/-! ### One copy -/

theorem queueCopy_cases (x : Copy) :
    ((s.port p).circuitQueue.length < 64
      ∧ s.queueCopy p x = s.onPort p (fun k => { k with circuitQueue := k.circuitQueue ++ [x] }))
    ∨ (64 ≤ (s.port p).circuitQueue.length
      ∧ s.queueCopy p x = (s.countPort p .txDrops).raise (.port p .txDrop) (.circuit x.circuit)) := by
  unfold State.queueCopy
  split
  · next h => exact .inl ⟨h, rfl⟩
  · next h => exact .inr ⟨by omega, rfl⟩

theorem queueCopy_only (x : Copy) : OnlyPort s (s.queueCopy p x) p := by
  rcases queueCopy_cases s p x with ⟨_, h⟩ | ⟨_, h⟩ <;> rw [h]
  · exact (OnlyPort.refl s p).thenOn _ (fun _ => rfl)
  · exact ((OnlyPort.refl s p).thenCount _).thenRaise _ _

theorem length_queueCopy_le (x : Copy) (h : (s.port p).circuitQueue.length ≤ 64) :
    ((s.queueCopy p x).port p).circuitQueue.length ≤ 64 := by
  rcases queueCopy_cases s p x with ⟨k, e⟩ | ⟨_, e⟩ <;> rw [e]
  · simp; omega
  · simpa [countPort_eq] using h

theorem makeCopy_cases (a : Assembly) (seq : SeqNo) (r : Bool) :
    s.makeCopy c a seq r p = s
    ∨ s.makeCopy c a seq r p = s.count c (.notSent p)
    ∨ ∃ record, (s.circuit c).entry.paths.get p = some record ∧ (s.port p).link = .up
      ∧ s.makeCopy c a seq r p = s.queueCopy p
        ⟨c, record, seq, a.ts, (s.circuit c).entry.frames, a.faulted, r, a.octets⟩ := by
  unfold State.makeCopy
  split
  · exact .inl rfl
  · next record h =>
    split
    · next k => exact .inr (.inr ⟨record, h, k, rfl⟩)
    · exact .inr (.inl rfl)

/-! ### The queues of a port -/

theorem removeCopies_port :
    ((s.removeCopies c).port p) = { s.port p with circuitQueue := (s.port p).circuitQueue.filter (fun x => x.circuit != c) } := by
  cases p <;> rfl

@[simp] theorem removeCopies_circuits : (s.removeCopies c).circuits = s.circuits := rfl
@[simp] theorem removeCopies_tributaries : (s.removeCopies c).tributaries = s.tributaries := rfl
@[simp] theorem removeCopies_lt : (s.removeCopies c).lt = s.lt := rfl
@[simp] theorem removeCopies_events : (s.removeCopies c).events = s.events := rfl
@[simp] theorem removeCopies_overflow : (s.removeCopies c).overflow = s.overflow := rfl
@[simp] theorem removeCopies_answer : (s.removeCopies c).answer = s.answer := rfl
@[simp] theorem removeCopies_draws : (s.removeCopies c).draws = s.draws := rfl
@[simp] theorem removeCopies_pending : (s.removeCopies c).pending = s.pending := rfl

/-- R82: flushing changes the two queues of the port and the not-sent counts of the copies' circuits. -/
theorem flushQueues_port :
    (s.flushQueues p).ports = (s.onPort p (fun k => { k with circuitQueue := [], responseQueue := [] })).ports :=
  forEach_induction (fun u => u.ports = (s.onPort p (fun k => { k with circuitQueue := [], responseQueue := [] })).ports)
    (fun (x : Copy) u => u.count x.circuit (.notSent p)) (fun _ _ h => h) _ _ rfl

theorem flushQueues_run : SameRun s (s.flushQueues p) ∧ (s.flushQueues p).tributaries = s.tributaries
    ∧ (s.flushQueues p).events = s.events ∧ (s.flushQueues p).overflow = s.overflow :=
  forEach_induction (fun u => SameRun s u ∧ u.tributaries = s.tributaries ∧ u.events = s.events ∧ u.overflow = s.overflow)
    (fun (x : Copy) u => u.count x.circuit (.notSent p)) (fun _ _ h => ⟨⟨h.1.lt, h.1.answer, h.1.draws, h.1.pending⟩, h.2⟩) _ _ ⟨⟨rfl, rfl, rfl, rfl⟩, rfl, rfl, rfl⟩

/-- R82: flushing changes nothing of a circuit but its counters. -/
theorem flushQueues_circuit : (s.flushQueues p).circuit c = { s.circuit c with counters := ((s.flushQueues p).circuit c).counters } :=
  forEach_induction (fun u => u.circuit c = { s.circuit c with counters := (u.circuit c).counters })
    (fun (x : Copy) u => u.count x.circuit (.notSent p)) (fun x u h => by
      rcases eq_or_ne c x.circuit with rfl | hc
      · rw [count_eq, circuit_onCircuit_self, h]
      · rw [count_eq, circuit_onCircuit_of_ne _ _ hc]; exact h) _ _ rfl

/-! ### The requests of a management frame -/

/-- R171, R172: each announced request gives one result. -/
theorem executeRequests_length (n : Nat) : ∀ (o : Option (List Byte)) (full : Bool) (used : Nat) (s : State),
    (executeRequests n o full used s).2.length = n := by
  induction n with
  | zero => intro o full used s; rfl
  | succ n ih =>
    intro o full used s
    unfold executeRequests
    dsimp only
    repeat' split
    all_goals simp [ih]

/-- R171: what executing and answering one request keeps, the requests of a frame keep. -/
theorem executeRequests_induction (P : State → Prop)
    (h : ∀ (r : Request) (s : State), P s → P ((s.execute r).1.answered (s.execute r).2)) (n : Nat) :
    ∀ (o : Option (List Byte)) (full : Bool) (used : Nat) (s : State), P s → P (executeRequests n o full used s).1 := by
  induction n with
  | zero => intro o full used s hs; exact hs
  | succ n ih =>
    intro o full used s hs
    unfold executeRequests
    dsimp only
    repeat' split
    all_goals first
      | exact ih _ _ _ _ hs
      | exact ih _ _ _ _ (h _ _ hs)

end Sys2Proof.Machine
end

