-- ==== Sys2Proof/WellFormed.lean ====
section
/-! DEFINITION. Which commands a sender can send: the limits the manual's formats and time arithmetic put on operands
that their types do not. The meanings are total and do not rest on this check. -/

namespace Sys2Proof

/-- A field item's value fits the one-octet item length, and all items fit the two-octet record length with its five
fixed octets (R190). -/
def wellFormedItems (items : List FieldItem) : Bool :=
  items.all (fun i => i.value.length ≤ 255)
    && decide ((items.map (fun i => i.value.length + 2)).sum + 5 ≤ 65535)

/-- A line command brings at least one bit (an event happens at a bit: R2 to R8); an arrival is taken within the span
in which captures are ordered (R22, R131); the items of a write fit a record (R190). -/
def Instr.wellFormed : Instr → Bool
  | .powerOn _ => true
  | .lossOfSignalDeclared _ bits => !bits.isEmpty
  | .lossOfSignalCleared _ bits => !bits.isEmpty
  | .aisBlockEnd _ bits => !bits.isEmpty
  | .alignmentDeclared _ bits => !bits.isEmpty
  | .alignmentLost _ bits => !bits.isEmpty
  | .remoteAlarmStateChange _ bits => !bits.isEmpty
  | .receiveFrameEvent _ bits => !bits.isEmpty
  | .generatedFrameEvent _ => true
  | .transmitFrameStart _ => true
  | .linkUp _ => true
  | .linkDown _ => true
  | .frameArrival _ age _ => decide (age.toNat < 2 ^ 31)
  | .copyDeparture _ => true
  | .responseDeparture _ => true
  | .engageTimerExpiry _ => true
  | .starvationTimerExpiry _ => true
  | .pathTimerExpiry _ _ => true
  | .restoreHoldOffExpiry _ => true
  | .managementFrame _ => true
  | .tableRead _ _ _ => true
  | .tableWrite _ _ items => wellFormedItems items
  | .engage _ => true
  | .release _ => true
  | .reacquire _ => true
  | .forcePath _ _ => true
  | .statusRead _ _ => true
  | .countersRead _ _ _ => true
  | .flagsClear _ _ _ => true
  | .eventsTake _ => true
  | .restart => true
  | .lastOctetSent _ => true

end Sys2Proof
end

