-- ==== Sys2Proof/Tests/Slice0.lean ====
section
/-! SUPPORT. Tests: the ill-formed commands the check refuses; one-step tests whose expected values are the manual's worked
examples and tables; and for each statement with hypotheses a concrete state and operands that meet them. -/

open Sys2Proof Sys2Proof.Machine

namespace Sys2Proof.Tests

/-! ### Small states -/

/-- The entry most tests use: timeslots 1 to 3 of tributary 0, F 2, in-label 5, depth 8, PD 4, W 16, path A present. -/
def demoEntry : CircuitEntry :=
  { tributary := some 0, slotSet := 0b1110, frames := 2, inLabel := 5, depth := 8, playoutDelay := 4, window := 16
    paths := ⟨some ⟨1, 7, none⟩, none⟩ }

/-- The reset state with circuit 0 on a FRAMED tributary 0, and the given changes to circuit 0, tributary 0 and port A. -/
def demo (f : Circuit → Circuit := id) (g : Tributary → Tributary := id) (p : PortState → PortState := id) : State :=
  (((State.reset.onTributary 0 (fun k => g { k with entry := { k.entry with framing := .framed } })).onCircuit 0
    (fun k => f { k with entry := demoEntry })).onPort .A p)

/-- Circuit 0 in a state other than DISABLED, with its packetizer running. -/
def inState (st : CircuitState) (k : Circuit) : Circuit :=
  { k with control := { k.control with state := st }, packetizer := { k.packetizer with phase := .armed } }

/-- Circuit 0 with its pointer at sequence 10, frame 0, stamp 20,480, and recovered time at the given tick value. -/
def pointed (st : CircuitState) (rt : Nat) (k : Circuit) : Circuit :=
  { inState st k with
    buffer := { k.buffer with pointer := some ⟨10, 0, 20480⟩ }
    recovery := { k.recovery with rt := some (BitVec.ofNat 59 (rt * 2 ^ 27)) } }

/-- Tributary 0 with a line unit. -/
def withLine (f : LineUnit → LineUnit) (k : Tributary) : Tributary := { k with line := f k.line }

/-- Tributary 0 ALIGNED with signal. -/
def aligned (u : LineUnit) : LineUnit := { u with signal := .present, alignment := .aligned, source := .line }

/-- Port A with its link UP. -/
def linkUp (k : PortState) : PortState := { k with link := .up }

/-- A copy of circuit 0 with the given sequence number: F 2, a payload of 6 octets. -/
def copy (q : SeqNo) : Copy := ⟨0, ⟨1, 7, none⟩, q, 20480, 2, false, false, [1, 2, 3, 4, 5, 6]⟩

/-- An arrival of circuit 0 on path A with the stamp that fits the pointer of `pointed` plus an excess. -/
def candidate (q : SeqNo) (excess : Ticks := 0) : Candidate :=
  ⟨q, expectedStamp 10 20480 2 q + excess, false, false, [1, 2, 3, 4, 5, 6], .A, 0⟩

/-- A circuit packet for circuit 0 as R186 to R189 lay it out: sequence 10, TS 20,480, F 2, payload of 6 octets, on path A. -/
def packet : List Byte :=
  [1, 1, 0, 5, 0x00, 2, 0, 10, 0, 0, 0x50, 0, 0, 0, 0, 0, 0, 0, 0, 6, 1, 2, 3, 4, 5, 6]

/-- The trunk frame that carries octets to port A's power-on station address with the power-on frame type value. -/
def frame (o : List Byte) : List Byte := padFrame ([0x02, 0x4C, 0x45, 0, 0, 0, 2, 0, 0, 0, 0, 9, 0xB7, 0xA4] ++ o)

/-- What a command makes of a state. -/
def after (i : Instr) (s : State) : State :=
  match exec i s with
  | .next u => u
  | _ => s

/-! ### Ill-formed commands are refused by the check -/

theorem test_ill_formed_lossOfSignalDeclared : (Instr.lossOfSignalDeclared 0 []).wellFormed = false := by decide
theorem test_ill_formed_lossOfSignalCleared : (Instr.lossOfSignalCleared 0 []).wellFormed = false := by decide
theorem test_ill_formed_aisBlockEnd : (Instr.aisBlockEnd 0 []).wellFormed = false := by decide
theorem test_ill_formed_alignmentDeclared : (Instr.alignmentDeclared 0 []).wellFormed = false := by decide
theorem test_ill_formed_alignmentLost : (Instr.alignmentLost 0 []).wellFormed = false := by decide
theorem test_ill_formed_remoteAlarmStateChange : (Instr.remoteAlarmStateChange 0 []).wellFormed = false := by decide
theorem test_ill_formed_receiveFrameEvent : (Instr.receiveFrameEvent 0 []).wellFormed = false := by decide
theorem test_ill_formed_frameArrival : (Instr.frameArrival .A 0x80000000 []).wellFormed = false := by decide
theorem test_ill_formed_item : (Instr.tableWrite 1 0 [⟨3, List.replicate 256 0⟩]).wellFormed = false := by decide +kernel
theorem test_ill_formed_record : (Instr.tableWrite 1 0 (List.replicate 256 ⟨3, List.replicate 255 0⟩)).wellFormed = false := by
  decide +kernel
theorem test_well_formed_write : (Instr.tableWrite 1 0 [⟨3, [8]⟩]).wellFormed = true := by decide

/-! ### Arithmetic: the tables of chapters 2 and 3 -/

/-- The table under R23. -/
theorem test_signed_differences :
    signed32 5000 4294966296 = 6000 ∧ signed32 1024 3072 = -2048 ∧ signed32 2147483648 0 = -2147483648
      ∧ signed16 3 65530 = 9 ∧ signed16 65520 65530 = -10 ∧ signed16 32768 0 = -32768 := by decide

/-- The table of 2.4.1. -/
theorem test_expected_stamps :
    expectedStamp 65530 4294950912 8 65530 = 4294950912 ∧ expectedStamp 65530 4294950912 8 65532 = 0
      ∧ expectedStamp 65530 4294950912 8 3 = 57344 ∧ expectedStamp 65530 4294950912 8 65520 = 4294868992
      ∧ expectedStamp 65533 8192 8 3 = 57344 := by decide

/-- The table under R28. -/
theorem test_limits : (limitTicks 1, limitTicks 125, limitTicks 1000, limitTicks 10000, limitTicks 65535)
    = (8, 1024, 8192, 81920, 536862) := by decide

/-- The table under R41. -/
theorem test_reservations :
    reservationSize .framed { slotSet := 2, frames := 1, depth := 8 } = 512
      ∧ reservationSize .framed { slotSet := 0b1110, frames := 8, depth := 32 } = 2048
      ∧ reservationSize .framed { slotSet := 0b1111110, frames := 8, depth := 64 } = 4096
      ∧ reservationSize .framed { slotSet := 0b11111111110, frames := 8, depth := 32 } = 4096
      ∧ reservationSize .framed { slotSet := 0xFFFFFFFE, frames := 16, depth := 128 } = 65536
      ∧ reservationSize .unframed { frames := 16, depth := 128 } = 65536
      ∧ reservationSize .unframed { frames := 4, depth := 32 } = 4096 := by decide

/-- 3.10 step 3: depth 100 becomes 64 and PD 2000 becomes 504, with F 8. -/
theorem test_clamped_write :
    ((effectiveEntry {} [.frames 8, .depth 100, .playoutDelay 2000]).depth,
      (effectiveEntry {} [.frames 8, .depth 100, .playoutDelay 2000]).playoutDelay) = (64, 504) := by decide

/-- 11.7 request 3: W 48 is stored as 32. -/
theorem test_window_rounds_down : (effectiveEntry {} [.window 48]).window = 32 := by decide

/-- R12: the alignment word with bit 1 set in EVEN frames; in ODD ones the remote alarm indicator (1.5.1). -/
theorem test_slot_zero : slotZero .even .searching = 0x9B ∧ slotZero .odd .searching = 0xFF ∧ slotZero .odd .aligned = 0xDF := by
  decide

/-! ### Clock recovery: the tables of chapter 8 -/

/-- One window end of 8.10 and 8.11: a 3, b 7, lock threshold 8, unlock threshold 32. -/
def windowEnd (r : Recovery) (m : Int) : Recovery := ((r.update 3 7 (loopError m)).judge 8 32 (loopError m)).1.append

/-- 8.10: windows 2 to 6. -/
theorem test_loop_settles_and_locks :
    let r := [-3, -5, -6, -2, 0].foldl windowEnd {}
    (r.integrator, r.freq, r.locked, r.towardLock, r.history) = (128, 128, true, 0, [384, 128]) := by decide

/-- 8.11: windows 7 and 8. -/
theorem test_saturated_window :
    let r := [-3, -5, -6, -2, 0, -3000, -2600].foldl windowEnd {}
    (r.integrator, r.freq, r.locked, r.history, r.mean) = (32767, 32767, false, [384, 128, 32767], some 11093) := by decide

/-- 8.9: the sample of sequence 201, and of sequence 216 after the shift. -/
theorem test_samples :
    let r : Recovery := { rt := some (seedRt 1638400 5000000 5000000 0) }
    let now (lt : Int) (r : Recovery) : Recovery := { r with rt := r.rt.map (fun x => x + fineTicks (lt - 5000000)) }
    (now 5008100 r).sample 5008100 5008100 1646592 = -92
      ∧ (now 5130892 (r.shift (-180))).sample 5130892 5130892 1769472 = 0 := by decide

/-! ### Measurement: 10.8 -/

theorem test_rtt_sample :
    rttSample [⟨7340032, ⟨some 10001700, none⟩⟩, ⟨7471104, ⟨some 10132750, some 10132980⟩⟩] .A 7471104 10151900 4100 = some 15050
      ∧ rttSample [⟨7471104, ⟨some 10132750, some 10132980⟩⟩] .B 7471104 10156000 4300 = some 18720
      ∧ rttSample [⟨7471104, ⟨some 10132750, none⟩⟩] .A 7471104 10151900 65535 = none := by decide

/-! ### The playout buffer: 7.10 -/

theorem test_leads :
    leadOf 183807 ⟨20, 3, 163840⟩ 16 = 511 ∧ leadOf 184832 ⟨20, 4, 163840⟩ 16 = 512
      ∧ leadOf 346623 ⟨40, 3, 327680⟩ 16 = -513 ∧ skipsNeeded 512 = 1 ∧ skipsNeeded 511 = 0 ∧ skipsNeeded 106696 = 104 := by
  decide

/-- 7.8: an arrival with d = depth slides the pointer of (100, 0) to (101, 0), and slot 4 is freed of sequence 100. -/
theorem test_slide :
    let b : Buffer := { pointer := some ⟨100, 0, 819200⟩, slots := (Vector.replicate 128 none).set 4 (some
      ⟨100, 819200, false, false, [], ⟨none, none⟩, .A, true⟩) }
    (b.slide 8 1).pointer = some ⟨101, 0, 827392⟩ ∧ (b.slide 8 1).slot 16 116 = none := by decide +kernel

/-! ### One step each -/

/-- R49, R184: the station address of port B with unit number 0x1234. -/
theorem test_power_on_address : ((after (.powerOn 0x1234) State.reset).port .B).entry.address = 0x024C45123401 := by decide

/-- 5.8: a copy of a marked packet with echo state and path UP carries the echo age, here 2,500. -/
theorem test_echo_age : echoFields .up { echo := some ⟨91226112, 10130250⟩ } 10132750 = some (91226112, 2500) := by decide

/-- 2.6: the echo age across the LT wrap. -/
theorem test_echo_age_across_wrap : echoFields .up { echo := some ⟨262144, 4294960000⟩ } 1704 = some (262144, 9000) := by decide

/-- R186 to R189: the 32 octets of a circuit packet, field by field, and its padding to 60 octets. -/
theorem test_copy_frame : copyFrame (demo) .A { copy 10 with record := ⟨0x024C45000000, 5, none⟩ }
    = padFrame ([0x02, 0x4C, 0x45, 0, 0, 0, 0x02, 0x4C, 0x45, 0, 0, 0, 0xB7, 0xA4] ++ packet) := by decide

/-- R186: a tag of network tag 300 and priority 6 stands as 0x8100, 0xC12C before the frame type value. -/
theorem test_tag : tagOctets (some ⟨300, 6⟩) = [0x81, 0x00, 0xC1, 0x2C] := by decide

/-- R190: a record of CIRCUIT_COMMAND ENGAGE on circuit 11, written out. -/
theorem test_record : (readRecord [3, 4, 11, 0, 7, 1, 0]).request = some (.circuitCommand 4 11 1 0) := by decide

/-- R191: a record cut short by the frame's end is not present whole. -/
theorem test_record_cut_short : (readRecord [3, 4, 11, 0, 7, 1]).request = none := by decide

/-- R193: the item of a TABLE_WRITE of W 48. -/
theorem test_field_item : readCircuitField ⟨9, [48]⟩ = some (.window 48) := by decide

/-- R60: the first arrival anchors the circuit. -/
theorem test_first_arrival : ((after (.frameArrival .A 0 (frame packet)) (demo (inState .awaiting) id linkUp)).circuit 0).control.state
    = .acquiring := by decide

/-- 11.8: a loss of signal on a FRAMED aligned LOOP tributary sets its flags in the order SIGNAL_CHANGE, ALIGN_CHANGE,
CLOCK_MODE_CHANGE. -/
theorem test_loss_sets_flags_in_order :
    let s := demo id (fun k => { withLine (fun u => { aligned u with zeroRun := 255 }) k with
      clocking := { k.clocking with inForce := .loop, actual := .loop } })
    (after (.lossOfSignalDeclared 0 [false]) s).events.map EventRecord.flag
      = [.tributary 0 .signalChange, .tributary 0 .alignChange, .tributary 0 .clockModeChange] := by decide

/-- R149, R159: a bit that LOOP began 4 ticks ago has nothing left to send, so a soft restart that leaves LOOP ends it there, and
with it the frame. -/
theorem test_leaving_loop_ends_a_full_bit :
    let s := demo id (fun k => { k with
      clocking := { k.clocking with inForce := .loop, actual := .loop }
      transmit := { k.transmit with bits := 255, bitTime := bitFine } })
    ((after .restart s).tributary 0).transmit.bits = 256 ∧ (after .restart s).frameStartDue 0 = true := by decide +kernel

/-- Tributary 0 ADAPTIVE on circuit 0, PLAYING at FREQ 32,767, at a frame start that is due: RT is 24,576 ticks and the given
fine ticks, and the given fine ticks of it have passed since the bit edge. -/
def timed (fine since : Nat) : State :=
  demo (fun k => let k := pointed .playing 24576 k
      { k with recovery := { k.recovery with
        rt := some (BitVec.ofNat 59 (24576 * 2 ^ 27 + fine)), freq := 32767, tickFreq := 32767 } })
    (fun k => { k with
      clocking := { k.clocking with actual := .adaptive }
      transmit := { k.transmit with bitTime := since, tickRate := 2 ^ 27 + 32767 } })

/-- R116, R158: the play time is 24,576; RT_int at the bit edge is 24,576 when RT has 5 fine ticks and 5 of them have passed since
the edge, and 24,575 when 6 have. -/
theorem test_lead_is_read_at_the_bit_edge :
    ((after (.transmitFrameStart 0) (timed 5 5)).circuit 0).buffer.lastLead = some 0
      ∧ ((after (.transmitFrameStart 0) (timed 5 6)).circuit 0).buffer.lastLead = some (-1) := by decide +kernel

/-- R145: in FREE, half a tick after the bit edge, a window of samples −2,047 ends and FREQ goes from 0 to 32,767. RT has 3 fine ticks
beyond 24,576.5 ticks, so that it has 3 beyond the play time, 24,576, at the edge; the frame start finds the lead 0 whether it is
taken before the window end or after it. -/
theorem test_window_end_and_frame_start_in_either_order :
    let s := demo (fun k => let k := pointed .playing 24576 k
        { k with recovery := { k.recovery with
          rt := some (BitVec.ofNat 59 (24576 * 2 ^ 27 + 2 ^ 26 + 3)), window := some ⟨15, 0, 16⟩ } })
      (fun k => { k with transmit := { k.transmit with bitTime := 2 ^ 26 } })
    let ended (s : State) : State := s.takeSample 0 (-2047)
    let started (s : State) : State := after (.transmitFrameStart 0) s
    (s.circuit 0).recovery.freq = 0 ∧ ((ended s).circuit 0).recovery.freq = 32767
      ∧ ((started (ended s)).circuit 0).buffer.lastLead = some 0
      ∧ ((ended (started s)).circuit 0).buffer.lastLead = some 0 := by decide +kernel

/-- R149: a frame start that goes from ADAPTIVE at FREQ 32,767 to FREE finds 2^27 + 32,767 fine ticks of the old source, one tick,
passed since the edge; in FREE they are 2^27. -/
theorem test_frame_start_changes_the_source_at_the_edge :
    ((after (.transmitFrameStart 0) (timed 0 (2 ^ 27 + 32767))).tributary 0).clocking.actual = .free
      ∧ ((after (.transmitFrameStart 0) (timed 0 (2 ^ 27 + 32767))).tributary 0).transmit.bitTime = 2 ^ 27 := by decide +kernel

/-- R193: the codes of states and modes in status. -/
theorem test_status_codes :
    [CircuitState.disabled, .awaiting, .acquiring, .playing, .starved].map CircuitState.code = [0, 1, 2, 3, 4]
      ∧ [ClockMode.free, .loop, .adaptive, .holdover].map ClockMode.code = [0, 1, 2, 3]
      ∧ [AlignmentState.searching, .aligned, .notFramed].map AlignmentState.code = [0, 1, 2]
      ∧ [Phase.idle, .armed, .collecting].map Phase.code = [0, 1, 2] ∧ [none, some Port.A, some .B].map pathCode = [0, 1, 2] := by
  decide

/-- 5.9: a full circuit queue discards the copy, with tx drops and TX_DROP of the circuit's index. -/
theorem test_full_queue :
    let s := demo id id (fun k => { linkUp k with circuitQueue := List.replicate 64 (copy 1) })
    ((s.queueCopy .A (copy 2)).port .A).circuitQueue.length = 64
      ∧ (s.queueCopy .A (copy 2)).flag (.port .A .txDrop) = some (.circuit 0)
      ∧ ((s.queueCopy .A (copy 2)).port .A).counters.get PortCounter.txDrops.place = 1 := by decide

/-- The table under R143. -/
theorem test_mean_toward_zero :
    meanTowardZero [880, 884, 879] = some 881 ∧ meanTowardZero [-5, -6] = some (-5)
      ∧ meanTowardZero (List.replicate 8 32767) = some 32767 ∧ meanTowardZero [100, -101] = some 0 := by decide

/-- The table under R36. -/
theorem test_powers_of_two : [0, 5, 48, 100, 128, 255].map (fun v => (powerOfTwo 8 v, powerOfTwo 16 v))
    = [(8, 16), (8, 16), (32, 32), (64, 64), (128, 128), (128, 128)] := by decide


/-! ### Concrete states and operands that meet the hypotheses of the statements

One theorem for each statement that has hypotheses, with a conjunct for each clause, at boundary values of its ranges. -/

/-- Every transmit bit timing within its frame, so that no event is due. -/
def quiet : State := { State.reset with tributaries := State.reset.tributaries.map (fun k => { k with transmit := { k.transmit with bits := 255 } }) }

theorem witness_IdleStepTicksOrQueuesDueEvents :
    (∀ m ∈ [ClockMode.free, .loop, .adaptive, .holdover],
        let s := quiet.onClocking 0 (fun k => { k with actual := m })
        s.pending = [] ∧ s.due = [] ∧ (s.tributary 0).clocking.actual = m)
      ∧ (let s := (quiet.onClocking 0 (fun k => { k with actual := .adaptive })).onRecovery 0 (fun r => { r with rt := some 5 })
         s.pending = [] ∧ s.due = [] ∧ (s.circuit 0).recovery.rt = some 5 ∧ -2 ^ 27 ≤ (s.circuit 0).recovery.freq)
      ∧ (State.reset.pending = [] ∧ State.reset.due ≠ []) := by decide +kernel

/-- Nothing due: tributary 0 with a LINE source, port A sending, circuit 0 with timers that LT has not reached. -/
def notDue : State :=
  demo (fun k => { k with
      control := { k.control with engageTimer := some 1, starvationTimer := some 1 }
      merge := { k.merge with timers := ⟨some 1, none⟩, holdOff := some 1 } })
    (withLine (fun u => { u with source := .line })) (fun k => { linkUp k with sending := some [] })

theorem witness_EventsNotDueChangeNothing :
    ((notDue.tributary 0).line.source = .line ∧ signed32 notDue.lt ((notDue.tributary 1).line.lastEvent + 1024) < 0)
      ∧ (quiet.tributary 0).transmit.bits < 256 ∧ (notDue.port .A).link = .up ∧ (notDue.port .B).link = .down
      ∧ (notDue.port .A).sending ≠ none ∧ (notDue.port .A).circuitQueue = [] ∧ (notDue.port .A).responseQueue = []
      ∧ (∀ e, (notDue.circuit 0).control.engageTimer = some e → signed32 notDue.lt e < 0)
      ∧ (∀ e, (notDue.circuit 0).control.starvationTimer = some e → signed32 notDue.lt e < 0)
      ∧ (∀ e, (notDue.circuit 0).merge.timers.get .A = some e → signed32 notDue.lt e < 0)
      ∧ (∀ e, (notDue.circuit 0).merge.holdOff = some e → signed32 notDue.lt e < 0)
      ∧ (notDue.port .A).waiting = [] := by
  refine ⟨by decide, by decide +kernel, by decide, by decide, by decide, by decide, by decide, ?_, ?_, ?_, ?_, by decide⟩
  all_goals
    intro e h
    obtain rfl : (1 : Ticks) = e := Option.some.inj h
    decide

theorem witness_LineCommandsTakeBitsInOrder : Instr.aisBlockEnd 0 ∈
    [Instr.lossOfSignalDeclared 0, Instr.lossOfSignalCleared 0, Instr.aisBlockEnd 0, Instr.alignmentDeclared 0,
      Instr.alignmentLost 0, Instr.remoteAlarmStateChange 0, Instr.receiveFrameEvent 0] := by simp

theorem witness_LossOfSignalAfter256Zeros :
    let s (a : AlignmentState) (m : ClockMode) := demo id (fun k =>
      { withLine (fun u => { aligned u with alignment := a, remoteAlarm := .seen }) k with
        clocking := { k.clocking with inForce := .loop, actual := m } })
    (∀ x ∈ [(AlignmentState.aligned, ClockMode.loop), (.searching, .free)],
      let k := (s x.1 x.2).tributary 0
      k.line.signal = .present ∧ k.line.zeroRun = 0 ∧ k.line.alignment = x.1 ∧ k.line.remoteAlarm = .seen
        ∧ k.clocking.inForce = .loop ∧ k.clocking.actual = x.2) ∧ 0 + 256 = 256 ∧ 0 + 255 < 256 ∧ 0 < 1 := by decide

theorem witness_LossOfSignalClearsAfterABlock :
    let block (n : Nat) : List Bool := List.replicate (256 - n) false ++ List.replicate n true
    (State.reset.tributary 0).line.signal = .lost ∧ (State.reset.tributary 0).line.blockBits = 0
      ∧ (State.reset.tributary 0).line.blockOnes = 0 ∧ (block 32).length = 256 ∧ 32 ≤ (block 32).count true
      ∧ (block 31).length = 256 ∧ ¬32 ≤ (block 31).count true := by decide +kernel

theorem witness_AisIsJudgedEvery512Bits :
    let block (n : Nat) : List Bool := List.replicate (512 - n) true ++ List.replicate n false
    (State.reset.tributary 0).line.aisBits = 0 ∧ (State.reset.tributary 0).line.aisZeros = 0 ∧ (block 2).length = 512
      ∧ (block 2).count false < 3 ∧ (block 3).length = 512 ∧ ¬(block 3).count false < 3 := by decide +kernel

theorem witness_AlignmentIsFoundInThreePhases :
    let s (phase : SearchPhase) (n : Nat) (o : BitVec 8) := demo id (withLine (fun u =>
      { u with signal := .present, alignment := .searching, search := phase, searchBits := n, recent := o, zeroRun := 254 }))
    ∀ x ∈ [(SearchPhase.hunt, 6, 0b00001101#8), (.confirmOdd, 255, 0#8), (.confirmEven, 517, 0b00001101#8), (.confirmEven, 517, 0#8)],
      let u := s x.1 x.2.1 x.2.2
      (u.tributary 0).entry.framing = .framed ∧ (u.tributary 0).line.signal = .present
        ∧ (u.tributary 0).line.alignment = .searching ∧ (u.tributary 0).line.zeroRun < 255 := by decide

theorem witness_ThirdErroredWordEndsAlignment :
    let s (errors : Nat) := demo id (withLine (fun u => { aligned u with frameBits := 7, erroredRun := errors, zeroRun := 254 }))
    ∀ n ∈ [0, 1, 2],
      ((s n).tributary 0).entry.framing = .framed ∧ ((s n).tributary 0).line.signal = .present
        ∧ ((s n).tributary 0).line.alignment = .aligned ∧ ((s n).tributary 0).line.oddFrame = false
        ∧ ((s n).tributary 0).line.frameBits = 7 ∧ ((s n).tributary 0).line.zeroRun < 255 := by decide

theorem witness_RemoteAlarmFollowsTwoIndicators :
    let s (run : Nat) := demo id (withLine (fun u =>
      { aligned u with frameBits := 2, oddFrame := true, lastIndicator := some true, alarmRun := run }))
    ∀ n ∈ [0, 1],
      ((s n).tributary 0).entry.framing = .framed ∧ ((s n).tributary 0).line.signal = .present
        ∧ ((s n).tributary 0).line.alignment = .aligned ∧ ((s n).tributary 0).line.oddFrame = true
        ∧ ((s n).tributary 0).line.frameBits = 2 ∧ ((s n).tributary 0).line.zeroRun < 255
        ∧ ((s n).tributary 0).line.remoteAlarm ≠ .seen := by decide

theorem witness_ReceiveFrameEventEveryFrame :
    let s := demo id (withLine (fun u => { aligned u with frameBits := 255 }))
    let v := s.onTributary 0 (fun k => { k with entry := { k.entry with framing := .unframed } })
    ((s.tributary 0).line.signal = .present ∧ (s.tributary 0).entry.framing = .framed
        ∧ (s.tributary 0).line.alignment = .aligned ∧ (s.tributary 0).line.frameBits = 255 ∧ (s.tributary 0).line.zeroRun < 255)
      ∧ (v.tributary 0).entry.framing = .unframed := by decide

theorem witness_GeneratedFrameEventWhenDue :
    let s := { demo (inState .awaiting) with lt := 1024 }
    (s.tributary 0).line.source = .generated ∧ 0 = signed32 s.lt ((s.tributary 0).line.lastEvent + 1024)
      ∧ (s.circuit 0).engaged = true ∧ (s.circuit 0).names 0 = true ∧ (s.circuit 0).packetizer.phase ≠ .idle := by decide

theorem witness_CompletedPacketMakesItsCopies :
    let full (k : PortState) : PortState := { linkUp k with circuitQueue := List.replicate 64 (copy 1) }
    ((demo).circuit 0).entry.paths.get .B = none
      ∧ ((demo).circuit 0).entry.paths.get .A = some ⟨1, 7, none⟩ ∧ ((demo).port .A).link = .down
      ∧ ((demo id id linkUp).port .A).link = .up ∧ ((demo id id linkUp).port .A).circuitQueue.length < 64
      ∧ ¬((demo id id full).port .A).circuitQueue.length < 64 := by decide +kernel

theorem witness_CopyDepartsFromTheQueueHead :
    let s (q : SeqNo) := demo (inState .playing) id (fun k => { linkUp k with circuitQueue := [copy q] })
    ((s 64).port .A).link = .up ∧ ((s 64).port .A).sending = none ∧ ((s 64).port .A).circuitQueue = copy 64 :: []
      ∧ ((s 65).port .A).circuitQueue = copy 65 :: [] := by decide

theorem witness_CircuitPacketReadsBack :
    let x : Copy := { copy 64 with record := ⟨1, 4095, some ⟨4094, 7⟩⟩ }
    x.record.outLabel < 65536 ∧ x.frames < 256 ∧ x.payload.length < 65536
      ∧ (∀ g, x.record.tag = some g → g.priority ≤ 7 ∧ g.networkTag < 4096)
      ∧ ((demo).port .A).entry.frameType ≠ 0x8100 := by
  refine ⟨by decide, by decide, by decide, ?_, by decide⟩
  intro g h; cases h; decide

theorem witness_ResponseDepartsAndSendingEnds :
    let s := demo id id (fun k => { linkUp k with responseQueue := [⟨9, [1, 2]⟩] })
    (s.port .A).link = .up ∧ (s.port .A).sending = none ∧ (s.port .A).circuitQueue = []
      ∧ (s.port .A).responseQueue = ⟨9, [1, 2]⟩ :: [] := by decide

theorem witness_TransmitFrameIsAssembled :
    let unframed (s : State) : State := s.onTributary 0 (fun k => { k with entry := { k.entry with framing := .unframed } })
    (256 ≤ ((demo).tributary 0).transmit.bits ∧ ((demo).tributary 0).entry.framing = .framed)
      ∧ (256 ≤ (State.reset.tributary 1).transmit.bits ∧ (State.reset.tributary 1).entry.framing = .off)
      ∧ (∀ st ∈ [CircuitState.awaiting, .playing],
          let s := demo (pointed st 24576)
          256 ≤ (s.tributary 0).transmit.bits ∧ (s.circuit 0).control.state = st ∧ (s.circuit 0).names 0 = true
          ∧ (s.circuit 0).entry.slotSet.getLsbD 3 = true ∧ (slotsOf (s.circuit 0).entry.slotSet)[2]? = some 3
          ∧ (s.playFrame 0 255 24576).2[2]? = some 255 ∧ (unframed s).circuit 0 = s.circuit 0
          ∧ ((unframed s).playFrame 0 255 24576).2.length = 32 ∧ ((unframed s).tributary 0).entry.framing = .unframed
          ∧ ∀ d, d ≠ 0 → (s.circuit d).engaged = true → (s.circuit d).names 0 = false)
      ∧ (∀ c, ((unframed demo).circuit c).engaged = true → ((unframed demo).circuit c).names 0 = false)
      ∧ (let s := demo id (fun k => { k with
            clocking := { k.clocking with actual := .loop }, transmit := { k.transmit with bitTime := 2 ^ 29 } })
         (s.tributary 0).clocking.actual = .loop ∧ (s.judgedMode 0) ≠ .loop ∧ 2 ^ 29 ≤ (s.tributary 0).transmit.bitTime)
      ∧ (((timed 5 6).tributary 0).clocking.actual = .adaptive ∧ ((timed 5 6).tributary 0).clocking.timing = 0
        ∧ 256 ≤ ((timed 5 6).tributary 0).transmit.bits
        ∧ ((timed 5 6).tributary 0).transmit.tickRate = 2 ^ 27 + ((timed 5 6).circuit 0).recovery.tickFreq
        ∧ -2 ^ 27 < ((timed 5 6).circuit 0).recovery.tickFreq) := by
  decide +kernel

/-- Each requested mode, and under ADAPTIVE the arms of R152: ready; not locked and HOLDOVER, LOOP or ADAPTIVE before. -/
theorem witness_ClockModeIsJudgedAtFrameStart :
    let s (locked : Bool) (asked held : ClockMode) :=
      demo (fun k => { inState .playing k with recovery := { k.recovery with locked := locked, history := [5] } })
        (fun k => { k with entry := { k.entry with clockMode := asked, timing := 0 }, clocking := { k.clocking with actual := held } })
    ∀ x ∈ [(true, ClockMode.adaptive, ClockMode.free), (false, .adaptive, .holdover), (false, .adaptive, .loop),
        (false, .adaptive, .adaptive), (false, .free, .free), (false, .holdover, .free), (false, .loop, .free)],
      let u := s x.1 x.2.1 x.2.2
      256 ≤ (u.tributary 0).transmit.bits ∧ (u.tributary 0).entry.clockMode = x.2.1 ∧ (u.circuit 0).names 0 = true
        ∧ (u.circuit 0).control.state = .playing ∧ (u.circuit 0).recovery.locked = x.1
        ∧ (u.tributary 0).clocking.actual = x.2.2 := by decide

theorem witness_DueFrameIsDelivered :
    let s (rt : Nat) := demo (pointed .playing rt)
    let lead (rt : Nat) := signed32 (BitVec.ofNat 32 rt) ((20480 : Ticks) + BitVec.ofNat 32 ((0 + 4) * 1024))
    ∀ rt ∈ [24064, 25087],
      ((s rt).circuit 0).buffer.pointer = some ⟨10, 0, 20480⟩ ∧ -512 ≤ lead rt ∧ lead rt ≤ 511 := by decide

theorem witness_EarlyFramesRepeatAndLateFramesSkip :
    let s (rt : Nat) := demo (pointed .playing rt)
    let lead (rt : Nat) := leadOf (BitVec.ofNat 32 rt) ⟨10, 0, 20480⟩ 4
    (∀ rt ∈ [24063, 25088], ((s rt).circuit 0).buffer.pointer = some ⟨10, 0, 20480⟩)
      ∧ lead 24063 = -513 ∧ lead 25088 = 512 ∧ 0 < ((s 25088).circuit 0).entry.frames := by decide

theorem witness_LinkReportsChangeTheLink :
    let s := demo (fun k => { inState .playing k with merge := { k.merge with up := ⟨.up, .down⟩ } }) id
      (fun k => { linkUp k with circuitQueue := [copy 1] })
    ((demo).port .A).link = .down ∧ (s.port .A).link = .up ∧ (s.circuit 0).engaged = true
      ∧ (s.circuit 0).merge.up.get .A = .up ∧ (s.circuit 1).engaged = false
      ∧ (s.circuit 0).merge.up.get .B = .down
      ∧ (s.circuit 0).counters.get (CircuitCounter.notSent .A).place ≤ 4294967295 := by decide

/-- The cases of PathLost: PREFER_A in each state, with the active path A or B and path B UP or DOWN. -/
theorem witness_PathLost :
    ∀ x ∈ [(CircuitState.awaiting, Port.A, UpDown.up), (.playing, .A, .up), (.starved, .A, .down), (.playing, .B, .up)],
      let s := demo (fun k => { inState x.1 k with merge := { k.merge with up := ⟨.up, x.2.2⟩, active := some x.2.1 } }) id linkUp
      let s := s.onCircuit 0 (fun k => { k with entry := { k.entry with policy := .preferA } })
      (s.circuit 0).engaged = true ∧ (s.circuit 0).merge.up.get .A = .up ∧ (s.port .A).link = .up
        ∧ (s.circuit 0).entry.policy.preferred = some .A ∧ (s.circuit 0).merge.active = some x.2.1
        ∧ (s.circuit 0).merge.up.get .B = x.2.2 := by decide

theorem witness_FrameArrivalsAreAccountedFor :
    let s := demo (inState .awaiting) id linkUp
    let v := (s.port .A).valuesAt (s.lt - 0)
    let management (label : Byte) : List Byte := frame [1, 2, 0, label, 2, 1, 1, 4, 7, 0, 0, 5]
    (s.port .A).link = .up
      ∧ classify v.1 v.2 [] = .bad
      ∧ classify v.1 v.2 (frame packet) = .data ((frame packet).drop 14)
      ∧ labelOf ((frame packet).drop 14) = 5 ∧ s.circuitOfLabel 5 = some 0 ∧ (readPacket ((frame packet).drop 14)).path ≠ .B
      ∧ (∀ c, (State.reset.circuit c).engaged = true → (State.reset.circuit c).entry.inLabel ≠ 0
          → (State.reset.circuit c).entry.inLabel ≠ 5)
      ∧ classify v.1 v.2 (management 0) = .management 0x020000000009 ((management 0).drop 14) ∧ labelOf ((management 0).drop 14) = 0
      ∧ labelOf ((management 1).drop 14) ≠ 0 ∧ (s.port .A).entry.accept = true
      ∧ (readPacket ((frame packet).drop 14)).wellFormed (s.circuit 0).entry.frames ((s.circuit 0).entry.frames * s.width 0) .A = true
      ∧ (s.circuit 0).control.state = .awaiting
      ∧ ((demo (inState .starved) id linkUp).circuitOfLabel 5 = some 0
        ∧ ((demo (inState .starved) id linkUp).circuit 0).control.state = .starved) := by decide +kernel

theorem witness_FirstArrivalAnchorsTheCircuit :
    let base := demo (inState .awaiting) id linkUp
    let s (policy : Policy) (forced : Option Port) := (base.onCircuit 0 (fun k => { k with entry := { k.entry with policy := policy } })).onMerge 0
      (fun m => { m with forced := forced })
    let v := (base.port .A).valuesAt (base.lt - 0)
    let h := (frame packet).drop 14
    (base.port .A).link = .up ∧ classify v.1 v.2 (frame packet) = .data h
      ∧ ∀ x ∈ [(Policy.merge, (none : Option Port)), (.preferB, none), (.preferA, some .B), (.merge, some .A)],
        let u := s x.1 x.2
        u.circuitOfLabel (labelOf h) = some 0
          ∧ (readPacket h).wellFormed (u.circuit 0).entry.frames ((u.circuit 0).entry.frames * u.width 0) .A = true
          ∧ (u.circuit 0).control.state = .awaiting ∧ (u.circuit 0).merge.forced = x.2 ∧ (u.circuit 0).entry.policy = x.1
          ∧ freshActive .preferB ((u.circuit 0).merge.up.set .A .up) = some .A := by
  decide +kernel

/-- Circuit 0 in a state with its pointer at sequence 10, sequence 11 held and sampled, 12 held and not, 8 PLAYED and 7 MISSED. -/
def placed (st : CircuitState) (frame lateRun : Nat) : State :=
  (demo (pointed st 20480)).onCircuit 0 (fun k => { k with
    entry := { k.entry with latePolicy := .realign }
    control := { k.control with lateRun := lateRun }
    buffer := { (k.buffer.store 8 ((candidate 11).entry true)).store 8 ((candidate 12).entry false) with
      pointer := some ⟨10, frame, 20480⟩
      history := [⟨7, .missed, ⟨none, none⟩, none, false⟩, ⟨8, .played, ⟨none, some 3⟩, some .B, false⟩] } })

theorem witness_FittingArrivalIsClassed :
    (∀ x ∈ [(CircuitState.acquiring, 0, 0), (.playing, 1, 14), (.playing, 0, 15), (.starved, 0, 0)],
      let k := (placed x.1 x.2.1 x.2.2).circuit 0
      k.control.state = x.1 ∧ k.control.lateRun = x.2.2 ∧ k.buffer.pointer = some ⟨10, x.2.1, 20480⟩ ∧ k.recovery.rt.isSome = true
        ∧ k.entry.depth = 8 ∧ k.entry.latePolicy = .realign ∧ k.samples .A = true ∧ k.merge.forced ≠ some (otherPort .A)
        ∧ (k.buffer.slot 8 11).isSome = true ∧ (k.buffer.slot 8 12).isSome = true ∧ k.buffer.slot 8 10 = none
        ∧ k.buffer.slot 8 17 = none ∧ k.buffer.recordOf 9 = none ∧ (k.buffer.recordOf 8).isSome = true
        ∧ (k.buffer.recordOf 7).isSome = true)
      ∧ (∀ q ∈ [(7 : SeqNo), 8, 9, 10, 11, 12, 17, 18], (candidate q).ts = (20480 : Ticks) + BitVec.ofInt 32 (signed16 q 10 * 2 * 1024))
      ∧ (signed16 10 10 = 0 ∧ signed16 17 10 = 7 ∧ signed16 18 10 = 8 ∧ signed16 9 10 = -1)
      ∧ (((placed .playing 0 0).onMerge 0 (fun m => { m with forced := some .B })).circuit 0).merge.forced = some (otherPort .A) :=
  ⟨by decide +kernel, fun q _ => by simp [candidate, expectedStamp, stampAfter], by decide, by decide⟩

theorem witness_StampMismatchesReanchor :
    let s (st : CircuitState) (run : Nat) := demo (fun k => let k := pointed st 20480 k
      { k with control := { k.control with mismatchRun := run } })
    (∀ x ∈ [(CircuitState.playing, 1), (.playing, 2), (.acquiring, 2), (.starved, 0)],
      ((s x.1 x.2).circuit 0).buffer.pointer = some ⟨10, 0, 20480⟩ ∧ ((s x.1 x.2).circuit 0).samples .A = true)
      ∧ (candidate 11 1).ts ≠ (20480 : Ticks) + BitVec.ofInt 32 (signed16 11 10 * 2 * 1024)
      ∧ (((s .playing 1).onMerge 0 (fun m => { m with forced := some .B })).circuit 0).samples .A = false := by decide

theorem witness_FirstSampleInStarvedDecides :
    let s (rt : Nat) := demo (pointed .starved rt)
    let rt (n : Nat) : FineTicks := BitVec.ofNat 59 (n * 2 ^ 27)
    (∀ n ∈ [20736, 20737], ((s n).circuit 0).control.state = .starved ∧ ((s n).circuit 0).recovery.rt = some (rt n)
        ∧ ((s n).circuit 0).buffer.pointer = some ⟨10, 0, 20480⟩ ∧ ((s n).circuit 0).recovery.window = none
        ∧ 2 ≤ ((s n).circuit 0).entry.window ∧ ((s n).circuit 0).samples .A = true
        ∧ ((s n).circuit 0).merge.forced ≠ some (otherPort .A)
        ∧ (candidate 10).ts = (20480 : Ticks) + BitVec.ofInt 32 (signed16 10 10 * 2 * 1024)
        ∧ (classOf ((s n).circuit 0).buffer ⟨10, 0, 20480⟩ 8 10).unsampled = true)
      ∧ (signed32 ((rt 20736).extractLsb' 27 32) (candidate 10).ts).natAbs = 256
      ∧ ((demo).circuit 0).entry.reentryTolerance = 256
      ∧ (signed32 ((rt 20737).extractLsb' 27 32) (candidate 10).ts).natAbs = 257 := by decide

/-- Each class of a re-entering arrival: first copy, duplicate, late at the pointer, late without a record, with a MISSED and
with a PLAYED record, overrun. -/
theorem witness_FirstSampleInStarvedDecides_classes :
    let s (f : Buffer → Buffer) := (demo (pointed .starved 20480)).onBuffer 0 f
    let held (b : Buffer) : Buffer := b.store 8 { (candidate 10).entry false with arrival := ⟨none, some 7⟩ }
    let record (o : PlayOutcome) (b : Buffer) : Buffer := { b with history := [⟨9, o, ⟨none, some 7⟩, none, false⟩] }
    let frame (n : Nat) (b : Buffer) : Buffer := { b with pointer := some ⟨10, n, 20480⟩ }
    (∀ x ∈ [(id, 0, (10 : SeqNo), (0 : Int)), (held, 0, 10, 0), (frame 1, 1, 10, 0), (id, 0, 9, -1), (record .missed, 0, 9, -1),
        (record .played, 0, 9, -1), (id, 0, 18, 8)],
      let k := (s x.1).circuit 0
      k.control.state = .starved ∧ k.buffer.pointer = some ⟨10, x.2.1, 20480⟩ ∧ k.recovery.window = none
        ∧ signed16 x.2.2.1 10 = x.2.2.2 ∧ k.samples .A = true
        ∧ (candidate x.2.2.1).ts = (20480 : Ticks) + BitVec.ofInt 32 (x.2.2.2 * 2 * 1024)
        ∧ (classOf k.buffer ⟨10, x.2.1, 20480⟩ 8 x.2.2.1).unsampled = true)
      ∧ (((s held).circuit 0).buffer.slot 8 10).isSome ∧ ((s id).circuit 0).buffer.slot 8 10 = none
      ∧ ((s (record .missed)).circuit 0).buffer.recordOf 9 = some ⟨9, .missed, ⟨none, some 7⟩, none, false⟩
      ∧ ((s (record .played)).circuit 0).buffer.recordOf 9 = some ⟨9, .played, ⟨none, some 7⟩, none, false⟩
      ∧ ((s id).circuit 0).buffer.recordOf 9 = none := by decide +kernel

theorem witness_WindowEndCompletesAcquisition :
    let s (n : Nat) := demo (fun k => let k := pointed .acquiring 20480 k
      { k with recovery := { k.recovery with window := some ⟨n, -3, 16⟩ } })
    ∀ n ∈ [14, 15], ((s n).circuit 0).control.state = .acquiring ∧ ((s n).circuit 0).recovery.window = some ⟨n, -3, 16⟩
      ∧ ((s n).circuit 0).recovery.rt = some (BitVec.ofNat 59 (20480 * 2 ^ 27)) := by decide

theorem witness_WindowEndUpdatesTheLoop :
    let s (n : Nat) (locked : Bool) := demo (fun k => let k := pointed .playing 20480 k
      { k with recovery := { k.recovery with window := some ⟨n, -3, 16⟩, locked := locked, towardLock := 3, towardLoss := 1 } })
    ∀ x ∈ [(14, false), (15, false), (15, true)], ((s x.1 x.2).circuit 0).control.state = .playing
      ∧ ((s x.1 x.2).circuit 0).recovery.window = some ⟨x.1, -3, 16⟩ ∧ ((s x.1 x.2).circuit 0).recovery.locked = x.2 := by decide

theorem witness_EchoesDelayAndSkewAreMeasured :
    let s (n : Nat) := ((demo).onDelay 0 .A (fun d => { d with runCount := n, echo := some ⟨7, 0⟩ })).onPacketizer 0
      (fun z => { z with sendLog := [⟨7471104, ⟨some 10132750, some 10132980⟩⟩] })
    let x : Packet := { readPacket packet with seq := 64, echoed := true, echoTs := 7471104, echoAge := 4100, l := true, r := true }
    let sent := (((s 14).circuit 0).packetizer.sendLog.find? (fun e => e.ts == x.echoTs)).bind (fun e => e.sent.get .A)
    (((s 14).circuit 0).delay.get .A).runCount < 15 ∧ 15 ≤ (((s 15).circuit 0).delay.get .A).runCount
      ∧ x.seq.toNat % 64 = 0 ∧ (7 : Ticks) ≠ x.ts ∧ (((s 14).circuit 0).delay.get .A).echo = some ⟨7, 0⟩
      ∧ (x.echoed = true ∧ (((s 14).circuit 0).delay.get .A).lastEcho ≠ some x.echoTs) ∧ x.echoAge ≠ 65535
      ∧ sent = some 10132750 ∧ ((10151900 : Ticks) - 10132750 - BitVec.ofNat 32 x.echoAge).toInt = 15050
      ∧ (readPacket packet).echoed = false ∧ (readPacket packet).seq.toNat % 64 ≠ 0 := by decide

theorem witness_ArrivalBringsItsPathUp :
    let s (st : CircuitState) (m : Merge → Merge) := demo (fun k => { inState st k with merge := m k.merge })
    let prefer (seconds : Nat) (s : State) := s.onCircuit 0 (fun k =>
      { k with entry := { k.entry with policy := .preferA, restoreHoldOff := seconds } })
    ((s .playing (fun m => { m with up := ⟨.up, .down⟩ })).circuit 0).merge.up.get .A = .up
      ∧ ((s .playing id).circuit 0).merge.up.get .A = .down ∧ ((s .playing id).circuit 0).entry.policy = .merge
      ∧ ((prefer 5 (s .awaiting id)).circuit 0).entry.policy.preferred = some .A
      ∧ ((prefer 5 (s .awaiting id)).circuit 0).control.state = .awaiting
      ∧ ((prefer 5 (s .playing id)).circuit 0).merge.active = none
      ∧ (let u := (prefer 0 (s .playing (fun m => { m with active := some .B }))).circuit 0
         u.merge.up.get .A = .down ∧ u.merge.active = some (otherPort .A) ∧ u.entry.restoreHoldOff = 0)
      ∧ (let u := (prefer 5 (s .starved (fun m => { m with active := some .A }))).circuit 0
         u.merge.up.get .B = .down ∧ u.merge.active = some .A ∧ u.control.state = .starved) := by decide

theorem witness_PathEngageAndHoldOffTimersExpire :
    let s (policy : Policy) (st : CircuitState) (other : UpDown) (active : Option Port) := demo (fun k =>
      { inState st k with merge := { k.merge with up := ⟨.up, other⟩, timers := ⟨some 0, none⟩, active := active, holdOff := some 0 } })
      |>.onCircuit 0 (fun k => { k with entry := { k.entry with policy := policy }, control := { k.control with engageTimer := some 0 } })
    (∀ x ∈ [(Policy.merge, CircuitState.playing, UpDown.up, (none : Option Port)), (.preferA, .awaiting, .up, some .A),
        (.preferA, .playing, .up, some .A), (.preferA, .starved, .down, some .A), (.preferA, .playing, .up, some .B),
        (.preferB, .playing, .up, some .B)],
      let u := s x.1 x.2.1 x.2.2.1 x.2.2.2
      (u.circuit 0).merge.timers.get .A = some 0 ∧ 0 ≤ signed32 u.lt 0 ∧ (u.circuit 0).merge.up.get .A = .up
        ∧ (u.circuit 0).merge.holdOff = some 0 ∧ (u.circuit 0).control.engageTimer = some 0)
      ∧ Policy.preferA.preferred = some .A ∧ Policy.preferB.preferred = some .B := by decide

theorem witness_StarvationExpiryByState :
    let s (st : CircuitState) := (demo (pointed st 20480)).onControl 0 (fun k => { k with starvationTimer := some 0 })
    ∀ st ∈ [CircuitState.acquiring, .playing], ((s st).circuit 0).control.starvationTimer = some 0
      ∧ 0 ≤ signed32 (s st).lt 0 ∧ ((s st).circuit 0).control.state = st := by decide

theorem witness_UnrunnableManagementFrameIsDropped :
    let s (n waiting : Nat) := demo id id (fun k =>
      { linkUp k with waiting := [⟨9, 1, n, []⟩], responseQueue := List.replicate waiting ⟨9, []⟩ })
    (∀ x ∈ [(1, 4), (0, 0), (17, 0)], ((s x.1 x.2).port .A).waiting = ⟨9, 1, x.1, []⟩ :: [])
      ∧ 4 ≤ ((s 1 4).port .A).responseQueue.length ∧ 16 < 17 := by decide

theorem witness_ManagementFrameIsAnswered :
    let s (n waiting : Nat) := demo id id (fun k =>
      { linkUp k with waiting := [⟨9, 1, n, [8, 7, 0, 0, 5]⟩], responseQueue := List.replicate waiting ⟨9, []⟩ })
    let down := (s 1 0).onPort .A (fun k => { k with link := .down })
    (∀ x ∈ [(1, 3), (16, 0)], ((s x.1 x.2).port .A).waiting = ⟨9, 1, x.1, [8, 7, 0, 0, 5]⟩ :: []
      ∧ ((s x.1 x.2).port .A).responseQueue.length < 4 ∧ 1 ≤ x.1 ∧ x.1 ≤ 16 ∧ ((s x.1 x.2).port .A).link = .up)
      ∧ (down.port .A).link = .down ∧ (down.port .A).waiting = ⟨9, 1, 1, [8, 7, 0, 0, 5]⟩ :: []
      ∧ (down.port .A).responseQueue.length < 4 := by decide

theorem witness_RequestsAreExecutedInOrderWhileTheyFit :
    let restart : List Byte := [8, 7, 0, 0, 5]
    (readRecord restart).request = some (.restart 7 0) ∧ 1466 + (State.reset.execute (.restart 7 0)).2.size + 7 * 1 ≤ 1480
      ∧ 1480 < 1467 + (State.reset.execute (.restart 7 0)).2.size + 7 * 1
      ∧ (readRecord (restart.take 4)).request = none ∧ (readRecord (restart.take 4)).next = none
      ∧ (readRecord [8, 7, 0, 0, 4]).request = none ∧ (readRecord [8, 7, 0, 0, 4]).next = some []
      ∧ (readCircuit 63 = some 63 ∧ 64 ≤ (64 : Byte).toNat ∧ 4 < (5 : Byte).toNat)
      ∧ ([2, 1, 9] : List Byte) = [(⟨2, [9]⟩ : FieldItem)].flatMap (fun i => i.code :: octets 1 i.value.length ++ i.value) := by
  decide +kernel

/-- A record with a FLAGS_CLEAR of the mask 0x01020304, and a TABLE_WRITE whose one item is cut short, as R190 lays them out. -/
theorem test_records_are_read :
    readRecord [6, 4, 9, 0, 9, 1, 2, 3, 4, 7] = ⟨6, 4, 9, some (.flagsClear 4 9 0x01020304), some [7]⟩
      ∧ readRecord [2, 2, 0, 0, 7, 4, 2] = ⟨2, 2, 0, none, some []⟩ := by decide +kernel

theorem witness_ReadsAnswerWithWhatIsHeld :
    readCircuit 63 = some 63 ∧ readTributary 15 = some 15 ∧ readPort 1 = some .B ∧ (64 : Byte).toNat ≥ 64 := by decide

theorem witness_CircuitWriteIsJudgedAndStored :
    let live := demo (inState .playing)
    let clash := (demo).onCircuit 1 (fun k => { k with entry := { k.entry with tributary := some 0, slotSet := 0b1000 } })
    readCircuit 0 = some 0 ∧ readFields readCircuitField [⟨2, [0, 0, 0, 1]⟩] = none
      ∧ readFields readCircuitField [⟨3, [8]⟩] = some [.frames 8]
      ∧ ((live.circuit 0).engaged = true ∧ CircuitField.structural (.frames 8) = true)
      ∧ (readFields readCircuitField [⟨2, [0, 0, 0, 8]⟩] = some [.slotSet 8] ∧ CircuitField.placesSlots (.slotSet 8) = true
        ∧ clash.framingOf (effectiveEntry (clash.circuit 0).entry [.slotSet 8]) = .framed
        ∧ (clash.circuit 1).entry.tributary = some 0 ∧ (clash.circuit 1).entry.slotSet &&& 8 ≠ 0)
      ∧ (readFields readCircuitField [⟨4, [0, 5]⟩] = some [.inLabel 5] ∧ CircuitField.isLabel (.inLabel 5) = true
        ∧ ((demo).circuit 0).entry.inLabel = 5) ∧ ((demo).circuit 0).engaged = false := by decide

/-- The power-on entry lies in its ranges: the numbers by evaluation, the path records because there is none. -/
theorem entry_in_range (e : CircuitEntry) (h : e = {}) : e.inRange := by
  subst h
  have none_present : ∀ (p : Port) (r : PathRecord), ({} : CircuitEntry).paths.get p ≠ some r := by intro p r; cases p <;> simp [Pair.get]
  simp [CircuitEntry.inRange, none_present]

theorem witness_WrittenFieldsAreClampedIntoRange : (({} : CircuitEntry)).inRange
    ∧ readFields readCircuitField [⟨3, [200]⟩, ⟨7, [255]⟩] = some [.frames 200, .depth 255]
    ∧ ({} : CircuitEntry).frames ≤ (({} : CircuitEntry).depth - 1) * ({} : CircuitEntry).frames ∧ 255 < 256 :=
  ⟨entry_in_range _ rfl, by decide, by decide, by decide⟩

theorem witness_CircuitEntryReadsBackWhole : (({} : CircuitEntry)).inRange := entry_in_range _ rfl

theorem witness_TributaryWriteIsJudgedAndStored :
    let engaged := demo (inState .playing)
    let clash := (demo).onCircuit 1 (fun k => { k with entry := { k.entry with tributary := some 0, slotSet := 0b1000 } })
    let loop := demo id (fun k => { k with clocking := { k.clocking with inForce := .loop, actual := .loop } })
    let held := demo id (fun k => { withLine (fun u => { aligned u with remoteAlarm := .seen }) k with
      entry := { k.entry with clockMode := .adaptive } })
    readTributary 0 = some 0 ∧ readFields readTributaryField [⟨1, [3]⟩] = none
      ∧ readFields readTributaryField [⟨1, [1]⟩] = some [.framing .framed]
      ∧ ((engaged.circuit 0).engaged = true ∧ (engaged.circuit 0).names 0 = true)
      ∧ ((∀ c, (clash.circuit c).engaged = false) ∧ (clash.circuit 0).names 0 = true ∧ (clash.circuit 1).names 0 = true
        ∧ (clash.circuit 0).entry.slotSet &&& (clash.circuit 1).entry.slotSet ≠ 0)
      ∧ readFields readTributaryField [⟨2, [2]⟩] = some [.clockMode .adaptive]
      ∧ (loop.tributary 0).clocking.actual = .loop
      ∧ readFields readTributaryField [⟨3, [1]⟩, ⟨2, [2]⟩] = some [.timing 1, .clockMode .adaptive]
      ∧ (((demo).tributary 0).clocking.actual = .free ∧ ((demo).circuit 1).names 0 = false ∧ ((demo).circuit 0).names 0 = true)
      ∧ readFields readTributaryField [⟨4, [7]⟩, ⟨5, [0, 0, 0, 31]⟩] = some [.idle 7, .enables 31]
      ∧ (held.tributary 0).entry.clockMode = .adaptive ∧ (held.tributary 0).line.alignment = .aligned
      ∧ (held.tributary 0).line.remoteAlarm = .seen := by decide +kernel

theorem witness_PortWriteKeepsCapturedFramesValues :
    readPort 0 = some .A ∧ readFields readPortField [⟨1, [3, 0, 0, 0, 0, 1]⟩] = none
      ∧ readFields readPortField [⟨1, [2, 0, 0, 0, 0, 1]⟩, ⟨2, [0]⟩, ⟨3, [0x05, 0xFF]⟩, ⟨4, [0, 0, 0, 7]⟩]
        = some [.address 0x020000000001, .accept false, .frameType 0x05FF, .enables 7]
      ∧ ((demo).port .A).earlier = [] ∧ (0 < signed32 (demo).lt 0xFFFFFFFF ∧ 0 < signed32 (demo).lt 0x80000001)
      ∧ (0 : Byte).toNat = 0 ∧ 4 < (5 : Byte).toNat := by decide

theorem witness_EngageStartsTheCircuit :
    let s := demo
    readCircuit 0 = some 0 ∧ (s.circuit 0).control.state = .disabled ∧ (s.circuit 0).entry.tributary = some 0
      ∧ (s.tributary 0).entry.framing ≠ .off ∧ (s.circuit 0).entry.slotSet ≠ 0 ∧ (s.circuit 0).entry.inLabel ≠ 0
      ∧ (s.circuit 0).entry.paths.a ≠ none ∧ (s.tributary 0).entry.framing ≠ .unframed
      ∧ s.totalReserved + reservationSize .framed (s.circuit 0).entry ≤ 2097152
      ∧ (let full := s.onCircuit 1 (fun k => { inState .playing k with control := { k.control with
            state := .playing, reserved := 2097152 - 512 } })
         full.totalReserved + reservationSize .framed (full.circuit 0).entry = 2097152) := by decide +kernel

theorem witness_ReleaseReturnsToDisabled :
    readCircuit 0 = some 0 ∧ ((demo (inState .playing)).circuit 0).engaged = true
      ∧ ((demo (inState .playing)).circuit 0).control.state = .playing
      ∧ ((demo (inState .awaiting)).circuit 0).control.state ≠ .playing ∧ ((demo).circuit 0).engaged = false := by decide

theorem witness_ReacquireReturnsToAwaiting :
    readCircuit 0 = some 0 ∧ ∀ st ∈ [CircuitState.acquiring, .playing, .starved],
      ((demo (pointed st 20480)).circuit 0).control.state = st := by decide

theorem witness_ForcePathAndCommandRefusals :
    let live := demo (inState .playing)
    readCircuit 0 = some 0 ∧ readPath 2 = some (some .B) ∧ (live.circuit 0).engaged = true
      ∧ Instr.release 64 ∈ [Instr.engage 64, Instr.release 64, Instr.reacquire 64] ∧ 64 ≤ (64 : Byte).toNat
      ∧ 2 < (3 : Byte).toNat ∧ ((demo).circuit 0).engaged = false ∧ ((demo).circuit 0).control.state = .disabled
      ∧ State.reset.framingOf (State.reset.circuit 0).entry = .off
      ∧ (let s := (live.onCircuit 1 (fun k => { k with entry := { demoEntry with inLabel := 6 } })).onTributary 0
            (fun k => { k with entry := { k.entry with framing := .unframed } })
         (s.circuit 1).engaged = false ∧ s.framingOf (s.circuit 1).entry = .unframed ∧ (s.circuit 0).engaged = true
          ∧ (s.circuit 0).entry.tributary = (s.circuit 1).entry.tributary)
      ∧ (let full := (demo).onCircuit 1 (fun k => { inState .playing k with control := { k.control with
            state := .playing, reserved := 2097152 } })
         2097152 < full.totalReserved + reservationSize .framed (full.circuit 0).entry) := by decide +kernel

theorem witness_CountersReadFlagsClearAndRefusals :
    readCircuit 63 = some 63 ∧ (1 : Byte).toNat ≤ 1 ∧ 1 < (2 : Byte).toNat
      ∧ (0x3FFF : BitVec 32).toNat < 2 ^ 14 ∧ 2 ^ 14 ≤ (0x4000 : BitVec 32).toNat
      ∧ readTributary 15 = some 15 ∧ (0x1F : BitVec 32).toNat < 2 ^ 5 ∧ 2 ^ 5 ≤ (0x20 : BitVec 32).toNat
      ∧ readPort 1 = some .B ∧ (7 : BitVec 32).toNat < 2 ^ 3 ∧ 2 ^ 3 ≤ (8 : BitVec 32).toNat
      ∧ ((demo).circuit 0).counters.get 15 ≤ 4294967295 ∧ ((demo).port .A).counters.get 5 ≤ 4294967295
      ∧ 64 ≤ (64 : Byte).toNat ∧ 16 ≤ (16 : Byte).toNat ∧ 2 ≤ (2 : Byte).toNat := by decide

theorem witness_EventsTakeRemovesTheOldest : State.reset.events.length ≤ 64 := by decide

theorem witness_RestartKeepsTablesTimeAndLines :
    ((demo (inState .playing)).circuit 0).engaged = true ∧ ((demo).circuit 0).engaged = false
      ∧ (let s := demo (fun k => { inState .playing k with recovery := { k.recovery with history := [5] } })
          (fun k => { k with clocking := { k.clocking with inForce := .adaptive, actual := .adaptive, timing := 0 } })
         (s.tributary 0).clocking.actual = .adaptive ∧ (s.circuit (s.tributary 0).clocking.timing).entry.tributary = some 0
          ∧ (s.circuit (s.tributary 0).clocking.timing).control.state = .playing
          ∧ (s.circuit (s.tributary 0).clocking.timing).recovery.history ≠ []) := by decide

theorem witness_SettingAFlagQueuesOneRecord :
    let r : FlagRef := .circuit 0 .slip
    let x : EventRecord := ⟨.port .A .linkChange, 0, .upDown .up⟩
    FlagRef.port .A .linkChange ≠ r ∧ (State.reset.withFlag r (some .none)).flag r ≠ none ∧ State.reset.flag r = none
      ∧ State.reset.enabled r = true ∧ ({ State.reset with events := List.replicate 63 x }).events.length < 64
      ∧ 64 ≤ ({ State.reset with events := List.replicate 64 x }).events.length
      ∧ (State.reset.onCircuit 0 (fun k => { k with entry := { k.entry with enables := 0 } })).enabled r = false := by decide

theorem witness_SignedTimeDifference :
    ((2147483648 : Ticks).toNat + 4294967296 - (0 : Ticks).toNat) % 4294967296 = 2147483648
      ∧ (5000 : Ticks) = BitVec.ofInt 32 5000 ∧ (4294966296 : Ticks) = BitVec.ofInt 32 (-1000)
      ∧ ((5000 : Int) - -1000).natAbs < 2147483648 := by decide

theorem witness_SignedSequenceDifference :
    ((32768 : SeqNo).toNat + 65536 - (0 : SeqNo).toNat) % 65536 = 32768 := by decide

theorem witness_OnlyTheirRequestsUndoCountsFlagsAndEntries :
    exec (.linkUp .A) State.reset = .next (after (.linkUp .A) State.reset) ∧ (∀ unit, Instr.linkUp .A ≠ .powerOn unit)
      ∧ Instr.linkUp .A ≠ .restart ∧ (∀ p, Instr.linkUp .A ≠ .managementFrame p)
      ∧ (∀ kind index clear, Instr.linkUp .A ≠ .countersRead kind index clear)
      ∧ (∀ kind index mask, Instr.linkUp .A ≠ .flagsClear kind index mask)
      ∧ (∀ kind index items, Instr.linkUp .A ≠ .tableWrite kind index items) ∧ (∀ n, Instr.linkUp .A ≠ .eventsTake n) := by
  refine ⟨rfl, ?_, ?_, ?_, ?_, ?_, ?_, ?_⟩ <;> (try intros) <;> (intro h; cases h)

/-- A part just powered on with unit number 5: every circuit and tributary is at its power-on value. -/
def fresh : State := powerOnState 5

theorem fresh_circuit (c : Fin 64) : fresh.circuit c = {} := by simp [fresh, powerOnState, State.circuit]

theorem fresh_tributary (t : Fin 16) : fresh.tributary t = {} := by simp [fresh, powerOnState, State.tributary]

theorem fresh_port (p : Port) : fresh.port p = powerOnPort 5 p := by cases p <;> rfl

theorem fresh_steps : step fresh = .next fresh.idle := rfl

theorem witness_StepsKeepQueuesCountersAndMemoryBounded :
    queuesBounded fresh ∧ countersLaw fresh ∧ memoryLaw fresh ∧ reservationLaw fresh ∧ step fresh = .next fresh.idle := by
  refine ⟨⟨by decide, fun p => by cases p <;> decide⟩, ⟨fun c i => ?_, fun p i => ?_⟩, by unfold memoryLaw; decide +kernel, fun c h => ?_,
    fresh_steps⟩
  · simp [fresh_circuit, Vector.get_eq_getElem]
  · simp [fresh_port, powerOnPort, Vector.get_eq_getElem]
  · simp [fresh_circuit, Circuit.engaged] at h

theorem witness_StepsKeepTheRecoveryLaws : recoveryRangeLaw fresh ∧ lockLaw fresh ∧ step fresh = .next fresh.idle := by
  refine ⟨⟨fun c => ?_, fun t => ?_⟩, fun c h => ?_, fresh_steps⟩
  · simp [fresh_circuit, inFreqRange]
  · simp [fresh_tributary, inFreqRange]
  · simp [fresh_circuit] at h

theorem witness_StepsKeepTheDisabledAndPathLaws : disabledLaw fresh ∧ pathLaw fresh ∧ step fresh = .next fresh.idle := by
  refine ⟨fun c => ?_, fun c p h => ?_, fresh_steps⟩
  · simp [fresh_circuit, Circuit.disabledForm]
  · cases p <;> simp [fresh_circuit, Pair.get] at h

theorem witness_StepsKeepTheClockLaw : clockLaw fresh ∧ historyLaw fresh ∧ step fresh = .next fresh.idle := by
  refine ⟨fun t => ?_, ⟨fun c h => ?_, fun t h => ?_⟩, fresh_steps⟩
  · simp [fresh_tributary]
  · simp [fresh_circuit] at h
  · simp [fresh_tributary] at h

theorem fresh_tables : tablesLaw fresh :=
  ⟨fun c => entry_in_range _ (by simp [fresh_circuit]), fun p => by cases p <;> decide⟩

theorem witness_StepsKeepTheTablesInRangeAndFreeOfConflicts :
    tablesLaw fresh ∧ conflictLaw fresh ∧ unframedLaw fresh ∧ step fresh = .next fresh.idle := by
  refine ⟨fresh_tables, fun c d _ => ?_, fun c t h => ?_, fresh_steps⟩
  · simp [fresh_circuit]
  · simp [fresh_circuit, Circuit.engaged] at h

theorem witness_StepsKeepThePlayoutBufferLaw : bufferLaw fresh ∧ step fresh = .next fresh.idle := by
  refine ⟨⟨fresh_tables, fun c => ?_, fun c i e h => ?_⟩, fresh_steps⟩
  · simp [fresh_circuit, Circuit.disabledForm]
  · simp [fresh_circuit, Vector.get_eq_getElem] at h

end Sys2Proof.Tests
end

/-! PROOFS. The signed differences of time values and of sequence numbers (R22, R23): the rule at every width, the two
widths as its instances, and what R22 reads off the difference. -/

namespace Sys2Proof.Machine

/-! ### The rule at every width -/

/-- The reduction of R22 and R23 with the modulus added on the left, so that no natural subtraction is cut off. -/
theorem toNat_sub_eq_add_sub_mod {w : Nat} (x y : BitVec w) :
    (x - y).toNat = (x.toNat + 2 ^ w - y.toNat) % 2 ^ w := by
  have hy : y.toNat < 2 ^ w := y.isLt
  rw [BitVec.toNat_sub]
  congr 1
  omega

/-- The two's complement reading of a difference is the signed difference of R22 and R23. -/
theorem toInt_sub_eq_ite {w : Nat} (x y : BitVec w) (r : Nat) (hr : r = (x.toNat + 2 ^ w - y.toNat) % 2 ^ w) :
    (x - y).toInt = if 2 * r < 2 ^ w then (r : Int) else (r : Int) - (2 ^ w : Nat) := by
  rw [BitVec.toInt_eq_toNat_cond, toNat_sub_eq_add_sub_mod, ← hr]

/-- The reduction does not lose a true separation of less than half the modulus, however the two values wrap. -/
theorem toInt_ofInt_sub_ofInt {w : Nat} (a b : Int) (h : 2 * (a - b).natAbs < 2 ^ w) :
    (BitVec.ofInt w a - BitVec.ofInt w b).toInt = a - b := by
  rw [BitVec.toInt_sub, BitVec.toInt_ofInt, BitVec.toInt_ofInt, Int.bmod_sub_bmod, Int.sub_bmod_bmod]
  exact Int.bmod_eq_of_le_mul_two (by omega) (by omega)

/-! ### Time values (R22) -/

theorem signed32_eq_ite (x y : Ticks) (r : Nat) (hr : r = (x.toNat + 4294967296 - y.toNat) % 4294967296) :
    signed32 x y = if r < 2147483648 then (r : Int) else (r : Int) - 4294967296 := by
  have half : 2 * r < 4294967296 ↔ r < 2147483648 := by omega
  simpa only [signed32, Nat.reducePow, Nat.cast_ofNat, half] using toInt_sub_eq_ite x y r hr

theorem signed32_range (x y : Ticks) : -2147483648 ≤ signed32 x y ∧ signed32 x y ≤ 2147483647 :=
  ⟨BitVec.le_toInt (x - y), Int.le_of_lt_add_one BitVec.toInt_lt⟩

theorem reached_iff (x y : Ticks) : reached x y = true ↔ 0 ≤ signed32 x y := decide_eq_true_iff

theorem signed32_eq_zero_iff (x y : Ticks) : signed32 x y = 0 ↔ x = y := by
  have zero : signed32 x y = 0 ↔ x - y = 0#32 := by
    rw [signed32, ← BitVec.toInt_zero (w := 32), BitVec.toInt_inj]
  exact zero.trans sub_eq_zero

theorem signed32_ofInt (a b : Int) (h : (a - b).natAbs < 2147483648) :
    signed32 (BitVec.ofInt 32 a) (BitVec.ofInt 32 b) = a - b :=
  toInt_ofInt_sub_ofInt a b (by omega)

/-! ### Sequence numbers (R23) -/

theorem signed16_eq_ite (q u : SeqNo) (r : Nat) (hr : r = (q.toNat + 65536 - u.toNat) % 65536) :
    signed16 q u = if r < 32768 then (r : Int) else (r : Int) - 65536 := by
  have half : 2 * r < 65536 ↔ r < 32768 := by omega
  simpa only [signed16, Nat.reducePow, Nat.cast_ofNat, half] using toInt_sub_eq_ite q u r hr

theorem signed16_range (q u : SeqNo) : -32768 ≤ signed16 q u ∧ signed16 q u ≤ 32767 :=
  ⟨BitVec.le_toInt (q - u), Int.le_of_lt_add_one BitVec.toInt_lt⟩

theorem expectedStamp_eq (u q : SeqNo) (ts : Ticks) (f : Nat) :
    expectedStamp u ts f q = ts + BitVec.ofInt 32 (signed16 q u * f * 1024) := rfl

/-! ### The statements -/

/-- Settles O52, from the rule at width 32 and what it gives at a separation of half the modulus. -/
theorem signedTimeDifference : Obligations.SignedTimeDifference := by
  intro x y r
  have rule := signed32_eq_ite x y r rfl
  obtain ⟨low, high⟩ := signed32_range x y
  have halfway (hr : r = 2147483648) : signed32 x y = -2147483648 := by simp [rule, hr]
  refine ⟨rule, low, high, reached_iff x y, signed32_eq_zero_iff x y, halfway, ?_⟩
  rintro a b rfl rfl separation
  exact signed32_ofInt a b separation

/-- Settles O53, from the rule at width 16 and R24's stamp of a signed sequence difference. -/
theorem signedSequenceDifference : Obligations.SignedSequenceDifference := by
  intro q u r
  have rule := signed16_eq_ite q u r rfl
  obtain ⟨low, high⟩ := signed16_range q u
  have halfway (hr : r = 32768) : signed16 q u = -32768 := by simp [rule, hr]
  exact ⟨rule, low, high, halfway, expectedStamp_eq u q⟩

end Sys2Proof.Machine

/-! PROOFS. What a set flag leaves of its object, as an equation of the object itself; and what the rows of counters and flags
of one object keep through a count and a flag. -/

namespace Sys2Proof.Machine

/-! ### A flag set in a row of flags (R180) -/

/-- A row of flags after a rule has set one of them: a SET flag keeps its detail. -/
def raisedRow {n : Nat} (v : Vector (Option Detail) n) (i : Fin n) (d : Detail) : Vector (Option Detail) n :=
  v.set i.val (some ((v[i.val]).getD d))

theorem raisedRow_of_isSome {n : Nat} (v : Vector (Option Detail) n) (i : Fin n) (d : Detail) (h : (v[i.val]).isSome) :
    raisedRow v i d = v := by
  obtain ⟨x, hx⟩ := Option.isSome_iff_exists.mp h
  have keep : some ((v[i.val]).getD d) = v[i.val] := by rw [hx]; rfl
  rw [raisedRow, keep, Vector.set_getElem_self]

theorem raisedRow_of_none {n : Nat} (v : Vector (Option Detail) n) (i : Fin n) (d : Detail) (h : v[i.val] = none) :
    raisedRow v i d = v.set i.val (some d) := by
  rw [raisedRow, h]; rfl

/-- A SET flag of a row stays SET, with its detail, whichever flag is set. -/
theorem raisedRow_keeps {n : Nat} (v : Vector (Option Detail) n) (i j : Fin n) (d x : Detail) (h : v.get j = some x) :
    (raisedRow v i d).get j = some x := by
  simp only [Vector.get_eq_getElem] at h ⊢
  by_cases e : i = j
  · subst e; simp [raisedRow, h]
  · have : i.val ≠ j.val := fun k => e (Fin.ext k)
    simp [raisedRow, Vector.getElem_set_ne, this, h]

/-! ### A flag set in its object -/

/-- A circuit in which a rule has set a flag. -/
def Circuit.raised (k : Circuit) (f : CircuitFlag) (d : Detail) : Circuit := { k with flags := raisedRow k.flags f.code d }

/-- A circuit in which a rule has set a flag if a condition holds. -/
def Circuit.raisedIf (k : Circuit) (b : Bool) (f : CircuitFlag) (d : Detail) : Circuit :=
  { k with flags := if b then raisedRow k.flags f.code d else k.flags }

namespace Circuit

@[simp] theorem raised_entry (k : Circuit) (f : CircuitFlag) (d : Detail) : (k.raised f d).entry = k.entry := rfl
@[simp] theorem raised_control (k : Circuit) (f : CircuitFlag) (d : Detail) : (k.raised f d).control = k.control := rfl
@[simp] theorem raised_packetizer (k : Circuit) (f : CircuitFlag) (d : Detail) : (k.raised f d).packetizer = k.packetizer := rfl
@[simp] theorem raised_merge (k : Circuit) (f : CircuitFlag) (d : Detail) : (k.raised f d).merge = k.merge := rfl
@[simp] theorem raised_buffer (k : Circuit) (f : CircuitFlag) (d : Detail) : (k.raised f d).buffer = k.buffer := rfl
@[simp] theorem raised_recovery (k : Circuit) (f : CircuitFlag) (d : Detail) : (k.raised f d).recovery = k.recovery := rfl
@[simp] theorem raised_delay (k : Circuit) (f : CircuitFlag) (d : Detail) : (k.raised f d).delay = k.delay := rfl
@[simp] theorem raised_counters (k : Circuit) (f : CircuitFlag) (d : Detail) : (k.raised f d).counters = k.counters := rfl

@[simp] theorem raisedIf_entry (k : Circuit) (b : Bool) (f : CircuitFlag) (d : Detail) :
    (k.raisedIf b f d).entry = k.entry := rfl
@[simp] theorem raisedIf_control (k : Circuit) (b : Bool) (f : CircuitFlag) (d : Detail) :
    (k.raisedIf b f d).control = k.control := rfl
@[simp] theorem raisedIf_packetizer (k : Circuit) (b : Bool) (f : CircuitFlag) (d : Detail) :
    (k.raisedIf b f d).packetizer = k.packetizer := rfl
@[simp] theorem raisedIf_merge (k : Circuit) (b : Bool) (f : CircuitFlag) (d : Detail) :
    (k.raisedIf b f d).merge = k.merge := rfl
@[simp] theorem raisedIf_buffer (k : Circuit) (b : Bool) (f : CircuitFlag) (d : Detail) :
    (k.raisedIf b f d).buffer = k.buffer := rfl
@[simp] theorem raisedIf_recovery (k : Circuit) (b : Bool) (f : CircuitFlag) (d : Detail) :
    (k.raisedIf b f d).recovery = k.recovery := rfl
@[simp] theorem raisedIf_delay (k : Circuit) (b : Bool) (f : CircuitFlag) (d : Detail) :
    (k.raisedIf b f d).delay = k.delay := rfl
@[simp] theorem raisedIf_counters (k : Circuit) (b : Bool) (f : CircuitFlag) (d : Detail) :
    (k.raisedIf b f d).counters = k.counters := rfl

theorem raisedIf_true (k : Circuit) (f : CircuitFlag) (d : Detail) : k.raisedIf true f d = k.raised f d := rfl

theorem raisedIf_false (k : Circuit) (f : CircuitFlag) (d : Detail) : k.raisedIf false f d = k := rfl

end Circuit

/-- A tributary in which a rule has set a flag. -/
def Tributary.raised (k : Tributary) (f : TributaryFlag) (d : Detail) : Tributary :=
  { k with flags := raisedRow k.flags f.code d }

/-- A tributary in which a rule has set a flag if a condition holds. -/
def Tributary.raisedIf (k : Tributary) (b : Bool) (f : TributaryFlag) (d : Detail) : Tributary :=
  { k with flags := if b then raisedRow k.flags f.code d else k.flags }

namespace Tributary

@[simp] theorem raised_entry (k : Tributary) (f : TributaryFlag) (d : Detail) : (k.raised f d).entry = k.entry := rfl
@[simp] theorem raised_line (k : Tributary) (f : TributaryFlag) (d : Detail) : (k.raised f d).line = k.line := rfl
@[simp] theorem raised_transmit (k : Tributary) (f : TributaryFlag) (d : Detail) : (k.raised f d).transmit = k.transmit := rfl
@[simp] theorem raised_clocking (k : Tributary) (f : TributaryFlag) (d : Detail) : (k.raised f d).clocking = k.clocking := rfl
@[simp] theorem raisedIf_entry (k : Tributary) (b : Bool) (f : TributaryFlag) (d : Detail) :
    (k.raisedIf b f d).entry = k.entry := rfl
@[simp] theorem raisedIf_line (k : Tributary) (b : Bool) (f : TributaryFlag) (d : Detail) :
    (k.raisedIf b f d).line = k.line := rfl
@[simp] theorem raisedIf_transmit (k : Tributary) (b : Bool) (f : TributaryFlag) (d : Detail) :
    (k.raisedIf b f d).transmit = k.transmit := rfl
@[simp] theorem raisedIf_clocking (k : Tributary) (b : Bool) (f : TributaryFlag) (d : Detail) :
    (k.raisedIf b f d).clocking = k.clocking := rfl

end Tributary

/-- A port in which a rule has set a flag. -/
def PortState.raised (k : PortState) (f : PortFlag) (d : Detail) : PortState := { k with flags := raisedRow k.flags f.code d }

theorem circuit_raise_self (s : State) (c : Fin 64) (f : CircuitFlag) (d : Detail) :
    (s.raise (.circuit c f) d).circuit c = (s.circuit c).raised f d := by
  rcases raise_cases s (.circuit c f) d with ⟨h, e⟩ | ⟨h, _, e⟩ | ⟨h, _, e⟩ <;> simp only [State.flag] at h
  · rw [e, Circuit.raised, raisedRow_of_isSome _ _ _ h]
  · simp [e, State.withFlag, Circuit.raised, raisedRow_of_none _ _ _ h]
  · simp [e, State.withFlag, Circuit.raised, raisedRow_of_none _ _ _ h]

/-- A flag set under a condition, as the circuit has it. -/
theorem circuit_raise_ite (s : State) (c : Fin 64) (b : Bool) (f : CircuitFlag) (d : Detail) :
    (if b = true then s.raise (.circuit c f) d else s).circuit c = (s.circuit c).raisedIf b f d := by
  cases b
  · rfl
  · exact circuit_raise_self s c f d

theorem tributary_raise_self (s : State) (t : Fin 16) (f : TributaryFlag) (d : Detail) :
    (s.raise (.tributary t f) d).tributary t = (s.tributary t).raised f d := by
  rcases raise_cases s (.tributary t f) d with ⟨h, e⟩ | ⟨h, _, e⟩ | ⟨h, _, e⟩ <;> simp only [State.flag] at h
  · rw [e, Tributary.raised, raisedRow_of_isSome _ _ _ h]
  · simp [e, State.withFlag, Tributary.raised, raisedRow_of_none _ _ _ h]
  · simp [e, State.withFlag, Tributary.raised, raisedRow_of_none _ _ _ h]

/-- A flag set under a condition, as the tributary has it. -/
theorem tributary_raise_ite (s : State) (t : Fin 16) (P : Prop) [Decidable P] (f : TributaryFlag) (d : Detail) :
    (if P then s.raise (.tributary t f) d else s).tributary t = (s.tributary t).raisedIf (decide P) f d := by
  by_cases h : P
  · rw [if_pos h, tributary_raise_self, decide_eq_true h]; rfl
  · rw [if_neg h, decide_eq_false h]; rfl

theorem port_raise_self (s : State) (p : Port) (f : PortFlag) (d : Detail) :
    (s.raise (.port p f) d).port p = (s.port p).raised f d := by
  rcases raise_cases s (.port p f) d with ⟨h, e⟩ | ⟨h, _, e⟩ | ⟨h, _, e⟩ <;> simp only [State.flag] at h
  · rw [e, PortState.raised, raisedRow_of_isSome _ _ _ h]
  · simp [e, State.withFlag, PortState.raised, raisedRow_of_none _ _ _ h]
  · simp [e, State.withFlag, PortState.raised, raisedRow_of_none _ _ _ h]

/-! ### Counters of a row -/

theorem get_le_get_bump {n : Nat} (v : Vector Nat n) (i j : Fin n) : v.get j ≤ (bump v i).get j := by
  by_cases e : j = i
  · subst e; rw [get_bump_self]; exact le_countUp _
  · rw [get_bump_of_ne v e]

theorem get_bump_le {n : Nat} (v : Vector Nat n) (i : Fin n) (h : ∀ j, v.get j ≤ 4294967295) (j : Fin n) :
    (bump v i).get j ≤ 4294967295 := by
  by_cases e : j = i
  · subst e; rw [get_bump_self]; exact countUp_le (h j)
  · rw [get_bump_of_ne v e]; exact h j

/-- Counting in one place leaves another counter of the row alone. -/
theorem get_bump {n : Nat} (v : Vector Nat n) (i j : Fin n) :
    (bump v i).get j = if j = i then countUp (v.get j) else v.get j := by
  split
  · next e => subst e; exact get_bump_self v j
  · next e => exact get_bump_of_ne v e

end Sys2Proof.Machine

/-! PROOFS. The law of the playout buffer (R108) for one buffer of a given depth, through each operation of chapter 7 on it. -/

namespace Sys2Proof.Machine

/-- The law of R108 for a buffer of the given depth. -/
def Buffer.lawful (b : Buffer) (depth : Nat) : Prop :=
  ∀ i e, b.slots.get i = some e → ∃ x, b.pointer = some x ∧ i = slotPlace depth e.seq
    ∧ 0 ≤ signed16 e.seq x.seq ∧ signed16 e.seq x.seq < (depth : Int)

theorem bufferLaw_iff (k : Circuit) : k.bufferLaw ↔ k.buffer.lawful k.entry.depth := Iff.rfl

/-! ### What a class says of the sequence (R100) -/

theorem of_classOf_firstCopy {b : Buffer} {x : Pointer} {depth : Nat} {q : SeqNo} (h : classOf b x depth q = .firstCopy) :
    0 ≤ signed16 q x.seq ∧ signed16 q x.seq < (depth : Int) := by
  unfold classOf at h
  dsimp only at h
  split at h
  · split at h
    · cases h
    · split at h <;> cases h
  · split at h
    · cases h
    · omega

theorem of_classOf_duplicateHeld {b : Buffer} {x : Pointer} {depth : Nat} {q : SeqNo} {e : HeldEntry}
    (h : classOf b x depth q = .duplicateHeld e) : b.slot depth q = some e := by
  unfold classOf at h
  dsimp only at h
  split at h
  · split at h
    · cases h
    · split at h <;> cases h
  · split at h
    · cases h
    · split at h
      · next hs => cases h; exact hs
      · split at h <;> cases h

namespace Buffer

variable {b : Buffer} {depth : Nat}

theorem lawful_of_empty (h : ∀ i, b.slots.get i = none) : b.lawful depth := by
  intro i e he
  simp [h] at he

/-- Only the slots and the sequence of the pointer matter. -/
theorem lawful.congr (h : b.lawful depth) {b' : Buffer} (slots : b'.slots = b.slots)
    (pointer : b'.pointer.map Pointer.seq = b.pointer.map Pointer.seq) : b'.lawful depth := by
  intro i e he
  obtain ⟨x, hx, place, low, high⟩ := h i e (by rw [← slots]; exact he)
  rw [hx] at pointer
  obtain ⟨y, hy, seq⟩ := Option.map_eq_some_iff.mp pointer
  exact ⟨y, hy, place, by rw [seq]; exact ⟨low, high⟩⟩

/-- An entry put at its own slot, less than a depth ahead of the pointer, is as lawful as those held (R110). -/
theorem lawful.put (h : b.lawful depth) {x : Pointer} (pointer : b.pointer = some x) (seq : SeqNo) (e : HeldEntry)
    (place : slotPlace depth e.seq = slotPlace depth seq) (low : 0 ≤ signed16 e.seq x.seq)
    (high : signed16 e.seq x.seq < (depth : Int)) : (b.withSlot depth seq (some e)).lawful depth := by
  intro i v hv
  simp only [withSlot, Vector.get_eq_getElem, Vector.getElem_set] at hv
  split at hv
  · next hi =>
    cases hv
    exact ⟨x, pointer, (Fin.ext hi.symm).trans place.symm, low, high⟩
  · exact h i v hv

/-- The entry at a slot satisfies the law (R108). -/
theorem lawful.slot (h : b.lawful depth) {seq : SeqNo} {e : HeldEntry} (he : b.slot depth seq = some e) :
    ∃ x, b.pointer = some x ∧ slotPlace depth seq = slotPlace depth e.seq
      ∧ 0 ≤ signed16 e.seq x.seq ∧ signed16 e.seq x.seq < (depth : Int) := h _ _ he

/-! ### A signed sequence difference and a step of the pointer -/

theorem signed16_self (q : SeqNo) : signed16 q q = 0 := by simp [signed16]

theorem eq_of_signed16_eq_zero {q u : SeqNo} (h : signed16 q u = 0) : q = u := by
  have : q - u = 0#16 := by rw [← BitVec.toInt_inj]; simpa [signed16] using h
  exact sub_eq_zero.mp this

/-- The pointer's sequence advanced by `n` lowers a difference by `n`, as long as the result is in range (R23). -/
theorem signed16_sub_ofNat (q u : SeqNo) (n : Nat) (low : -32768 ≤ signed16 q u - n) (high : signed16 q u - n < 32768) :
    signed16 q (u + BitVec.ofNat 16 n) = signed16 q u - n := by
  have e : q - (u + BitVec.ofNat 16 n) = (q - u) - BitVec.ofNat 16 n := by ring
  unfold signed16 at *
  rw [e, BitVec.toInt_sub, BitVec.toInt_ofNat', Int.sub_bmod_bmod]
  exact Int.bmod_eq_of_le_mul_two (by push_cast; omega) (by push_cast; omega)

/-! ### The operations -/

theorem lawful_flush : b.flush.lawful depth := lawful_of_empty (fun i => by simp [flush, Vector.get_eq_getElem])

theorem lawful_flush_none : ({ b.flush with pointer := none } : Buffer).lawful depth :=
  lawful_of_empty (fun i => by simp [flush, Vector.get_eq_getElem])

/-- The buffer anchoring leaves holds the one arrival, at the pointer (R60). -/
theorem lawful_anchored (e : HeldEntry) (frame : Nat) (ts : Ticks) (pos : 0 < depth) :
    (({ b.flush with pointer := some ⟨e.seq, frame, ts⟩ } : Buffer).store depth e).lawful depth := by
  have flushed : ({ b.flush with pointer := some ⟨e.seq, frame, ts⟩ } : Buffer).lawful depth :=
    lawful_of_empty (fun i => by simp [flush, Vector.get_eq_getElem])
  exact flushed.put rfl e.seq e rfl (by simp [signed16_self]) (by simpa [signed16_self] using pos)

/-- The window slid forward drops what falls behind and brings the rest nearer (R112). -/
theorem lawful.slide (h : b.lawful depth) (frames n : Nat) (hn : n ≤ 32767) : (b.slide frames n).lawful depth := by
  unfold Buffer.slide
  split
  · exact h
  · next x hx =>
    intro i e he
    simp only [Vector.get_eq_getElem, Vector.getElem_map] at he
    split at he
    · next held hs =>
      split at he
      · cases he
      · next ahead =>
        cases he
        obtain ⟨y, hy, place, low, high⟩ := h i e hs
        cases hx.symm.trans hy
        have range := signed16_range e.seq x.seq
        have step : signed16 e.seq (x.seq + BitVec.ofNat 16 n) = signed16 e.seq x.seq - n :=
          signed16_sub_ofNat _ _ _ (by omega) (by omega)
        exact ⟨_, rfl, place, by simp only at ahead ⊢; omega, by simp only; omega⟩
    · cases he

/-- The pointer leaves its sequence, whose slot is freed: every other held entry is ahead by one at least (R114, R117). -/
theorem lawful.leave (h : b.lawful depth) {x : Pointer} (hx : b.pointer = some x) (frames : Nat) :
    (b.leave x depth frames).lawful depth := by
  intro i e he
  simp only [Buffer.leave, withSlot, Vector.get_eq_getElem, Vector.getElem_set] at he
  split at he
  · cases he
  · next apart =>
    obtain ⟨y, hy, place, low, high⟩ := h i e he
    cases hx.symm.trans hy
    have ahead : signed16 e.seq x.seq ≠ 0 := fun zero =>
      apart (by rw [place, eq_of_signed16_eq_zero zero])
    have range := signed16_range e.seq x.seq
    have step : signed16 e.seq (x.seq + 1) = signed16 e.seq x.seq - 1 := by
      simpa using signed16_sub_ofNat e.seq x.seq 1 (by omega) (by omega)
    exact ⟨_, rfl, place, by simp only [step]; omega, by simp only [step]; omega⟩

/-- What an arrival stores or records keeps the law (R101, R110, R111). -/
theorem lawful.take (h : b.lawful depth) {y : Pointer} (hy : b.pointer = some y) (x : Candidate) (sampled : Bool) :
    (b.take (classOf b y depth x.seq) depth x sampled).lawful depth := by
  cases cls : classOf b y depth x.seq with
  | firstCopy =>
    obtain ⟨low, high⟩ := of_classOf_firstCopy cls
    exact h.put hy x.seq (x.entry sampled) rfl low high
  | duplicateHeld e =>
    obtain ⟨z, hz, place, low, high⟩ := h.slot (of_classOf_duplicateHeld cls)
    exact h.put hz x.seq _ place.symm low high
  | duplicatePlayed _ => exact h.congr rfl rfl
  | lateMissed _ => exact h.congr rfl rfl
  | lateUnknown => exact h
  | overrun => exact h

end Buffer

end Sys2Proof.Machine

/-! PROOFS. What an operation on the blocks of an engaged circuit keeps of the circuit: its size and place, the order of its
counters and flags, and each law of Safety.lean that speaks of one circuit. -/

namespace Sys2Proof.Machine

/-! ### Clock recovery -/

/-- The law of the recovery range for one circuit (R127, R137, R142). -/
def Recovery.inRange (r : Recovery) : Prop :=
  inFreqRange r.freq ∧ inFreqRange r.integrator ∧ inFreqRange r.tickFreq ∧ (∀ x ∈ r.history, inFreqRange x)
  ∧ r.history.length ≤ 8 ∧ ∀ e, r.lastError = some e → -2047 ≤ e ∧ e ≤ 2047

/-- What clock recovery keeps through an operation that is no loop update: its range, an UNLOCKED lock and its history. -/
structure Recovery.Keeps (r r' : Recovery) : Prop where
  range   : r.inRange → r'.inRange
  locked  : r'.locked = true → r.locked = true
  history : r'.history = r.history

namespace Recovery

theorem inRange.congr {r r' : Recovery} (h : r.inRange) (freq : r'.freq = r.freq) (integrator : r'.integrator = r.integrator)
    (tickFreq : r'.tickFreq = r.tickFreq) (lastError : r'.lastError = r.lastError) (history : r'.history = r.history) :
    r'.inRange := by
  rw [inRange, freq, integrator, tickFreq, lastError, history]; exact h

/-- A block that differs in RT, the window, the counts and an UNLOCKED lock alone. -/
theorem Keeps.of_eq {r r' : Recovery} (freq : r'.freq = r.freq) (integrator : r'.integrator = r.integrator)
    (tickFreq : r'.tickFreq = r.tickFreq) (lastError : r'.lastError = r.lastError) (history : r'.history = r.history)
    (locked : r'.locked = true → r.locked = true) : Keeps r r' where
  range h := h.congr freq integrator tickFreq lastError history
  locked := locked
  history := history

theorem keeps_unlock (r : Recovery) : Keeps r r.unlock := .of_eq rfl rfl rfl rfl rfl (fun h => by cases h)

theorem keeps_shift (r : Recovery) (m : Int) : Keeps r (r.shift m) := .of_eq rfl rfl rfl rfl rfl id

theorem keeps_enter (r : Recovery) (w : Nat) (x : Int) : Keeps r (r.enter w x) := by
  unfold enter
  split <;> exact .of_eq rfl rfl rfl rfl rfl id

theorem mean_inRange {r : Recovery} (h : r.inRange) {m : Int} (k : meanTowardZero r.history = some m) : inFreqRange m :=
  meanTowardZero_mem (by decide) (by decide) h.2.2.2.1 k

theorem keeps_holdMean (r : Recovery) : Keeps r { r.holdMean with window := none } := by
  unfold holdMean
  split
  · exact .of_eq rfl rfl rfl rfl rfl id
  · next m hm =>
    refine ⟨fun h => ?_, id, rfl⟩
    have mean := mean_inRange h hm
    obtain ⟨_, _, tick, hist, len, err⟩ := h
    exact ⟨mean, mean, tick, hist, len, err⟩

theorem keeps_tick (r : Recovery) : Keeps r r.tick := by
  refine ⟨fun h => ?_, id, rfl⟩
  obtain ⟨freq, integ, _, hist, len, err⟩ := h
  exact ⟨freq, integ, freq, hist, len, err⟩

theorem inRange_update {r : Recovery} (a b : Nat) (m : Int) (h : r.inRange) : (r.update a b (loopError m)).inRange := by
  obtain ⟨_, _, tick, hist, len, _⟩ := h
  refine ⟨sat_mem _, sat_mem _, tick, hist, len, fun e he => ?_⟩
  cases he
  exact loopError_mem m

/-- The judgement of the lock touches the lock and its two counts alone. -/
theorem judge_cases (r : Recovery) (lock unlock : Nat) (e : Int) :
    ∃ l n m, (r.judge lock unlock e).1 = { r with locked := l, towardLock := n, towardLoss := m } := by
  unfold judge
  split_ifs <;> exact ⟨_, _, _, rfl⟩

theorem inRange_judge {r : Recovery} (lock unlock : Nat) (e : Int) (h : r.inRange) : (r.judge lock unlock e).1.inRange := by
  obtain ⟨l, n, m, eq⟩ := judge_cases r lock unlock e
  rw [eq]
  exact h.congr rfl rfl rfl rfl rfl

theorem judge_history (r : Recovery) (lock unlock : Nat) (e : Int) : (r.judge lock unlock e).1.history = r.history := by
  obtain ⟨l, n, m, eq⟩ := judge_cases r lock unlock e
  rw [eq]

theorem inRange_append {r : Recovery} (h : r.inRange) : r.append.inRange := by
  unfold append
  split
  · obtain ⟨freq, integ, tick, hist, _, err⟩ := h
    refine ⟨freq, integ, tick, fun x hx => ?_, length_pushBounded_le _, err⟩
    rcases mem_pushBounded hx with old | new
    · exact hist x old
    · rw [new]; exact freq
  · exact h

/-- The block a window that ends in PLAYING leaves (R135). -/
def looped (r : Recovery) (e : CircuitEntry) (m : Int) : Recovery :=
  { ((r.update e.shiftA e.shiftB (loopError m)).judge e.lockThreshold e.unlockThreshold (loopError m)).1.append with
    window := none }

theorem inRange_looped {r : Recovery} (e : CircuitEntry) (m : Int) (h : r.inRange) : (r.looped e m).inRange :=
  (inRange_append (inRange_judge _ _ _ (inRange_update _ _ m h))).congr rfl rfl rfl rfl rfl

theorem append_history_ne_nil {r : Recovery} (h : r.locked = true ∨ r.history ≠ []) : r.append.history ≠ [] := by
  unfold append
  split
  · exact pushBounded_ne_nil _ (by decide)
  · next unlocked => exact h.resolve_left unlocked

theorem append_locked (r : Recovery) : r.append.locked = r.locked := by
  unfold append; split <;> rfl

theorem looped_history_ne_nil {r : Recovery} (e : CircuitEntry) (m : Int) (h : r.history ≠ []) :
    (r.looped e m).history ≠ [] :=
  append_history_ne_nil (.inr (by rw [judge_history]; exact h))

/-- While LOCKED the new FREQ has joined the history (R142). -/
theorem looped_history_of_locked {r : Recovery} (e : CircuitEntry) (m : Int) (h : (r.looped e m).locked = true) :
    (r.looped e m).history ≠ [] :=
  append_history_ne_nil (.inl (by rw [← append_locked]; exact h))

end Recovery

/-! ### One circuit -/

/-- What an operation on a circuit that is neither a write nor a request on its counters and flags, and neither ENGAGE nor RELEASE,
keeps of it. -/
structure CircuitKept (k v : Circuit) : Prop where
  entry    : v.entry = k.entry
  engaged  : v.control.state = .disabled ↔ k.control.state = .disabled
  reserved : v.control.reserved = k.control.reserved
  counts   : ∀ i, k.counters.get i ≤ v.counters.get i
  bounded  : (∀ i, k.counters.get i ≤ 4294967295) → ∀ i, v.counters.get i ≤ 4294967295
  flags    : ∀ i d, k.flags.get i = some d → v.flags.get i = some d
  range    : k.recovery.inRange → v.recovery.inRange
  lock     : (k.recovery.locked = true → k.control.state = .playing) → v.recovery.locked = true → v.control.state = .playing
  recalls  : (k.recovery.locked = true → k.recovery.history ≠ []) → v.recovery.locked = true → v.recovery.history ≠ []
  history  : k.recovery.history ≠ [] → v.recovery.history ≠ []
  phase    : k.packetizer.phase ≠ .idle → v.packetizer.phase ≠ .idle
  buffer   : 0 < k.entry.depth → k.bufferLaw → v.bufferLaw

namespace CircuitKept

variable {k v w : Circuit}

theorem refl (k : Circuit) : CircuitKept k k :=
  ⟨rfl, .rfl, rfl, fun _ => le_rfl, id, fun _ _ => id, id, id, id, id, id, fun _ => id⟩

theorem trans (h : CircuitKept k v) (l : CircuitKept v w) : CircuitKept k w where
  entry := l.entry.trans h.entry
  engaged := l.engaged.trans h.engaged
  reserved := l.reserved.trans h.reserved
  counts i := (h.counts i).trans (l.counts i)
  bounded b := l.bounded (h.bounded b)
  flags i d e := l.flags i d (h.flags i d e)
  range r := l.range (h.range r)
  lock r := l.lock (h.lock r)
  recalls r := l.recalls (h.recalls r)
  history r := l.history (h.history r)
  phase r := l.phase (h.phase r)
  buffer pos r := l.buffer (by rw [h.entry]; exact pos) (h.buffer pos r)

/-- A change of the control block that keeps the state and the reservation. -/
theorem ofControl (k : Circuit) (x : Control) (state : x.state = k.control.state) (reserved : x.reserved = k.control.reserved) :
    CircuitKept k { k with control := x } :=
  { refl k with
    engaged := by simp only [state]
    reserved := reserved
    lock := fun r l => state.trans (r l) }

/-- A change of state among the engaged ones; a LOCKED circuit comes to PLAYING only. -/
theorem ofState (k : Circuit) (st : CircuitState) (old : k.control.state ≠ .disabled) (new : st ≠ .disabled)
    (lock : k.recovery.locked = true → k.control.state = .playing → st = .playing) :
    CircuitKept k { k with control := { k.control with state := st } } :=
  { refl k with
    engaged := ⟨fun h => absurd h new, fun h => absurd h old⟩
    lock := fun r l => lock l (r l) }

theorem ofMerge (k : Circuit) (m : Merge) : CircuitKept k { k with merge := m } := { refl k with }

theorem ofDelay (k : Circuit) (d : Pair Delay) : CircuitKept k { k with delay := d } := { refl k with }

theorem ofPacketizer (k : Circuit) (z : Packetizer) (phase : k.packetizer.phase ≠ .idle → z.phase ≠ .idle) :
    CircuitKept k { k with packetizer := z } := { refl k with phase := phase }

theorem ofBuffer (k : Circuit) (b : Buffer) (law : k.buffer.lawful k.entry.depth → b.lawful k.entry.depth) :
    CircuitKept k { k with buffer := b } := { refl k with buffer := fun _ => law }

theorem ofRecovery (k : Circuit) (r : Recovery) (h : k.recovery.Keeps r) : CircuitKept k { k with recovery := r } :=
  { refl k with
    range := h.range
    lock := fun l e => l (h.locked e)
    recalls := fun l e => by simp only [h.history]; exact l (h.locked e)
    history := fun l => by simp only [h.history]; exact l }

theorem ofCount (k : Circuit) (i : Fin 16) : CircuitKept k { k with counters := bump k.counters i } :=
  { refl k with
    counts := get_le_get_bump _ _
    bounded := get_bump_le _ _ }

theorem ofFlag (k : Circuit) (f : CircuitFlag) (d : Detail) : CircuitKept k (k.raised f d) :=
  { refl k with flags := fun i x h => raisedRow_keeps _ _ i d x h }

theorem ofFlagIf (k : Circuit) (b : Bool) (f : CircuitFlag) (d : Detail) : CircuitKept k (k.raisedIf b f d) := by
  cases b
  · exact refl k
  · exact ofFlag k f d

end CircuitKept

/-! ### A circuit's operations on the state -/

/-- An operation on circuit `c` that keeps the circuit, takes no path UP or DOWN, leaves PLAYING by none of its steps and so
touches no tributary. -/
structure Runs (s u : State) (c : Fin 64) : Prop where
  only        : OnlyCircuit s u c
  tributaries : u.tributaries = s.tributaries
  kept        : CircuitKept (s.circuit c) (u.circuit c)
  up          : (u.circuit c).merge.up = (s.circuit c).merge.up
  plays       : (s.circuit c).control.state = .playing → (u.circuit c).control.state = .playing

namespace Runs

variable {s u w : State} {c : Fin 64}

theorem refl (s : State) (c : Fin 64) : Runs s s c := ⟨.refl s c, rfl, .refl _, rfl, id⟩

theorem trans (h : Runs s u c) (l : Runs u w c) : Runs s w c :=
  ⟨h.only.trans l.only, l.tributaries.trans h.tributaries, h.kept.trans l.kept, l.up.trans h.up, fun e => l.plays (h.plays e)⟩

theorem on (s : State) (c : Fin 64) (f : Circuit → Circuit) (kept : CircuitKept (s.circuit c) (f (s.circuit c)))
    (up : (f (s.circuit c)).merge.up = (s.circuit c).merge.up)
    (plays : (s.circuit c).control.state = .playing → (f (s.circuit c)).control.state = .playing) :
    Runs s (s.onCircuit c f) c :=
  ⟨.onCircuit s c f kept.entry, rfl, by simpa using kept, by simpa using up, by simpa using plays⟩

theorem thenControl (h : Runs s u c) (f : Control → Control) (state : ∀ x, (f x).state = x.state)
    (reserved : ∀ x, (f x).reserved = x.reserved) : Runs s (u.onControl c f) c :=
  h.trans (on u c _ (.ofControl _ _ (state _) (reserved _)) rfl (fun e => (state _).trans e))

theorem thenMerge (h : Runs s u c) (f : Merge → Merge) (up : ∀ x, (f x).up = x.up) : Runs s (u.onMerge c f) c :=
  h.trans (on u c _ (.ofMerge _ _) (up _) id)

theorem thenDelay (h : Runs s u c) (p : Port) (f : Delay → Delay) : Runs s (u.onDelay c p f) c :=
  h.trans (on u c _ (.ofDelay _ _) rfl id)

theorem thenPacketizer (h : Runs s u c) (f : Packetizer → Packetizer)
    (phase : (u.circuit c).packetizer.phase ≠ .idle → (f (u.circuit c).packetizer).phase ≠ .idle) :
    Runs s (u.onPacketizer c f) c :=
  h.trans (on u c _ (.ofPacketizer _ _ phase) rfl id)

theorem thenBuffer (h : Runs s u c) (f : Buffer → Buffer)
    (law : (u.circuit c).buffer.lawful (u.circuit c).entry.depth →
      (f (u.circuit c).buffer).lawful (u.circuit c).entry.depth) : Runs s (u.onBuffer c f) c :=
  h.trans (on u c _ (.ofBuffer _ _ law) rfl id)

theorem thenRecovery (h : Runs s u c) (f : Recovery → Recovery) (keeps : ∀ r : Recovery, r.Keeps (f r)) :
    Runs s (u.onRecovery c f) c :=
  h.trans (on u c _ (.ofRecovery _ _ (keeps _)) rfl id)

theorem thenCount (h : Runs s u c) (n : CircuitCounter) : Runs s (u.count c n) c :=
  h.trans (on u c _ (.ofCount _ _) rfl id)

theorem thenFlag (h : Runs s u c) (f : CircuitFlag) (d : Detail) : Runs s (u.raiseCircuit c f d) c :=
  h.trans ⟨.raise u c f d, by simp, by rw [raiseCircuit_eq, circuit_raise_self]; exact .ofFlag _ f d, by simp, by simp⟩

/-- A change of state among the engaged ones that does not leave PLAYING (R69). -/
theorem thenEnter (h : Runs s u c) (st : CircuitState) (old : (u.circuit c).control.state ≠ .disabled) (new : st ≠ .disabled)
    (plays : (u.circuit c).control.state = .playing → st = .playing) : Runs s (u.enter c st) c :=
  (h.trans (on u c (fun k => { k with control := { k.control with state := st } })
    (.ofState _ st old new (fun _ => plays)) rfl plays)).thenFlag _ _

end Runs

end Sys2Proof.Machine

/-! PROOFS. Each operation on a circuit that does not leave PLAYING, as one of those that keep the circuit (Runs). -/

namespace Sys2Proof.Machine

variable {s : State} {c : Fin 64}

/-! ### Timers, paths, measurement -/

theorem startStarvation_runs (s : State) (c : Fin 64) : Runs s (s.startStarvation c) c := by
  simp only [State.startStarvation]
  exact (Runs.refl s c).thenControl _ (fun _ => rfl) (fun _ => rfl)

theorem startEngageTimer_runs (s : State) (c : Fin 64) : Runs s (s.startEngageTimer c) c := by
  simp only [State.startEngageTimer]
  exact (Runs.refl s c).thenControl _ (fun _ => rfl) (fun _ => rfl)

theorem refreshActive_runs (s : State) (c : Fin 64) : Runs s (s.refreshActive c) c := by
  simp only [State.refreshActive]
  exact (Runs.refl s c).thenMerge _ (fun _ => rfl)

theorem switchActive_runs (s : State) (c : Fin 64) (p : Port) : Runs s (s.switchActive c p) c :=
  ((Runs.refl s c).thenMerge (fun m => { m with active := some p, holdOff := none }) (fun _ => rfl)).thenFlag _ _

theorem forcePath_runs (s : State) (c : Fin 64) (p : Option Port) : Runs s (s.forcePath c p) c :=
  (Runs.refl s c).thenMerge _ (fun _ => rfl)

theorem startHoldOff_runs (s : State) (c : Fin 64) (p : Port) : Runs s (s.startHoldOff c p) c := by
  simp only [State.startHoldOff]
  split
  · exact switchActive_runs s c p
  · exact (Runs.refl s c).thenMerge _ (fun _ => rfl)

theorem activeAfterUp_runs (s : State) (c : Fin 64) (p : Port) : Runs s (s.activeAfterUp c p) c := by
  have moved (f : Merge → Merge) (up : ∀ m, (f m).up = m.up) : Runs s (s.onMerge c f) c := (Runs.refl s c).thenMerge f up
  simp only [State.activeAfterUp]
  split
  · exact .refl s c
  · split
    · exact .refl s c
    · exact moved _ (fun _ => rfl)
    · exact moved _ (fun _ => rfl)
    all_goals
      split
      · exact moved _ (fun _ => rfl)
      · split
        · exact startHoldOff_runs s c _
        · exact .refl s c

theorem activeAfterDown_runs (s : State) (c : Fin 64) (p : Port) : Runs s (s.activeAfterDown c p) c := by
  have moved (f : Merge → Merge) (up : ∀ m, (f m).up = m.up) : Runs s (s.onMerge c f) c := (Runs.refl s c).thenMerge f up
  simp only [State.activeAfterDown]
  split
  · exact .refl s c
  · split
    · exact .refl s c
    · exact moved _ (fun _ => rfl)
    · exact moved _ (fun _ => rfl)
    all_goals
      split
      · split
        · exact switchActive_runs s c _
        · exact moved _ (fun _ => rfl)
      · split
        · exact moved _ (fun _ => rfl)
        · exact .refl s c

theorem publishRtt_runs (s : State) (c : Fin 64) (p : Port) (m : Nat) : Runs s (s.publishRtt c p m) c := by
  have published := (Runs.refl s c).thenDelay p (fun d => { d with rtt := some m, runCount := 0, runMin := none })
  simp only [State.publishRtt]
  split
  · exact published.thenFlag _ _
  · exact published

theorem keepRtt_runs (s : State) (c : Fin 64) (p : Port) (x : Nat) : Runs s (s.keepRtt c p x) c := by
  have kept := (Runs.refl s c).thenDelay p (fun _ => ((s.circuit c).delay.get p).keep x)
  simp only [State.keepRtt]
  split
  · exact kept.trans (publishRtt_runs _ c p _)
  · exact kept

theorem examineEcho_runs (s : State) (c : Fin 64) (p : Port) (echoTs capture : Ticks) (echoAge : Nat) :
    Runs s (s.examineEcho c p echoTs capture echoAge) c := by
  have taken := (Runs.refl s c).thenDelay p (fun d => { d with lastEcho := some echoTs })
  simp only [State.examineEcho]
  split
  · exact .refl s c
  · split
    · exact taken
    · exact taken.trans (keepRtt_runs _ c p _)

theorem skewSample_runs (s : State) (c : Fin 64) (x : Int) : Runs s (s.skewSample c x) c := by
  have added := (Runs.refl s c).thenMerge (fun m => { m with skewSamples := pushBounded 8 m.skewSamples x }) (fun _ => rfl)
  simp only [State.skewSample]
  split
  · exact added
  · split
    · exact added.thenFlag _ _
    · exact added

theorem takeSkew_runs (s : State) (c : Fin 64) (x : Option Int) : Runs s (s.takeSkew c x) c := by
  cases x with
  | none => exact .refl s c
  | some x => exact skewSample_runs s c x

theorem faultAndEcho_runs (s : State) (c : Fin 64) (p : Port) (x : Packet) (capture : Ticks) :
    Runs s (s.faultAndEcho c p x capture) c := by
  have flagged (b : Bool) (f : CircuitFlag) (u : State) (h : Runs s u c) :
      Runs s (if b then u.raiseCircuit c f (.path p) else u) c := by
    split
    · exact h.thenFlag _ _
    · exact h
  have faults := flagged x.l .localFaultSeen _ (flagged x.r .remoteFault s (.refl s c))
  simp only [State.faultAndEcho]
  have echoed (u : State) (h : Runs s u c) : Runs s (if x.echoed then u.examineEcho c p x.echoTs capture x.echoAge else u) c := by
    split
    · exact h.trans (examineEcho_runs _ c p _ _ _)
    · exact h
  refine echoed _ ?_
  split
  · exact faults.thenDelay p _
  · exact faults

/-! ### The lock, samples, the window -/

theorem loseLock_runs (s : State) (c : Fin 64) : Runs s (s.loseLock c) c := by
  have unlocked := (Runs.refl s c).thenRecovery Recovery.unlock Recovery.keeps_unlock
  simp only [State.loseLock]
  split
  · exact unlocked.thenFlag _ _
  · exact unlocked

/-- A loop update in PLAYING may lock, and then has a history (R135, R141, R142). -/
theorem CircuitKept.ofLoop (k : Circuit) (m : Int) (playing : k.control.state = .playing) :
    CircuitKept k { k with recovery := k.recovery.looped k.entry m } :=
  { CircuitKept.refl k with
    range := Recovery.inRange_looped _ m
    lock := fun _ _ => playing
    recalls := fun _ => Recovery.looped_history_of_locked _ m
    history := Recovery.looped_history_ne_nil _ m }

theorem loopUpdate_runs (m : Int) (playing : (s.circuit c).control.state = .playing) : Runs s (s.loopUpdate c m) c := by
  have looped : Runs s (s.onRecovery c (fun _ => (s.circuit c).recovery.looped (s.circuit c).entry m)) c :=
    .on s c _ (.ofLoop _ m playing) rfl id
  simp only [State.loopUpdate]
  split
  · exact looped
  · exact looped.thenFlag _ _

theorem completeAcquisition_runs (m : Int) (engaged : (s.circuit c).control.state ≠ .disabled) :
    Runs s (s.completeAcquisition c m) c := by
  have entered := (((Runs.refl s c).thenRecovery (fun r => r.shift m) (fun r => r.keeps_shift m)).thenBuffer
    (fun b => { b with startMark := false }) (fun l => l.congr rfl rfl)).thenEnter .playing (by simpa using engaged)
      (by decide) (fun _ => rfl)
  simp only [State.completeAcquisition]
  split
  · exact entered.thenFlag _ _
  · exact entered.thenControl _ (fun _ => rfl) (fun _ => rfl)

theorem enterSample_runs (s : State) (c : Fin 64) (x : Int) : Runs s (s.enterSample c x) c := by
  have entered := (Runs.refl s c).thenRecovery (fun r => r.enter (s.circuit c).entry.window x)
    (fun r => r.keeps_enter _ x)
  simp only [State.enterSample]
  split
  · exact entered
  · split
    · next acquiring => exact entered.trans (completeAcquisition_runs _ (by rw [acquiring]; decide))
    · next playing => exact entered.trans (loopUpdate_runs _ playing)
    · exact entered

theorem takeSample_runs (s : State) (c : Fin 64) (x : Int) : Runs s (s.takeSample c x) c :=
  (startStarvation_runs s c).trans (enterSample_runs _ c x)

theorem reenter_runs (x : Int) (engaged : (s.circuit c).control.state ≠ .disabled) : Runs s (s.reenter c x) c :=
  (((((Runs.refl s c).thenBuffer (fun b => { b with startMark := false }) (fun l => l.congr rfl rfl)).trans
    (startStarvation_runs _ c)).thenEnter .playing (by simpa [State.startStarvation] using engaged) (by decide)
      (fun _ => rfl))).trans (enterSample_runs _ c x)

/-! ### Classing an arrival -/

theorem slideFor_runs (s : State) (c : Fin 64) (seq : SeqNo) : Runs s (s.slideFor c seq) c := by
  simp only [State.slideFor]
  split
  · next x acquiring hx =>
    split
    · have range := signed16_range seq x.seq
      exact (Runs.refl s c).thenBuffer _ (fun l i e he => by
        have pos : 0 < (s.circuit c).entry.depth := by
          by_contra none
          obtain ⟨held, hh⟩ | free := Option.eq_none_or_eq_some ((s.circuit c).buffer.slots.get i) |>.symm
          · obtain ⟨_, _, _, low, high⟩ := l i held hh
            omega
          · simp [Buffer.slide, hx, Vector.get_eq_getElem] at he free
            simp [free] at he
        exact l.slide _ _ (by omega) i e he)
    · exact .refl s c
  · exact .refl s c

theorem takeClass_runs {y : Pointer} (pointer : (s.circuit c).buffer.pointer = some y) (x : Candidate) (sampled : Bool) :
    Runs s (s.takeClass c (classOf (s.circuit c).buffer y (s.circuit c).entry.depth x.seq) x sampled) c :=
  ((Runs.refl s c).thenBuffer _ (fun l => l.take pointer x sampled)).thenCount _

theorem lateRunAfter_runs (s : State) (c : Fin 64) (k : ArrivalClass) : Runs s (s.lateRunAfter c k) c := by
  simp only [State.lateRunAfter]
  split
  · exact (Runs.refl s c).thenControl _ (fun _ => rfl) (fun _ => rfl)
  · exact .refl s c

/-! ### The frame start rule -/

theorem advancePointer_runs (s : State) (c : Fin 64) : Runs s (s.advancePointer c) c := by
  simp only [State.advancePointer]
  split
  · exact .refl s c
  · next x hx =>
    split
    · exact (Runs.refl s c).thenBuffer _ (fun l => l.congr rfl (by simp [hx]))
    · have left := (Runs.refl s c).thenBuffer (fun b => b.leave x (s.circuit c).entry.depth (s.circuit c).entry.frames)
        (fun l => l.leave hx _)
      split
      · exact left.thenCount _
      · exact left

theorem skipFrame_runs (s : State) (c : Fin 64) : Runs s (s.skipFrame c) c := by
  unfold State.skipFrame
  extract_lets k held slipped
  clear_value k held
  refine .trans ?_ (advancePointer_runs _ c)
  simp only [slipped]
  split
  · exact ((Runs.refl s c).thenCount _).thenFlag _ _
  · exact .refl s c

theorem skipFrames_runs (c : Fin 64) (n : Nat) (s : State) : Runs s (State.skipFrames c n s) c := by
  induction n generalizing s with
  | zero => exact .refl s c
  | succ n ih => exact (skipFrame_runs s c).trans (ih _)

theorem repeatFrame_runs (s : State) (c : Fin 64) (n : Nat) : Runs s (s.repeatFrame c n).1 c := by
  simp only [State.repeatFrame]
  split
  · exact ((Runs.refl s c).thenCount _).thenFlag _ _
  · exact .refl s c

theorem deliverFrame_runs (s : State) (c : Fin 64) (x : Pointer) (idle : Byte) (n : Nat) :
    Runs s (s.deliverFrame c x idle n).1 c := by
  simp only [State.deliverFrame]
  split
  · exact ((Runs.refl s c).thenBuffer _ (fun l => l.congr rfl rfl)).trans (advancePointer_runs _ c)
  · exact (((Runs.refl s c).thenBuffer _ (fun l => l.congr rfl rfl)).thenCount _).trans (advancePointer_runs _ c)

theorem playFrame_runs (s : State) (c : Fin 64) (idle : Byte) (rt : Ticks) : Runs s (s.playFrame c idle rt).1 c := by
  simp only [State.playFrame]
  split
  · exact .refl s c
  · next x hx =>
    have skipped := skipFrames_runs c (skipsNeeded (leadOf rt x (s.circuit c).entry.playoutDelay)) s
    split
    · exact skipped
    · next y _ =>
      have decided := skipped.thenBuffer
        (fun b => { b with lastLead := some (leadOf rt y (s.circuit c).entry.playoutDelay) }) (fun l => l.congr rfl rfl)
      split
      · exact decided.trans (repeatFrame_runs _ c _)
      · exact decided.trans (deliverFrame_runs _ c _ idle _)

end Sys2Proof.Machine

/-! PROOFS. What a step keeps, as one relation of two states that composes: `Calm` for every operation but a table write, ENGAGE,
RELEASE, RESTART, POWER_ON and the requests on counters, flags and events; `Quiet` where LT and the law of path liveness are
kept with it. Each law of Safety.lean follows from them. -/

namespace Sys2Proof.Machine

/-! ### The relations -/

/-- What an operation keeps that writes no table and engages or releases no circuit: entries, sizes, the order of counters, flags
and events, the bounds of the queues, and every law of one circuit or of the clocks. -/
structure Calm (s u : State) : Prop where
  circuitEntry   : ∀ c, (u.circuit c).entry = (s.circuit c).entry
  tributaryEntry : ∀ t, (u.tributary t).entry = (s.tributary t).entry
  portEntry      : ∀ p, (u.port p).entry = (s.port p).entry
  engaged        : ∀ c, (u.circuit c).control.state = .disabled ↔ (s.circuit c).control.state = .disabled
  reserved       : ∀ c, (u.circuit c).control.reserved = (s.circuit c).control.reserved
  counts         : (∀ c i, (s.circuit c).counters.get i ≤ (u.circuit c).counters.get i)
                     ∧ ∀ p i, (s.port p).counters.get i ≤ (u.port p).counters.get i
  bounded        : countersLaw s → countersLaw u
  flags          : ∀ r d, s.flag r = some d → u.flag r = some d
  events         : EventsGrow s u
  queues         : queuesBounded s → queuesBounded u
  range          : recoveryRangeLaw s → recoveryRangeLaw u
  lock           : lockLaw s → lockLaw u
  clock          : clockLaw s → clockLaw u
  history        : clockLaw s → historyLaw s → historyLaw u
  disabled       : disabledLaw s → disabledLaw u
  buffers        : (∀ c, 0 < (s.circuit c).entry.depth) → (∀ c, (s.circuit c).bufferLaw) → ∀ c, (u.circuit c).bufferLaw

/-- An operation that is calm, and keeps LT and the law of path liveness. -/
structure Quiet (s u : State) : Prop extends Calm s u where
  lt    : u.lt = s.lt
  paths : pathLaw s → pathLaw u

theorem Calm.trans {s u w : State} (h : Calm s u) (l : Calm u w) : Calm s w where
  circuitEntry c := (l.circuitEntry c).trans (h.circuitEntry c)
  tributaryEntry t := (l.tributaryEntry t).trans (h.tributaryEntry t)
  portEntry p := (l.portEntry p).trans (h.portEntry p)
  engaged c := (l.engaged c).trans (h.engaged c)
  reserved c := (l.reserved c).trans (h.reserved c)
  counts := ⟨fun c i => (h.counts.1 c i).trans (l.counts.1 c i), fun p i => (h.counts.2 p i).trans (l.counts.2 p i)⟩
  bounded b := l.bounded (h.bounded b)
  flags r d e := l.flags r d (h.flags r d e)
  events := h.events.trans l.events
  queues b := l.queues (h.queues b)
  range b := l.range (h.range b)
  lock b := l.lock (h.lock b)
  clock b := l.clock (h.clock b)
  history b b' := l.history (h.clock b) (h.history b b')
  disabled b := l.disabled (h.disabled b)
  buffers pos b := l.buffers (fun c => by rw [h.circuitEntry]; exact pos c) (h.buffers pos b)

theorem Quiet.trans {s u w : State} (h : Quiet s u) (l : Quiet u w) : Quiet s w where
  toCalm := h.toCalm.trans l.toCalm
  lt := l.lt.trans h.lt
  paths b := l.paths (h.paths b)

theorem Quiet.refl (s : State) : Quiet s s where
  circuitEntry _ := rfl
  tributaryEntry _ := rfl
  portEntry _ := rfl
  engaged _ := .rfl
  reserved _ := rfl
  counts := ⟨fun _ _ => le_rfl, fun _ _ => le_rfl⟩
  bounded := id
  flags _ _ := id
  events := .refl s
  queues := id
  range := id
  lock := id
  clock := id
  history _ := id
  disabled := id
  buffers _ := id
  lt := rfl
  paths := id

/-! ### One circuit -/

section Circuit

variable {s u : State} {c : Fin 64}

/-- What holds of an unchanged circuit and is kept of the changed one holds of every circuit. -/
theorem OnlyCircuit.forall_of_kept (only : OnlyCircuit s u c) {P : Circuit → Prop}
    (kept : P (s.circuit c) → P (u.circuit c)) (h : ∀ d, P (s.circuit d)) (d : Fin 64) : P (u.circuit d) := by
  by_cases e : d = c
  · subst e; exact kept (h d)
  · rw [only.others d e]; exact h d

theorem OnlyCircuit.forall_of_refl (only : OnlyCircuit s u c) {P : Circuit → Circuit → Prop} (refl : ∀ k, P k k)
    (kept : P (s.circuit c) (u.circuit c)) (d : Fin 64) : P (s.circuit d) (u.circuit d) := by
  by_cases e : d = c
  · subst e; exact kept
  · rw [only.others d e]; exact refl _

/-- Circuit `c` is the timing circuit of tributary `t`, which is in ADAPTIVE (R153). -/
def State.times (s : State) (c : Fin 64) (t : Fin 16) : Prop :=
  (s.circuit c).entry.tributary = some t ∧ (s.tributary t).clocking.timing = c
    ∧ (s.tributary t).clocking.actual = .adaptive

/-- A tributary in ADAPTIVE after its timing circuit has left PLAYING with the given history mean (R153). -/
def Tributary.untimed (k : Tributary) (mean : Option Int) : Tributary :=
  match mean with
  | some h => ({ k with clocking := { k.clocking with holdover := h, valid := true, actual := .holdover } } : Tributary).raised
      .clockModeChange (.clockMode .holdover)
  | none => ({ k with clocking := { k.clocking with actual := .free } } : Tributary).raised .clockModeChange (.clockMode .free)

theorem untimed_actual (k : Tributary) (mean : Option Int) :
    (k.untimed mean).clocking.actual ≠ .adaptive ∧ (k.untimed mean).clocking.actual ≠ .loop := by
  cases mean <;> simp [Tributary.untimed, Tributary.raised]

theorem untimed_transmit (k : Tributary) (mean : Option Int) : (k.untimed mean).transmit = k.transmit := by
  cases mean <;> rfl

theorem untimed_flags (k : Tributary) (mean : Option Int) (i : Fin 5) (d : Detail) (h : k.flags.get i = some d) :
    (k.untimed mean).flags.get i = some d := by
  cases mean <;> exact raisedRow_keeps _ _ _ _ _ h

/-- An operation on one circuit, which either stays in PLAYING or leaves its tributary as R153 says. -/
theorem Calm.ofCircuit (only : OnlyCircuit s u c) (kept : CircuitKept (s.circuit c) (u.circuit c))
    (tributary : ∀ t, u.tributary t = s.tributary t ∨ u.tributary t = (s.tributary t).untimed (s.circuit c).recovery.mean)
    (plays : (s.circuit c).control.state = .playing → (u.circuit c).control.state = .playing
      ∨ ∀ t, s.times c t → u.tributary t = (s.tributary t).untimed (s.circuit c).recovery.mean)
    (bare : (s.circuit c).control.state = .disabled → s.circuit c = (s.circuit c).disabledForm →
      u.circuit c = (u.circuit c).disabledForm) : Calm s u := by
  have same (t : Fin 16) (h : (u.tributary t).clocking.actual = .adaptive ∨ (u.tributary t).clocking.actual = .loop) :
      u.tributary t = s.tributary t := by
    refine (tributary t).resolve_right (fun e => ?_)
    rw [e] at h
    exact h.elim (untimed_actual _ _).1 (untimed_actual _ _).2
  have port (p : Port) : u.port p = s.port p := State.port_congr only.ports p
  refine
    { circuitEntry := only.forall_of_refl (P := fun k v => v.entry = k.entry) (fun _ => rfl) kept.entry
      tributaryEntry := fun t => (only.lines t).1
      portEntry := fun p => by rw [port p]
      engaged := only.forall_of_refl (P := fun k v => v.control.state = .disabled ↔ k.control.state = .disabled)
        (fun _ => .rfl) kept.engaged
      reserved := only.forall_of_refl (P := fun k v => v.control.reserved = k.control.reserved) (fun _ => rfl) kept.reserved
      counts := ⟨only.forall_of_refl (P := fun k v => ∀ i, k.counters.get i ≤ v.counters.get i) (fun _ _ => le_rfl)
        kept.counts, fun p i => by rw [port p]⟩
      bounded := fun b => ⟨only.forall_of_kept (P := fun k => ∀ i, k.counters.get i ≤ 4294967295) kept.bounded b.1, fun p i => by rw [port p]; exact b.2 p i⟩
      flags := fun r d h => ?flags
      events := only.events
      queues := fun b => ⟨only.events.le b.1, fun p => by rw [port p]; exact b.2 p⟩
      range := fun b => ⟨only.forall_of_kept (P := Recovery.inRange ∘ Circuit.recovery) kept.range b.1, fun t => ?holdover⟩
      lock := fun b => only.forall_of_kept
        (P := fun k => k.recovery.locked = true → k.control.state = .playing) kept.lock b
      clock := fun b t => ⟨fun e => ?adaptive, fun e => by
        have old := same t (.inr e)
        rw [old] at e ⊢
        exact (b t).2 e⟩
      history := fun b h => ⟨only.forall_of_kept
        (P := fun k => k.recovery.locked = true → k.recovery.history ≠ []) kept.recalls h.1, fun t e => ?recalls⟩
      disabled := fun b => only.forall_of_kept (P := fun k => if k.control.state = .disabled then k = k.disabledForm
        else k.packetizer.phase ≠ .idle) ?disabled b
      buffers := fun pos b => only.forall_of_kept (kept.buffer (pos c)) b }
  case flags =>
    cases r with
    | circuit e f =>
      exact only.forall_of_refl (P := fun k v => ∀ i d, k.flags.get i = some d → v.flags.get i = some d)
        (fun _ _ _ => id) kept.flags e _ d h
    | tributary t f =>
      rcases tributary t with e | e
      · simpa only [State.flag, e] using h
      · have kept := untimed_flags _ (s.circuit c).recovery.mean f.code d h
        rw [← e] at kept
        exact kept
    | port p f => simpa only [State.flag, port p] using h
  case holdover =>
    refine ⟨?_, by rw [(only.lines t).2.2]; exact (b.2 t).2⟩
    rcases tributary t with e | e
    · rw [e]; exact (b.2 t).1
    · rw [e]
      cases mean : (s.circuit c).recovery.mean with
      | none => exact (b.2 t).1
      | some m => exact Recovery.mean_inRange (b.1 c) mean
  case adaptive =>
    have old := same t (.inl e)
    rw [old] at e ⊢
    obtain ⟨inForce, names, playing⟩ := (b t).1 e
    by_cases timing : (s.tributary t).clocking.timing = c
    · rw [timing] at names playing ⊢
      refine ⟨inForce, by rw [kept.entry]; exact names, (plays playing).resolve_right (fun left => ?_)⟩
      have gone := left t ⟨names, timing, e⟩
      rw [old] at gone
      exact (untimed_actual _ _).1 (gone ▸ e)
    · rw [only.others _ timing]
      exact ⟨inForce, names, playing⟩
  case recalls =>
    have old := same t (.inl e)
    rw [old] at e ⊢
    exact ⟨only.forall_of_refl (P := fun k v => k.recovery.history ≠ [] → v.recovery.history ≠ []) (fun _ => id)
      kept.history _ (h.2 t e).1, (h.2 t e).2⟩
  case disabled =>
    by_cases e : (s.circuit c).control.state = .disabled
    · rw [if_pos e, if_pos (kept.engaged.mpr e)]
      exact bare e
    · rw [if_neg e, if_neg (fun h => e (kept.engaged.mp h))]
      exact kept.phase

/-- An operation on one circuit whose paths are UP only as R92 allows. -/
theorem Quiet.ofCircuit (only : OnlyCircuit s u c) (calm : Calm s u)
    (up : ∀ p, (u.circuit c).merge.up.get p = .up → (s.circuit c).merge.up.get p = .up
      ∨ (s.circuit c).control.state ≠ .disabled ∧ (s.port p).link = .up) : Quiet s u where
  toCalm := calm
  lt := only.run.lt
  paths b d p h := by
    rw [State.port_congr only.ports p]
    have allowed : (s.circuit d).control.state ≠ .disabled ∧ (s.port p).link = .up := by
      by_cases e : d = c
      · subst e; exact (up p h).elim (b d p) id
      · exact b d p (by rw [← only.others d e]; exact h)
    exact ⟨fun e => allowed.1 ((calm.engaged d).mp e), allowed.2⟩

theorem Runs.calm (h : Runs s u c) (bare : (s.circuit c).control.state = .disabled → s.circuit c = (s.circuit c).disabledForm →
    u.circuit c = (u.circuit c).disabledForm) : Calm s u :=
  .ofCircuit h.only h.kept (fun t => .inl (State.tributary_congr h.tributaries t)) (fun e => .inl (h.plays e)) bare

theorem Runs.quiet (h : Runs s u c) (bare : (s.circuit c).control.state = .disabled → s.circuit c = (s.circuit c).disabledForm →
    u.circuit c = (u.circuit c).disabledForm) : Quiet s u :=
  .ofCircuit h.only (h.calm bare) (fun p e => .inl (by rw [← h.up]; exact e))

theorem Runs.quiet_of_engaged (h : Runs s u c) (engaged : (s.circuit c).control.state ≠ .disabled) : Quiet s u :=
  h.quiet (fun e => absurd e engaged)

end Circuit

/-! ### One tributary -/

section Tributary

variable {s u : State} {t : Fin 16}

/-- What an operation on a tributary's line unit and its actual mode keeps of the tributary, whatever it does to LOOP. -/
structure LineKept (k v : Tributary) : Prop where
  entry    : v.entry = k.entry
  flags    : ∀ i d, k.flags.get i = some d → v.flags.get i = some d
  range    : inFreqRange k.clocking.holdover ∧ inFreqRange (k.transmit.tickRate - 2 ^ 27) →
               inFreqRange v.clocking.holdover ∧ inFreqRange (v.transmit.tickRate - 2 ^ 27)
  adaptive : v.clocking.actual = .adaptive → k.clocking.actual = .adaptive ∧ v.clocking.inForce = k.clocking.inForce
               ∧ v.clocking.timing = k.clocking.timing

/-- With the law of LOOP (R155). -/
structure TributaryKept (k v : Tributary) : Prop extends LineKept k v where
  loop     : (k.clocking.actual = .loop → k.clocking.inForce = .loop ∧ k.line.signal = .present) →
               v.clocking.actual = .loop → v.clocking.inForce = .loop ∧ v.line.signal = .present

theorem LineKept.refl (k : Tributary) : LineKept k k := ⟨rfl, fun _ _ => id, id, fun h => ⟨h, rfl, rfl⟩⟩

theorem TributaryKept.refl (k : Tributary) : TributaryKept k k := ⟨.refl k, id⟩

theorem LineKept.trans {k v w : Tributary} (h : LineKept k v) (l : LineKept v w) : LineKept k w where
  entry := l.entry.trans h.entry
  flags i d e := l.flags i d (h.flags i d e)
  range r := l.range (h.range r)
  adaptive e :=
    have ⟨was, force, timing⟩ := l.adaptive e
    have ⟨was', force', timing'⟩ := h.adaptive was
    ⟨was', force.trans force', timing.trans timing'⟩

theorem LineKept.ofLine (k : Tributary) (x : LineUnit) : LineKept k { k with line := x } := { refl k with }

/-- An operation on one tributary, given what it does to the laws of the clocks. -/
theorem Calm.ofTributary (only : OnlyTributary s u t)
    (flags : ∀ i d, (s.tributary t).flags.get i = some d → (u.tributary t).flags.get i = some d)
    (range : recoveryRangeLaw s → inFreqRange (u.tributary t).clocking.holdover
      ∧ inFreqRange ((u.tributary t).transmit.tickRate - 2 ^ 27))
    (clock : clockLaw s → ((u.tributary t).clocking.actual = .adaptive → (u.tributary t).clocking.inForce = .adaptive
        ∧ (s.circuit (u.tributary t).clocking.timing).entry.tributary = some t
        ∧ (s.circuit (u.tributary t).clocking.timing).control.state = .playing)
      ∧ ((u.tributary t).clocking.actual = .loop → (u.tributary t).clocking.inForce = .loop
        ∧ (u.tributary t).line.signal = .present))
    (history : clockLaw s → historyLaw s → (u.tributary t).clocking.actual = .adaptive →
      (s.circuit (u.tributary t).clocking.timing).recovery.history ≠ []
      ∧ ((s.tributary t).entry.clockMode = .adaptive →
        (s.tributary t).entry.timing = (u.tributary t).clocking.timing)) : Calm s u := by
  have circuit (c : Fin 64) : u.circuit c = s.circuit c := State.circuit_congr only.circuits c
  have port (p : Port) : u.port p = s.port p := State.port_congr only.ports p
  have forall_of_new {P : Fin 16 → Tributary → Prop} (old : ∀ v, P v (s.tributary v)) (new : P t (u.tributary t)) (v : Fin 16) :
      P v (u.tributary v) := by
    by_cases e : v = t
    · subst e; exact new
    · rw [only.others v e]; exact old v
  refine
    { circuitEntry := fun c => by rw [circuit c]
      tributaryEntry := fun v => forall_of_new (P := fun v k => k.entry = (s.tributary v).entry) (fun _ => rfl) only.entry v
      portEntry := fun p => by rw [port p]
      engaged := fun c => by rw [circuit c]
      reserved := fun c => by rw [circuit c]
      counts := ⟨fun c i => by rw [circuit c], fun p i => by rw [port p]⟩
      bounded := fun b => ⟨fun c i => by rw [circuit c]; exact b.1 c i, fun p i => by rw [port p]; exact b.2 p i⟩
      flags := fun r d h => ?flags
      events := only.events
      queues := fun b => ⟨only.events.le b.1, fun p => by rw [port p]; exact b.2 p⟩
      range := fun b => ⟨fun c => by rw [circuit c]; exact b.1 c, fun v => forall_of_new
        (P := fun _ k => inFreqRange k.clocking.holdover ∧ inFreqRange (k.transmit.tickRate - 2 ^ 27)) b.2 (range b) v⟩
      lock := fun b c => by rw [circuit c]; exact b c
      clock := fun b v => ?clock
      history := fun b h => ⟨fun c => by rw [circuit c]; exact h.1 c, fun v => ?history⟩
      disabled := fun b c => by rw [circuit c]; exact b c
      buffers := fun _ b c => by rw [circuit c]; exact b c }
  case flags =>
    cases r with
    | circuit c f => simpa only [State.flag, circuit c] using h
    | tributary v f =>
      by_cases e : v = t
      · subst e; exact flags f.code d h
      · simpa only [State.flag, only.others v e] using h
    | port p f => simpa only [State.flag, port p] using h
  case clock =>
    simp only [circuit]
    by_cases e : v = t
    · subst e; exact clock b
    · rw [only.others v e]; exact b v
  case history =>
    simp only [circuit]
    by_cases e : v = t
    · subst e; rw [only.entry]; exact history b h
    · rw [only.others v e]; exact h.2 v

theorem Quiet.ofTributary (only : OnlyTributary s u t) (calm : Calm s u) : Quiet s u where
  toCalm := calm
  lt := only.run.lt
  paths b d p h := by
    rw [State.port_congr only.ports p, State.circuit_congr only.circuits d] at *
    exact b d p h

theorem TributaryKept.quiet (only : OnlyTributary s u t) (kept : TributaryKept (s.tributary t) (u.tributary t)) : Quiet s u := by
  refine .ofTributary only (.ofTributary only kept.flags (fun b => kept.range (b.2 t)) (fun b => ⟨fun e => ?_, kept.loop (b t).2⟩)
    (fun _ h e => ?_))
  · obtain ⟨was, force, timing⟩ := kept.adaptive e
    rw [force, timing]
    exact (b t).1 was
  · obtain ⟨was, _, timing⟩ := kept.adaptive e
    rw [timing]
    exact h.2 t was

end Tributary

/-! ### One trunk port -/

section Port

variable {s u : State} {p : Port}

/-- What an operation on a trunk port keeps of it. -/
structure PortKept (k v : PortState) : Prop where
  entry     : v.entry = k.entry
  flags     : ∀ i d, k.flags.get i = some d → v.flags.get i = some d
  counts    : ∀ i, k.counters.get i ≤ v.counters.get i
  bounded   : (∀ i, k.counters.get i ≤ 4294967295) → ∀ i, v.counters.get i ≤ 4294967295
  copies    : k.circuitQueue.length ≤ 64 → v.circuitQueue.length ≤ 64
  responses : k.responseQueue.length ≤ 4 → v.responseQueue.length ≤ 4

theorem PortKept.refl (k : PortState) : PortKept k k := ⟨rfl, fun _ _ => id, fun _ => le_rfl, id, id, id⟩

theorem PortKept.trans {k v w : PortState} (h : PortKept k v) (l : PortKept v w) : PortKept k w where
  entry := l.entry.trans h.entry
  flags i d e := l.flags i d (h.flags i d e)
  counts i := (h.counts i).trans (l.counts i)
  bounded b := l.bounded (h.bounded b)
  copies b := l.copies (h.copies b)
  responses b := l.responses (h.responses b)

theorem PortKept.ofCount (k : PortState) (i : Fin 6) : PortKept k { k with counters := bump k.counters i } :=
  { PortKept.refl k with counts := get_le_get_bump _ _, bounded := get_bump_le _ _ }

theorem PortKept.ofFlag (k : PortState) (f : PortFlag) (d : Detail) : PortKept k (k.raised f d) :=
  { PortKept.refl k with flags := fun i x h => raisedRow_keeps _ _ i d x h }

theorem OnlyPort.port_of_ne (only : OnlyPort s u p) {q : Port} (h : q ≠ p) : u.port q = s.port q := by
  have : q = otherPort p := by cases p <;> cases q <;> first | rfl | exact absurd rfl h
  rw [this]; exact only.other

theorem PortKept.calm (only : OnlyPort s u p) (kept : PortKept (s.port p) (u.port p)) : Calm s u := by
  have circuit (c : Fin 64) : u.circuit c = s.circuit c := State.circuit_congr only.circuits c
  have tributary (t : Fin 16) : u.tributary t = s.tributary t := State.tributary_congr only.tributaries t
  have forall_of_new {P : Port → PortState → Prop} (old : ∀ q, P q (s.port q)) (new : P p (u.port p)) (q : Port) :
      P q (u.port q) := by
    by_cases e : q = p
    · subst e; exact new
    · rw [only.port_of_ne e]; exact old q
  refine
    { circuitEntry := fun c => by rw [circuit c]
      tributaryEntry := fun t => by rw [tributary t]
      portEntry := forall_of_new (P := fun q k => k.entry = (s.port q).entry) (fun _ => rfl) kept.entry
      engaged := fun c => by rw [circuit c]
      reserved := fun c => by rw [circuit c]
      counts := ⟨fun c i => by rw [circuit c], forall_of_new (P := fun q k => ∀ i, (s.port q).counters.get i ≤ k.counters.get i)
        (fun _ _ => le_rfl) kept.counts⟩
      bounded := fun b => ⟨fun c i => by rw [circuit c]; exact b.1 c i,
        forall_of_new (P := fun _ k => ∀ i, k.counters.get i ≤ 4294967295) b.2 (kept.bounded (b.2 p))⟩
      flags := fun r d h => ?flags
      events := only.events
      queues := fun b => ⟨only.events.le b.1, forall_of_new
        (P := fun _ k => k.circuitQueue.length ≤ 64 ∧ k.responseQueue.length ≤ 4) b.2
        ⟨kept.copies (b.2 p).1, kept.responses (b.2 p).2⟩⟩
      range := fun b => ⟨fun c => by rw [circuit c]; exact b.1 c, fun t => by rw [tributary t]; exact b.2 t⟩
      lock := fun b c => by rw [circuit c]; exact b c
      clock := fun b t => by simp only [circuit, tributary]; exact b t
      history := fun _ h => ⟨fun c => by rw [circuit c]; exact h.1 c, fun t => by simp only [circuit, tributary]; exact h.2 t⟩
      disabled := fun b c => by rw [circuit c]; exact b c
      buffers := fun _ b c => by rw [circuit c]; exact b c }
  cases r with
  | circuit c f => simpa only [State.flag, circuit c] using h
  | tributary t f => simpa only [State.flag, tributary t] using h
  | port q f =>
    by_cases e : q = p
    · subst e; exact kept.flags f.code d h
    · simpa only [State.flag, only.port_of_ne e] using h

/-- A port whose link does not go DOWN. -/
theorem PortKept.quiet (only : OnlyPort s u p) (kept : PortKept (s.port p) (u.port p))
    (link : (s.port p).link = .up → (u.port p).link = .up) : Quiet s u where
  toCalm := kept.calm only
  lt := only.run.lt
  paths b c q h := by
    rw [State.circuit_congr only.circuits c] at *
    refine ⟨(b c q h).1, ?_⟩
    by_cases e : q = p
    · subst e; exact link (b c q h).2
    · rw [only.port_of_ne e]; exact (b c q h).2

end Port

/-! ### Primitive updates -/

/-- Setting a flag is quiet. -/
theorem Quiet.raise (s : State) (r : FlagRef) (d : Detail) : Quiet s (s.raise r d) := by
  cases r with
  | circuit c f =>
    refine Runs.quiet (c := c) ((Runs.refl s c).thenFlag f d) (fun _ bare => ?_)
    rw [circuit_raise_self]
    simp only [Circuit.raised]
    rw [bare]
    rfl
  | tributary t f =>
    refine TributaryKept.quiet (t := t) (.raise s t f d) ?_
    rw [tributary_raise_self]
    exact { TributaryKept.refl _ with flags := fun i x h => raisedRow_keeps _ _ i d x h }
  | port p f =>
    refine PortKept.quiet (p := p) (.raise s p f d) ?_ (fun h => by simpa using h)
    rw [port_raise_self]
    exact .ofFlag _ f d

theorem Quiet.count (s : State) (c : Fin 64) (n : CircuitCounter) : Quiet s (s.count c n) :=
  Runs.quiet (c := c) ((Runs.refl s c).thenCount n) (fun _ bare => by
    simp only [count_eq, circuit_onCircuit_self]
    rw [bare]
    rfl)

theorem Quiet.onPort (s : State) (p : Port) (f : PortState → PortState) (kept : PortKept (s.port p) (f (s.port p)))
    (link : (f (s.port p)).link = (s.port p).link) : Quiet s (s.onPort p f) :=
  PortKept.quiet (.onPort s p f kept.entry) (by simpa using kept) (fun h => by simpa [link] using h)

theorem Quiet.countPort (s : State) (p : Port) (n : PortCounter) : Quiet s (s.countPort p n) :=
  .onPort s p _ (.ofCount _ _) rfl

theorem Quiet.onLine (s : State) (t : Fin 16) (f : LineUnit → LineUnit)
    (signal : (s.tributary t).line.signal = .present → (f (s.tributary t).line).signal = .present) : Quiet s (s.onLine t f) := by
  refine TributaryKept.quiet (t := t) (.onTributary s t _ rfl) ?_
  rw [onLine_eq, tributary_onTributary_self]
  exact { TributaryKept.refl _ with loop := fun r e => ⟨(r e).1, signal (r e).2⟩ }

theorem Quiet.forEach {α : Type} (l : List α) (f : α → State → State) (h : ∀ x s, Quiet s (f x s)) (s : State) :
    Quiet s (forEach l f s) := forEach_relation Quiet .refl .trans f h l s

end Sys2Proof.Machine

/-! PROOFS. The operations on a circuit that leave PLAYING (R60, R63, R64, R57) or move a path UP or DOWN (R92), and with them the
whole arrival (R91): each is quiet. -/

namespace Sys2Proof.Machine

variable {s w : State} {c : Fin 64}

/-! ### The clocking change of R153 -/

@[simp] theorem circuit_setActual (s : State) (t : Fin 16) (m : ClockMode) (d : Fin 64) :
    (s.setActual t m).circuit d = s.circuit d := State.circuit_congr (setActual_only s t m).circuits d

@[simp] theorem circuit_setHoldover (s : State) (t : Fin 16) (h : Int) (d : Fin 64) :
    (s.setHoldover t h).circuit d = s.circuit d := rfl

@[simp] theorem circuit_timingLeavesPlaying (s : State) (c : Fin 64) (mean : Option Int) (d : Fin 64) :
    (s.timingLeavesPlaying c mean).circuit d = s.circuit d := by
  unfold State.timingLeavesPlaying
  split
  · rfl
  · split
    · split <;> simp
    · rfl

@[simp] theorem circuit_leavesPlaying (s : State) (c : Fin 64) (was : CircuitState) (mean : Option Int) (d : Fin 64) :
    (s.leavesPlaying c was mean).circuit d = s.circuit d := by
  unfold State.leavesPlaying
  split <;> simp

/-- A tributary after its actual mode has been set (R149, R156). -/
theorem tributary_setActual_self (s : State) (t : Fin 16) (m : ClockMode) :
    (s.setActual t m).tributary t = if (s.tributary t).clocking.actual = m then s.tributary t
      else ((s.tributary t).changeMode m).raised .clockModeChange (.clockMode m) := by
  unfold State.setActual
  split
  · rfl
  · rw [raiseTributary_eq, tributary_raise_self, tributary_onTributary_self]

/-- R153, as what becomes of each tributary. -/
theorem tributary_timingLeavesPlaying (s : State) (c : Fin 64) (mean : Option Int) (t : Fin 16) [Decidable (s.times c t)] :
    (s.timingLeavesPlaying c mean).tributary t
      = if s.times c t then (s.tributary t).untimed mean else s.tributary t := by
  have other (v : Fin 16) (m : ClockMode) (u : State) (h : t ≠ v) : (u.setActual v m).tributary t = u.tributary t :=
    (setActual_only u v m).others t h
  unfold State.timingLeavesPlaying
  split
  · next none => rw [if_neg (fun h => by simp [State.times, none] at h)]
  · next v named =>
    by_cases e : t = v
    · subst e
      by_cases h : s.times c t
      · obtain ⟨_, timing, adaptive⟩ := h
        rw [if_pos ⟨timing, adaptive⟩, if_pos ⟨named, timing, adaptive⟩]
        cases mean with
        | none =>
          simp only [tributary_setActual_self, adaptive]
          rw [if_neg (by decide), changeMode_of_ne_loop _ _ (by simp [adaptive])]
          rfl
        | some m =>
          simp only [tributary_setActual_self, State.setHoldover, onClocking_eq, tributary_onTributary_self]
          rw [if_neg (by simp [adaptive]), changeMode_of_ne_loop _ _ (by simp [adaptive])]
          rfl
      · rw [if_neg (fun k => h ⟨named, k⟩), if_neg h]
    · rw [if_neg (fun h : s.times c t => e (Option.some.inj (h.1.symm.trans named)))]
      split
      · split
        · rw [other v _ _ e]; simp [State.setHoldover, tributary_onTributary_of_ne _ _ e]
        · rw [other v _ _ e]
      · rfl

/-- An operation that takes circuit `c` through engaged states without touching a tributary, followed by the clocking change for the
state it was in (R153). -/
theorem Quiet.leaving (engaged : (s.circuit c).control.state ≠ .disabled) (only : OnlyCircuit s w c)
    (tributaries : w.tributaries = s.tributaries) (kept : CircuitKept (s.circuit c) (w.circuit c))
    (up : (w.circuit c).merge.up = (s.circuit c).merge.up) :
    Quiet s (w.leavesPlaying c (s.circuit c).control.state (s.circuit c).recovery.mean) := by
  classical
  have tributary (t : Fin 16) : w.tributary t = s.tributary t := State.tributary_congr tributaries t
  have times (t : Fin 16) : w.times c t ↔ s.times c t := by simp only [State.times, kept.entry, tributary]
  have whole := only.trans (leavesPlaying_only w c (s.circuit c).control.state (s.circuit c).recovery.mean)
  refine .ofCircuit whole (.ofCircuit whole (by simpa using kept) (fun t => ?_) (fun playing => .inr (fun t h => ?_))
    (fun e => absurd e engaged)) (fun p h => .inl (by simpa [up] using h))
  · unfold State.leavesPlaying
    split
    · rw [tributary_timingLeavesPlaying, tributary]
      split
      · exact .inr rfl
      · exact .inl rfl
    · exact .inl (tributary t)
  · rw [State.leavesPlaying, if_pos playing, tributary_timingLeavesPlaying, if_pos ((times t).mpr h), tributary]

/-! ### Changes of state that may leave PLAYING -/

/-- A circuit after a change of state (R69). -/
theorem circuit_enter (s : State) (c : Fin 64) (st : CircuitState) : (s.enter c st).circuit c
    = ({ s.circuit c with control := { (s.circuit c).control with state := st } } : Circuit).raised .stateChanged
      (.circuitState st) := by
  rw [State.enter, raiseCircuit_eq, circuit_raise_self, onControl_eq, circuit_onCircuit_self]

theorem enter_kept (st : CircuitState) (old : (s.circuit c).control.state ≠ .disabled) (new : st ≠ .disabled)
    (unlocked : (s.circuit c).recovery.locked = false) : CircuitKept (s.circuit c) ((s.enter c st).circuit c) := by
  rw [circuit_enter]
  exact (CircuitKept.ofState _ st old new (fun h => by rw [unlocked] at h; cases h)).trans (.ofFlag _ _ _)

@[simp] theorem tributaries_enter (s : State) (c : Fin 64) (st : CircuitState) : (s.enter c st).tributaries = s.tributaries := by
  simp [State.enter]

/-- A circuit after its lock has been cleared (R141). -/
theorem circuit_loseLock (s : State) (c : Fin 64) : (s.loseLock c).circuit c
    = ({ s.circuit c with recovery := (s.circuit c).recovery.unlock } : Circuit).raisedIf (s.circuit c).recovery.locked
      .lockLost .none := by
  simp only [State.loseLock, raiseCircuit_eq]
  rw [circuit_raise_ite]
  simp

/-- Operations that keep the state, the lock gone, followed by a change of state and the clocking change for the state left. -/
theorem Runs.leaving (h : Runs s w c) (state : (w.circuit c).control.state = (s.circuit c).control.state)
    (unlocked : (w.circuit c).recovery.locked = false) (engaged : (s.circuit c).control.state ≠ .disabled)
    (st : CircuitState) (new : st ≠ .disabled) :
    Quiet s ((w.enter c st).leavesPlaying c (s.circuit c).control.state (s.circuit c).recovery.mean) :=
  .leaving engaged (h.only.trans (enter_only w c st)) (by simpa using h.tributaries)
    (h.kept.trans (enter_kept st (by rw [state]; exact engaged) new unlocked)) (by simpa [circuit_enter] using h.up)

/-- The blocks anchoring sets keep what a circuit keeps, as the arrival is stored at the pointer (R60). -/
theorem CircuitKept.ofAnchored (k : Circuit) (x : Candidate) (lt : Ticks) : CircuitKept k (k.anchored x lt) :=
  { CircuitKept.refl k with
    range := fun r => r.congr rfl rfl rfl rfl rfl
    buffer := fun pos _ => Buffer.lawful_anchored (x.entry true) 0 x.ts pos }

/-- Anchoring before its change of state: the blocks set, the lock gone, the timers and the active path afresh (R60). -/
def State.anchoring (s : State) (c : Fin 64) (x : Candidate) : State :=
  ((((((s.onCircuit c (fun k => k.anchored x s.lt)).count c .firstCopies).loseLock c).onControl c
    (fun k => { k with mismatchRun := 0, lateRun := 0, engageTimer := none })).startStarvation c).refreshActive c)

theorem anchor_eq (s : State) (c : Fin 64) (x : Candidate) :
    s.anchor c x = (if (s.circuit c).control.state = .acquiring then s.anchoring c x
      else (s.anchoring c x).enter c .acquiring).leavesPlaying c (s.circuit c).control.state (s.circuit c).recovery.mean := rfl

theorem anchoring_runs (s : State) (c : Fin 64) (x : Candidate) : Runs s (s.anchoring c x) c :=
  ((((((Runs.on s c (fun k => k.anchored x s.lt) (.ofAnchored _ x _) rfl id).thenCount .firstCopies).trans
    (loseLock_runs _ c)).thenControl (fun k => { k with mismatchRun := 0, lateRun := 0, engageTimer := none })
      (fun _ => rfl) (fun _ => rfl)).trans (startStarvation_runs _ c)).trans (refreshActive_runs _ c))

theorem anchor_quiet (x : Candidate) (engaged : (s.circuit c).control.state ≠ .disabled) : Quiet s (s.anchor c x) := by
  have runs := anchoring_runs s c x
  have state : ((s.anchoring c x).circuit c).control.state = (s.circuit c).control.state := by
    simp [State.anchoring, State.refreshActive, State.startStarvation, circuit_loseLock, Circuit.anchored]
  have unlocked : ((s.anchoring c x).circuit c).recovery.locked = false := by
    simp [State.anchoring, State.refreshActive, State.startStarvation, circuit_loseLock, Recovery.unlock]
  rw [anchor_eq]
  split
  · exact .leaving engaged runs.only runs.tributaries runs.kept runs.up
  · exact runs.leaving state unlocked engaged .acquiring (by decide)

theorem reacquire_quiet (engaged : (s.circuit c).control.state ≠ .disabled) : Quiet s (s.reacquire c) := by
  have cleared : Runs s (s.onCircuit c (fun k => { k with
      buffer := { k.buffer.flush with pointer := none }, recovery := { k.recovery with rt := none, window := none } })) c :=
    .on s c _ ((CircuitKept.ofBuffer _ _ (fun _ => Buffer.lawful_flush_none)).trans
      (.ofRecovery _ { (s.circuit c).recovery with rt := none, window := none } (.of_eq rfl rfl rfl rfl rfl id))) rfl id
  have runs := ((((cleared.trans (loseLock_runs _ c)).thenControl
    (fun k => { k with mismatchRun := 0, lateRun := 0, starvationTimer := none }) (fun _ => rfl) (fun _ => rfl)).trans
      (startEngageTimer_runs _ c)).trans (refreshActive_runs _ c))
  exact runs.leaving (by simp [State.refreshActive, State.startEngageTimer, circuit_loseLock])
    (by simp [State.refreshActive, State.startEngageTimer, circuit_loseLock, Recovery.unlock]) engaged .awaiting
    (by decide)

/-! ### Starvation -/

theorem starveAcquiring_quiet (acquiring : (s.circuit c).control.state = .acquiring) : Quiet s (s.starveAcquiring c) := by
  have cleared : Runs s (s.onCircuit c (fun k => { k with
      buffer := { k.buffer.flush with pointer := none }
      recovery := { k.recovery with rt := none, window := none }
      control := { k.control with mismatchRun := 0, lateRun := 0, starvationTimer := none } })) c :=
    .on s c _ (((CircuitKept.ofBuffer _ _ (fun _ => Buffer.lawful_flush_none)).trans
      (.ofRecovery _ { (s.circuit c).recovery with rt := none, window := none } (.of_eq rfl rfl rfl rfl rfl id))).trans
      (.ofControl _ { (s.circuit c).control with mismatchRun := 0, lateRun := 0, starvationTimer := none } rfl rfl)) rfl id
  have engaged : (s.circuit c).control.state ≠ .disabled := by rw [acquiring]; decide
  exact (((cleared.trans (startEngageTimer_runs _ c)).trans (refreshActive_runs _ c)).thenEnter .awaiting
    (by simpa [State.refreshActive, State.startEngageTimer] using engaged) (by decide)
    (by simp [State.refreshActive, State.startEngageTimer, acquiring])).quiet_of_engaged engaged

/-- The state starved of PLAYING before its clocking change (R64, R144). -/
def State.starvedPlaying (s : State) (c : Fin 64) : State :=
  (((s.enter c .starved).loseLock c).onRecovery c (fun r => { r.holdMean with window := none })).onControl c
    (fun k => { k with mismatchRun := 0, lateRun := 0, starvationTimer := none })

theorem starvePlaying_eq (s : State) (c : Fin 64) :
    s.starvePlaying c = (s.starvedPlaying c).timingLeavesPlaying c (s.circuit c).recovery.mean := rfl

/-- A starvation expiry in PLAYING takes the state and the lock at once, so that the law of the lock passes it (R64, R141). -/
theorem CircuitKept.ofStarved (k : Circuit) (engaged : k.control.state ≠ .disabled) :
    CircuitKept k { k with control := { k.control with state := .starved }, recovery := k.recovery.unlock } :=
  { CircuitKept.refl k with
    engaged := ⟨nofun, fun h => absurd h engaged⟩
    range := (Recovery.keeps_unlock k.recovery).range
    lock := fun _ h => by cases h
    recalls := fun _ h => by cases h
    history := id }

theorem circuit_starvedPlaying (s : State) (c : Fin 64) : (s.starvedPlaying c).circuit c
    = (({ s.circuit c with
        control := { (s.circuit c).control with state := .starved, mismatchRun := 0, lateRun := 0, starvationTimer := none }
        recovery := { (s.circuit c).recovery.unlock.holdMean with window := none } } : Circuit).raised .stateChanged
          (.circuitState .starved)).raisedIf (s.circuit c).recovery.locked .lockLost .none := by
  simp [State.starvedPlaying, circuit_loseLock, circuit_enter, Circuit.raised, Circuit.raisedIf]

theorem starvePlaying_quiet (playing : (s.circuit c).control.state = .playing) : Quiet s (s.starvePlaying c) := by
  have engaged : (s.circuit c).control.state ≠ .disabled := by rw [playing]; decide
  have only : OnlyCircuit s (s.starvedPlaying c) c :=
    (((enter_only s c .starved).trans (loseLock_only _ c)).thenRecovery _).thenControl _
  have kept : CircuitKept (s.circuit c) ((s.starvedPlaying c).circuit c) := by
    rw [circuit_starvedPlaying]
    exact ((((CircuitKept.ofStarved _ engaged).trans (.ofRecovery _ _ (Recovery.keeps_holdMean _))).trans
      (.ofControl _ { (s.circuit c).control with state := .starved, mismatchRun := 0, lateRun := 0, starvationTimer := none }
        rfl rfl)).trans (.ofFlag _ _ _)).trans (.ofFlagIf _ _ _ _)
  have tributaries : (s.starvedPlaying c).tributaries = s.tributaries :=
    (loseLock_runs _ c).tributaries.trans (tributaries_enter s c .starved)
  have left := Quiet.leaving engaged only tributaries kept (by rw [circuit_starvedPlaying]; rfl)
  rwa [playing, State.leavesPlaying, if_pos rfl, ← starvePlaying_eq] at left

end Sys2Proof.Machine

/-! PROOFS. Paths that come UP and go DOWN (R92), the arrival in its stages (R91), and the expiries of a circuit's timers: each is
quiet. -/

namespace Sys2Proof.Machine

variable {s : State} {c : Fin 64}

/-! ### Path supervision -/

/-- What a DISABLED circuit holds of arrival and merge and of circuit control (R56). -/
theorem bare_blocks {k : Circuit} (bare : k = k.disabledForm) : k.merge = {} ∧ k.control = {} ∧ k.packetizer = {} := by
  rw [bare]; exact ⟨rfl, rfl, rfl⟩

theorem activeAfterUp_up (s : State) (c : Fin 64) (p : Port) :
    ((s.activeAfterUp c p).circuit c).merge.up = (s.circuit c).merge.up := (activeAfterUp_runs s c p).up

/-- A path that comes UP, before its flag and the active path (R92). -/
def State.pathHeard (s : State) (c : Fin 64) (p : Port) : State :=
  s.onMerge c (fun m => { m with
    up := m.up.set p .up
    timers := m.timers.set p (some (expiryAfter s.lt
      (periodsToTicks (s.circuit c).entry.pathTimeout (s.circuit c).entry.frames))) })

theorem pathAlive_cases (s : State) (c : Fin 64) (p : Port) :
    ((s.circuit c).merge.up.get p = .up ∧ s.pathAlive c p = s.pathHeard c p)
    ∨ ((s.circuit c).merge.up.get p = .down
      ∧ s.pathAlive c p = ((s.pathHeard c p).raiseCircuit c (.pathChange p) (.upDown .up)).activeAfterUp c p) := by
  cases h : (s.circuit c).merge.up.get p
  · exact .inr ⟨rfl, by simp only [State.pathAlive, h]; rfl⟩
  · exact .inl ⟨rfl, by simp only [State.pathAlive, h]; rfl⟩

theorem pathHeard_quiet (p : Port) (engaged : (s.circuit c).control.state ≠ .disabled) (link : (s.port p).link = .up) :
    Quiet s (s.pathHeard c p) := by
  have only : OnlyCircuit s (s.pathHeard c p) c := (OnlyCircuit.refl s c).thenMerge _
  refine .ofCircuit only (.ofCircuit only (by simpa [State.pathHeard] using CircuitKept.ofMerge _ _) (fun t => .inl rfl)
    (fun h => .inl (by simpa [State.pathHeard] using h)) (fun e => absurd e engaged)) (fun q h => ?_)
  simp only [State.pathHeard, onMerge_eq, circuit_onCircuit_self, Pair.get_set] at h
  split at h
  · next e => subst e; exact .inr ⟨engaged, link⟩
  · exact .inl h

theorem pathAlive_quiet (p : Port) (engaged : (s.circuit c).control.state ≠ .disabled) (link : (s.port p).link = .up) :
    Quiet s (s.pathAlive c p) := by
  have heard := pathHeard_quiet p engaged link
  rcases pathAlive_cases s c p with ⟨_, h⟩ | ⟨_, h⟩ <;> rw [h]
  · exact heard
  · refine heard.trans (((Runs.refl _ c).thenFlag _ _).trans (activeAfterUp_runs _ c p) |>.quiet_of_engaged ?_)
    exact fun e => engaged ((heard.engaged c).mp e)

/-- A path that goes DOWN, before its flag and the active path (R92, R93). -/
def State.pathLeft (s : State) (c : Fin 64) (p : Port) : State :=
  s.onMerge c (fun m => { m with up := m.up.set p .down, timers := m.timers.set p none })

theorem pathDown_cases (s : State) (c : Fin 64) (p : Port) :
    ((s.circuit c).merge.up.get p = .down ∧ s.pathDown c p = s)
    ∨ ((s.circuit c).merge.up.get p = .up
      ∧ s.pathDown c p = ((s.pathLeft c p).raiseCircuit c (.pathChange p) (.upDown .down)).activeAfterDown c p) := by
  cases h : (s.circuit c).merge.up.get p
  · exact .inl ⟨rfl, by simp only [State.pathDown, h]⟩
  · exact .inr ⟨rfl, by simp only [State.pathDown, h]; rfl⟩

/-- The circuit's other path stays as it was when one goes DOWN. -/
theorem pathDown_up (s : State) (c : Fin 64) (p : Port) :
    ((s.pathDown c p).circuit c).merge.up = (s.circuit c).merge.up.set p .down := by
  rcases pathDown_cases s c p with ⟨down, h⟩ | ⟨_, h⟩ <;> rw [h]
  · refine Pair.ext_get (fun q => ?_)
    rw [Pair.get_set]
    split
    · next e => rw [e]; exact down
    · rfl
  · rw [(activeAfterDown_runs _ c p).up]
    simp [State.pathLeft]

theorem pathDown_quiet (s : State) (c : Fin 64) (p : Port) : Quiet s (s.pathDown c p) := by
  have only := pathDown_only s c p
  have up (q : Port) (h : ((s.pathDown c p).circuit c).merge.up.get q = .up) : (s.circuit c).merge.up.get q = .up := by
    rw [pathDown_up, Pair.get_set] at h
    split at h
    · cases h
    · exact h
  refine .ofCircuit only ?_ (fun q h => .inl (up q h))
  rcases pathDown_cases s c p with ⟨_, h⟩ | ⟨was, h⟩
  · rw [h]; exact (Quiet.refl s).toCalm
  · have runs := ((Runs.refl (s.pathLeft c p) c).thenFlag (.pathChange p) (.upDown .down)).trans (activeAfterDown_runs _ c p)
    rw [← h] at runs
    have left : CircuitKept (s.circuit c) ((s.pathLeft c p).circuit c) := by
      simpa [State.pathLeft] using CircuitKept.ofMerge _ _
    refine .ofCircuit only (left.trans runs.kept) (fun t => .inl (State.tributary_congr runs.tributaries t))
      (fun e => .inl (runs.plays (by simpa [State.pathLeft] using e))) (fun _ bare => ?_)
    rw [(bare_blocks bare).1] at was
    cases p <;> cases was

/-! ### The arrival -/

theorem stampMismatch_quiet (x : Candidate) (engaged : (s.circuit c).control.state ≠ .disabled) :
    Quiet s (s.stampMismatch c x) := by
  have counted := Quiet.count s c .stampMismatch
  have still : ((s.count c .stampMismatch).circuit c).control.state ≠ .disabled := fun e => engaged ((counted.engaged c).mp e)
  simp only [State.stampMismatch]
  split
  · split
    · exact (counted.trans (anchor_quiet x still)).trans (.raise _ _ _)
    · exact counted.trans (((Runs.refl _ c).thenControl (fun k => { k with mismatchRun := k.mismatchRun + 1 })
        (fun _ => rfl) (fun _ => rfl)).quiet_of_engaged still)
  · exact counted

theorem takeFitting_quiet (x : Candidate) (engaged : (s.circuit c).control.state ≠ .disabled) :
    Quiet s (s.takeFitting c x) := by
  have slid := slideFor_runs s c x.seq
  have slidQuiet := slid.quiet_of_engaged engaged
  have still {u : State} (h : Quiet s u) : (u.circuit c).control.state ≠ .disabled := fun e => engaged ((h.engaged c).mp e)
  simp only [State.takeFitting]
  split
  · exact slidQuiet
  · next y pointer =>
    have taken (sampled : Bool) := takeClass_runs pointer x sampled
    have takenQuiet (sampled : Bool) := slidQuiet.trans ((taken sampled).quiet_of_engaged (still slidQuiet))
    split
    · split
      · split
        · exact (takenQuiet true).trans (((reenter_runs _ (still (takenQuiet true))).trans
            (takeSkew_runs _ c _)).quiet_of_engaged (still (takenQuiet true)))
        · exact slidQuiet.trans (anchor_quiet x (still slidQuiet))
      · split
        · exact (takenQuiet true).trans (anchor_quiet x (still (takenQuiet true)))
        · exact (takenQuiet true).trans ((((lateRunAfter_runs _ c _).trans (takeSample_runs _ c _)).trans
            (takeSkew_runs _ c _)).quiet_of_engaged (still (takenQuiet true)))
    · exact (takenQuiet false).trans ((takeSkew_runs _ c _).quiet_of_engaged (still (takenQuiet false)))

theorem takeChecked_quiet (x : Candidate) (engaged : (s.circuit c).control.state ≠ .disabled) :
    Quiet s (s.takeChecked c x) := by
  have fresh : Runs s (s.onControl c (fun k => { k with mismatchRun := 0 })) c :=
    (Runs.refl s c).thenControl _ (fun _ => rfl) (fun _ => rfl)
  have checked : Quiet s (if (s.circuit c).samples x.path then s.onControl c (fun k => { k with mismatchRun := 0 }) else s) := by
    split
    · exact fresh.quiet_of_engaged engaged
    · exact .refl s
  simp only [State.takeChecked]
  split
  · exact .refl s
  · split
    · split
      · exact checked
      · exact checked.trans (takeFitting_quiet x (fun e => engaged ((checked.engaged c).mp e)))
    · exact stampMismatch_quiet x engaged

theorem takeByState_quiet (x : Candidate) (engaged : (s.circuit c).control.state ≠ .disabled) :
    Quiet s (s.takeByState c x) := by
  simp only [State.takeByState]
  split
  · exact .refl s
  · split
    · exact anchor_quiet x engaged
    · exact .refl s
  all_goals exact takeChecked_quiet x engaged

theorem takeArrival_quiet (p : Port) (x : Packet) (size : Nat) (capture : Ticks)
    (engaged : (s.circuit c).control.state ≠ .disabled) (link : (s.port p).link = .up) :
    Quiet s (s.takeArrival c p x size capture) := by
  have counted := Quiet.count s c (.received p)
  have alive := counted.trans (pathAlive_quiet p (fun e => engaged ((counted.engaged c).mp e)) link)
  have heard := alive.trans ((faultAndEcho_runs _ c p x capture).quiet_of_engaged
    (fun e => engaged ((alive.engaged c).mp e)))
  exact heard.trans (takeByState_quiet _ (fun e => engaged ((heard.engaged c).mp e)))

theorem circuitOfLabel_engaged {label : Nat} (h : s.circuitOfLabel label = some c) : (s.circuit c).engaged = true := by
  have := List.find?_some h
  simp only [Bool.and_eq_true] at this
  exact this.1.1

theorem engaged_iff (k : Circuit) : k.engaged = true ↔ k.control.state ≠ .disabled := by simp [Circuit.engaged]

theorem deliver_quiet (p : Port) (capture : Ticks) (o : List Byte) (link : (s.port p).link = .up) :
    Quiet s (s.deliver p capture o) := by
  have counted := Quiet.countPort s p .framesReceived
  simp only [State.deliver]
  split
  · exact counted.trans (.countPort _ p _)
  · simp only [State.takeData]
    split
    · exact counted.trans (.countPort _ p _)
    · next c named =>
      have engaged := (engaged_iff _).mp (circuitOfLabel_engaged named)
      split
      · exact counted.trans (takeArrival_quiet p _ _ _ engaged (by simpa using link))
      · exact counted.trans (.count _ c _)
  · simp only [State.takeManagement]
    split
    · exact counted.trans (.countPort _ p _)
    · split
      · exact (counted.trans (.countPort _ p _)).trans (.onPort _ p _ { PortKept.refl _ with } rfl)
      · exact counted.trans (.countPort _ p _)

/-! ### The expiries of a circuit's timers -/

theorem starve_quiet (expires : expired s.lt (s.circuit c).control.starvationTimer = true) : Quiet s (s.starve c) := by
  simp only [State.starve]
  split
  · next acquiring => exact starveAcquiring_quiet acquiring
  · next playing => exact starvePlaying_quiet playing
  · refine Runs.quiet (c := c) ((Runs.refl s c).thenControl _ (fun _ => rfl) (fun _ => rfl)) (fun _ bare => ?_)
    rw [(bare_blocks bare).2.1] at expires
    cases expires

/-- The expiries of the four timers of a circuit (R59, R63, R92, R97). -/
theorem execEngageTimerExpiry_quiet {u : State} (h : execEngageTimerExpiry c s = .next u) : Quiet s u := by
  simp only [execEngageTimerExpiry, Host.Outcome.next.injEq] at h
  subst h
  split
  · next expires =>
    have stopped : Runs s (s.onControl c (fun k => { k with engageTimer := none })) c :=
      (Runs.refl s c).thenControl _ (fun _ => rfl) (fun _ => rfl)
    refine (stopped.quiet (fun _ bare => ?_)).trans (.raise _ _ _)
    rw [(bare_blocks bare).2.1] at expires
    cases expires
  · exact .refl s

theorem execStarvationTimerExpiry_quiet {u : State} (h : execStarvationTimerExpiry c s = .next u) : Quiet s u := by
  simp only [execStarvationTimerExpiry, Host.Outcome.next.injEq] at h
  subst h
  split
  · next expires => exact starve_quiet expires
  · exact .refl s

theorem execPathTimerExpiry_quiet {p : Port} {u : State} (h : execPathTimerExpiry c p s = .next u) : Quiet s u := by
  simp only [execPathTimerExpiry, Host.Outcome.next.injEq] at h
  subst h
  split
  · exact pathDown_quiet s c p
  · exact .refl s

theorem execRestoreHoldOffExpiry_quiet {u : State} (h : execRestoreHoldOffExpiry c s = .next u) : Quiet s u := by
  simp only [execRestoreHoldOffExpiry, Host.Outcome.next.injEq] at h
  subst h
  split
  · next expires =>
    have bare (h : s.circuit c = (s.circuit c).disabledForm) {P : Prop} : P := by
      rw [(bare_blocks h).1] at expires
      cases expires
    split
    · exact ((Runs.refl s c).thenMerge (fun m => { m with holdOff := none }) (fun _ => rfl)).quiet (fun _ => (bare ·))
    · exact (switchActive_runs s c _).quiet (fun _ => (bare ·))
  · exact .refl s

theorem execFrameArrival_quiet {p : Port} {age : Ticks} {o : List Byte} {u : State}
    (h : execFrameArrival p age o s = .next u) : Quiet s u := by
  simp only [execFrameArrival, Host.Outcome.next.injEq] at h
  subst h
  split
  · next up => exact deliver_quiet p _ o up
  · exact .refl s

end Sys2Proof.Machine

/-! PROOFS. Packets, departures, links, the receive side of the lines and the transmit frame start: each operation is quiet, but
for a link that goes DOWN, which is calm. -/

namespace Sys2Proof.Machine

variable {s u : State}

/-! ### Packets made (R73 to R78) -/

theorem queueCopy_quiet (s : State) (p : Port) (x : Copy) : Quiet s (s.queueCopy p x) := by
  rcases queueCopy_cases s p x with ⟨room, h⟩ | ⟨_, h⟩ <;> rw [h]
  · refine .onPort s p _ { PortKept.refl _ with copies := fun _ => ?_ } rfl
    simp only [List.length_append, List.length_singleton]
    omega
  · exact (Quiet.countPort s p _).trans (.raise _ _ _)

theorem makeCopy_quiet (s : State) (c : Fin 64) (a : Assembly) (seq : SeqNo) (r : Bool) (p : Port) :
    Quiet s (s.makeCopy c a seq r p) := by
  rcases makeCopy_cases s p c a seq r with h | h | ⟨_, _, _, h⟩ <;> rw [h]
  · exact .refl s
  · exact .count s c _
  · exact queueCopy_quiet s p _

/-- A change of an engaged circuit's packetizer that leaves it running (R72). -/
theorem onPacketizer_quiet {c : Fin 64} (f : Packetizer → Packetizer) (engaged : (s.circuit c).control.state ≠ .disabled)
    (phase : (s.circuit c).packetizer.phase ≠ .idle → (f (s.circuit c).packetizer).phase ≠ .idle) :
    Quiet s (s.onPacketizer c f) := ((Runs.refl s c).thenPacketizer f phase).quiet_of_engaged engaged

theorem completePacket_quiet {c : Fin 64} (a : Assembly) (engaged : (s.circuit c).control.state ≠ .disabled) :
    Quiet s (s.completePacket c a) :=
  ((onPacketizer_quiet _ engaged (by exact id)).trans (makeCopy_quiet _ c a _ _ .A)).trans (makeCopy_quiet _ c a _ _ .B)

theorem addFrame_phase (z : Packetizer) (stamp : Ticks) (o : List Byte) (faulted : Bool) (h : z.phase ≠ .idle) :
    (z.addFrame stamp o faulted).phase ≠ .idle := by
  unfold Packetizer.addFrame
  split
  · next idle => exact absurd idle h
  · simp

theorem collectFrame_quiet {c : Fin 64} (stamp : Ticks) (frame : List Byte) (faulted : Bool)
    (engaged : (s.circuit c).control.state ≠ .disabled) : Quiet s (s.collectFrame c stamp frame faulted) := by
  have added := onPacketizer_quiet (s := s) (c := c) (fun _ => (s.circuit c).packetizer.addFrame stamp
    (takeOctets (s.framingOf (s.circuit c).entry) (s.circuit c).entry frame) faulted) engaged (addFrame_phase _ _ _ _)
  simp only [State.collectFrame]
  split
  · exact added
  · split
    · exact added.trans (completePacket_quiet _ (fun e => engaged ((added.engaged c).mp e)))
    · exact added

/-- One circuit's part of a receive frame event of a tributary (R10). -/
def State.collectOf (t : Fin 16) (stamp : Ticks) (frame : List Byte) (faulted : Bool) (c : Fin 64) (s : State) : State :=
  if (s.circuit c).engaged && (s.circuit c).names t then s.collectFrame c stamp frame faulted else s

theorem receiveFrame_eq (s : State) (t : Fin 16) (frame : List Byte) (faulted : Bool) :
    s.receiveFrame t frame faulted
      = (Machine.forEach allCircuits (State.collectOf t (s.tributary t).line.frameCount frame faulted) s).onLine t (fun u =>
          { u with
            frameCount := (s.tributary t).line.frameCount + 1024
            lastEvent := (Machine.forEach allCircuits (State.collectOf t (s.tributary t).line.frameCount frame faulted) s).lt }) :=
  rfl

theorem collectOf_quiet (t : Fin 16) (stamp : Ticks) (frame : List Byte) (faulted : Bool) (c : Fin 64) (s : State) :
    Quiet s (s.collectOf t stamp frame faulted c) := by
  unfold State.collectOf
  split
  · next taking =>
    simp only [Bool.and_eq_true] at taking
    exact collectFrame_quiet _ _ _ ((engaged_iff _).mp taking.1)
  · exact .refl s

theorem receiveFrame_quiet (s : State) (t : Fin 16) (frame : List Byte) (faulted : Bool) :
    Quiet s (s.receiveFrame t frame faulted) := by
  rw [receiveFrame_eq]
  have collected := Quiet.forEach allCircuits _ (collectOf_quiet t (s.tributary t).line.frameCount frame faulted) s
  generalize Machine.forEach allCircuits (State.collectOf t (s.tributary t).line.frameCount frame faulted) s = v at collected ⊢
  exact collected.trans (.onLine v t _ (by exact id))

/-! ### Departures and links (R79 to R82, R86) -/

theorem execCopyDeparture_quiet {p : Port} (h : execCopyDeparture p s = .next u) : Quiet s u := by
  simp only [execCopyDeparture, Host.Outcome.next.injEq] at h
  subst h
  split
  · split
    · exact .refl s
    · next x rest queue =>
      have sent := (Quiet.onPort s p (fun k => { k with circuitQueue := rest, sending := some (copyFrame s p x) })
        { PortKept.refl _ with copies := fun b => by rw [queue] at b; simp only [List.length_cons] at b ⊢; omega } rfl).trans
        (.count _ x.circuit (.sent p))
      simp only [State.departCopy]
      split
      · refine sent.trans (Runs.quiet (c := x.circuit) ((Runs.refl _ _).thenPacketizer
          (fun z => { z with sendLog := recordSent z.sendLog x.ts p s.lt }) id) (fun _ bare => ?_))
        have log := congrArg Packetizer.sendLog (bare_blocks bare).2.2
        rw [onPacketizer_eq, circuit_onCircuit_self, log]
        rw [bare]
        rfl
      · exact sent
  · exact .refl s

theorem execResponseDeparture_quiet {p : Port} (h : execResponseDeparture p s = .next u) : Quiet s u := by
  simp only [execResponseDeparture, Host.Outcome.next.injEq] at h
  subst h
  split
  · split
    · exact .refl s
    · next x rest queue =>
      refine .onPort s p _ { PortKept.refl _ with responses := fun b => ?_ } rfl
      rw [queue] at b
      simp only [List.length_cons] at b ⊢
      omega
  · exact .refl s

theorem execLastOctetSent_quiet {p : Port} (h : execLastOctetSent p s = .next u) : Quiet s u := by
  cases h
  exact .onPort s p _ { PortKept.refl _ with } rfl

theorem execLinkUp_quiet {p : Port} (h : execLinkUp p s = .next u) : Quiet s u := by
  simp only [execLinkUp, Host.Outcome.next.injEq] at h
  subst h
  split
  · exact .refl s
  · refine Quiet.trans (PortKept.quiet (.onPort s p _ rfl) ?_ (fun _ => ?_)) (.raise _ _ _)
    · simpa using { PortKept.refl _ with }
    · simp

theorem flushQueues_quiet (s : State) (p : Port) : Quiet s (s.flushQueues p) :=
  (Quiet.onPort s p _ { PortKept.refl _ with copies := fun _ => by simp, responses := fun _ => by simp } rfl).trans
    (.forEach _ _ (fun (x : Copy) u => .count u x.circuit (.notSent p)) _)

/-- A link that goes DOWN, before the paths on it follow (R82, R86). -/
def State.linkLost (s : State) (p : Port) : State :=
  ((s.onPort p (fun k => { k with link := .down })).raisePort p .linkChange (.upDown .down)).flushQueues p

/-- The paths on a port of the engaged circuits of a list go DOWN (R93). -/
def State.pathsDown (p : Port) (l : List (Fin 64)) (s : State) : State :=
  forEach l (fun c s => if (s.circuit c).engaged then s.pathDown c p else s) s

theorem execLinkDown_cases {p : Port} (h : execLinkDown p s = .next u) :
    ((s.port p).link = .down ∧ u = s) ∨ ((s.port p).link = .up ∧ u = State.pathsDown p allCircuits (s.linkLost p)) := by
  cases e : (s.port p).link <;> simp only [execLinkDown, e, Host.Outcome.next.injEq] at h
  · exact .inl ⟨rfl, h.symm⟩
  · exact .inr ⟨rfl, h.symm⟩

theorem pathsDown_quiet (p : Port) (l : List (Fin 64)) (s : State) : Quiet s (State.pathsDown p l s) :=
  .forEach l _ (fun c v => by
    split
    · exact pathDown_quiet v c p
    · exact .refl v) s

theorem linkLost_calm (s : State) (p : Port) : Calm s (s.linkLost p) ∧ (s.linkLost p).lt = s.lt := by
  have down : Calm s (s.onPort p (fun k => { k with link := .down })) :=
    PortKept.calm (.onPort s p _ rfl) (by simpa using { PortKept.refl _ with })
  have rest := (Quiet.raise (s.onPort p (fun k => { k with link := .down })) (.port p .linkChange) (.upDown .down)).trans
    (flushQueues_quiet _ p)
  exact ⟨down.trans rest.toCalm, rest.lt⟩

theorem linkLost_merge (s : State) (p : Port) (c : Fin 64) : ((s.linkLost p).circuit c).merge = (s.circuit c).merge := by
  rw [State.linkLost, flushQueues_circuit]
  simp

theorem linkLost_link (s : State) (p q : Port) : ((s.linkLost p).port q).link = if q = p then .down else (s.port q).link := by
  rw [State.linkLost, State.port_congr (flushQueues_port _ p), port_onPort, raisePort_eq]
  by_cases e : q = p
  · subst e; simp
  · simp [e, port_onPort_of_ne]

/-- After the paths on a port have been taken DOWN, no engaged circuit of the list has one UP there, and each circuit's other path is
as it was. -/
theorem pathsDown_up (p : Port) (l : List (Fin 64)) (s : State) (c : Fin 64) :
    ((State.pathsDown p l s).circuit c).merge.up
      = if c ∈ l ∧ (s.circuit c).engaged then (s.circuit c).merge.up.set p .down else (s.circuit c).merge.up := by
  induction l generalizing s with
  | nil => simp [State.pathsDown, forEach]
  | cons d l ih =>
    have step : State.pathsDown p (d :: l) s
        = State.pathsDown p l (if (s.circuit d).engaged then s.pathDown d p else s) := rfl
    have engaged (v : State) (h : Quiet s v) : (v.circuit c).engaged = (s.circuit c).engaged := by
      rw [Bool.eq_iff_iff, engaged_iff, engaged_iff, not_iff_not]; exact h.engaged c
    rw [step, ih]
    by_cases e : (s.circuit d).engaged = true
    · rw [if_pos e, engaged _ (pathDown_quiet s d p)]
      by_cases same : c = d
      · subst same
        simp only [List.mem_cons, true_or, e, and_self, if_true, pathDown_up]
        split
        · refine Pair.ext_get (fun q => ?_)
          simp only [Pair.get_set]
          split <;> rfl
        · rfl
      · rw [(pathDown_only s d p).others c same]
        simp only [List.mem_cons, same, false_or]
    · rw [if_neg e]
      by_cases same : c = d
      · subst same; simp [e]
      · simp only [List.mem_cons, same, false_or]

theorem pathsDown_port (p : Port) (l : List (Fin 64)) (s : State) (q : Port) : (State.pathsDown p l s).port q = s.port q :=
  forEach_induction (fun v => v.port q = s.port q) _ (fun c v hv => by
    split
    · rw [State.port_congr (pathDown_only v c p).ports]; exact hv
    · exact hv) l s rfl

theorem execLinkDown_calm {p : Port} (h : execLinkDown p s = .next u) : Calm s u ∧ u.lt = s.lt := by
  rcases execLinkDown_cases h with ⟨_, h⟩ | ⟨_, h⟩ <;> rw [h]
  · exact ⟨(Quiet.refl s).toCalm, rfl⟩
  · have lost := linkLost_calm s p
    have paths := pathsDown_quiet p allCircuits (s.linkLost p)
    exact ⟨lost.1.trans paths.toCalm, paths.lt.trans lost.2⟩

theorem mem_allCircuits (c : Fin 64) : c ∈ allCircuits := by unfold allCircuits; exact List.mem_finRange c

theorem mem_allTributaries (t : Fin 16) : t ∈ allTributaries := by unfold allTributaries; exact List.mem_finRange t

theorem execLinkDown_paths {p : Port} (h : execLinkDown p s = .next u) (law : pathLaw s) : pathLaw u := by
  rcases execLinkDown_cases h with ⟨_, h⟩ | ⟨_, h⟩ <;> rw [h]
  · exact law
  · intro c q up
    have lost := (linkLost_calm s p).1
    have quiet := pathsDown_quiet p allCircuits (s.linkLost p)
    rw [pathsDown_up, linkLost_merge] at up
    rw [pathsDown_port, linkLost_link]
    have state : ((State.pathsDown p allCircuits (s.linkLost p)).circuit c).control.state = .disabled
        ↔ (s.circuit c).control.state = .disabled := (quiet.engaged c).trans (lost.engaged c)
    have engaged (h : (s.circuit c).merge.up.get q = .up) : ((s.linkLost p).circuit c).engaged = true :=
      (engaged_iff _).mpr (fun e => (law c q h).1 ((lost.engaged c).mp e))
    by_cases e : q = p
    · subst e
      split at up
      · simp at up
      · next away => exact absurd ⟨mem_allCircuits c, engaged up⟩ away
    · rw [if_neg e]
      have was : (s.circuit c).merge.up.get q = .up := by
        split at up
        · rwa [Pair.get_set_of_ne _ _ e] at up
        · exact up
      exact ⟨fun h => (law c q was).1 (state.mp h), (law c q was).2⟩

/-! ### The receive side of the lines (R1 to R8) -/

theorem clearRemoteAlarm_quiet (s : State) (t : Fin 16) : Quiet s (s.clearRemoteAlarm t) := by
  have cleared := Quiet.onLine s t (fun u => { u with remoteAlarm := .clear, lastIndicator := none, alarmRun := 0 }) id
  simp only [State.clearRemoteAlarm]
  split
  · exact cleared.trans (.raise _ _ _)
  · exact cleared

theorem loseAlignment_quiet (s : State) (t : Fin 16) (search : SearchPhase) : Quiet s (s.loseAlignment t search) :=
  ((Quiet.onLine s t _ (by exact id)).trans (.raise _ _ _)).trans (clearRemoteAlarm_quiet _ t)

theorem loseAlignment_clocking (s : State) (t : Fin 16) (search : SearchPhase) :
    ((s.loseAlignment t search).tributary t).clocking = (s.tributary t).clocking
    ∧ ((s.loseAlignment t search).tributary t).line.signal = (s.tributary t).line.signal := by
  simp only [State.loseAlignment, State.clearRemoteAlarm]
  split <;> simp

theorem changeMode_lineKept (k : Tributary) (m : ClockMode) (h : m ≠ .adaptive) : LineKept k (k.changeMode m) where
  entry := rfl
  flags _ _ := id
  range r := by
    rcases changeMode_transmit k m with e | ⟨_, _, _, e⟩
    · rw [e]; exact r
    · rw [e]; exact r
  adaptive e := absurd e h

theorem raised_lineKept (k : Tributary) (f : TributaryFlag) (d : Detail) : LineKept k (k.raised f d) :=
  { LineKept.refl k with flags := fun i x h => raisedRow_keeps _ _ i d x h }

theorem setActual_lineKept (s : State) (t : Fin 16) (m : ClockMode) (h : m ≠ .adaptive) :
    LineKept (s.tributary t) ((s.setActual t m).tributary t) := by
  rw [tributary_setActual_self]
  split
  · exact .refl _
  · exact (changeMode_lineKept _ m h).trans (raised_lineKept _ _ _)

theorem actual_setActual (s : State) (t : Fin 16) (m : ClockMode) :
    ((s.setActual t m).tributary t).clocking = { (s.tributary t).clocking with actual := m }
    ∧ ((s.setActual t m).tributary t).line = (s.tributary t).line := by
  rw [tributary_setActual_self]
  split
  · next h => rw [← h]; exact ⟨rfl, rfl⟩
  · exact ⟨rfl, rfl⟩

/-- R155, in its three cases. -/
theorem loopFollows_cases (s : State) (t : Fin 16) :
    ((s.tributary t).clocking.inForce = .loop ∧ (s.tributary t).line.signal = .lost
      ∧ (s.tributary t).clocking.actual = .loop ∧ s.loopFollows t = s.setActual t .free)
    ∨ ((s.tributary t).clocking.inForce = .loop ∧ (s.tributary t).line.signal = .present
      ∧ (s.tributary t).clocking.actual = .free ∧ s.loopFollows t = s.setActual t .loop)
    ∨ (¬((s.tributary t).clocking.inForce = .loop ∧ (s.tributary t).line.signal = .lost
        ∧ (s.tributary t).clocking.actual = .loop)
      ∧ ¬((s.tributary t).clocking.inForce = .loop ∧ (s.tributary t).line.signal = .present
        ∧ (s.tributary t).clocking.actual = .free) ∧ s.loopFollows t = s) := by
  unfold State.loopFollows
  dsimp only
  split
  · next force =>
    split
    · next lost loop => exact .inl ⟨force, lost, loop, rfl⟩
    · next present free => exact .inr (.inl ⟨force, present, free, rfl⟩)
    · next h₁ h₂ => exact .inr (.inr ⟨fun h => h₁ h.2.1 h.2.2, fun h => h₂ h.2.1 h.2.2, rfl⟩)
  · next force => exact .inr (.inr ⟨fun h => force h.1, fun h => force h.1, rfl⟩)

/-- A change of the signal state followed by R155 keeps the law of LOOP. -/
theorem loopFollows_kept {k : Tributary} (t : Fin 16) (before : LineKept k (u.tributary t))
    (clocking : (u.tributary t).clocking = k.clocking) : TributaryKept k ((u.loopFollows t).tributary t) := by
  rcases loopFollows_cases u t with ⟨_, _, _, h⟩ | ⟨force, present, _, h⟩ | ⟨h₁, h₂, h⟩ <;> rw [h]
  · refine ⟨before.trans (setActual_lineKept u t .free (by decide)), fun _ e => ?_⟩
    rw [(actual_setActual u t .free).1] at e
    cases e
  · refine ⟨before.trans (setActual_lineKept u t .loop (by decide)), fun _ _ => ?_⟩
    rw [(actual_setActual u t .loop).1, (actual_setActual u t .loop).2]
    exact ⟨force, present⟩
  · refine ⟨before, fun law e => ?_⟩
    rw [clocking] at e ⊢
    refine ⟨(law e).1, ?_⟩
    cases signal : (u.tributary t).line.signal with
    | present => rfl
    | lost => exact absurd ⟨by rw [clocking]; exact (law e).1, signal, by rw [clocking]; exact e⟩ h₁

theorem loseAlignment_lineKept (s : State) (t : Fin 16) (search : SearchPhase) :
    LineKept (s.tributary t) ((s.loseAlignment t search).tributary t) := by
  simp only [State.loseAlignment, State.clearRemoteAlarm]
  split <;> simp only [raiseTributary_eq, tributary_raise_self, onLine_eq, tributary_onTributary_self]
  · exact (((LineKept.ofLine _ _).trans (raised_lineKept _ _ _)).trans (.ofLine _ _)).trans (raised_lineKept _ _ _)
  · exact ((LineKept.ofLine _ _).trans (raised_lineKept _ _ _)).trans (.ofLine _ _)

theorem declareLoss_quiet (s : State) (t : Fin 16) : Quiet s (s.declareLoss t) := by
  refine TributaryKept.quiet (declareLoss_only s t) ?_
  unfold State.declareLoss
  extract_lets was lost flagged ended
  have flaggedKept : LineKept (s.tributary t) (flagged.tributary t) := by
    simp only [flagged, lost, raiseTributary_eq, tributary_raise_self, onLine_eq, tributary_onTributary_self]
    exact (LineKept.ofLine _ _).trans (raised_lineKept _ _ _)
  have flaggedClocking : (flagged.tributary t).clocking = (s.tributary t).clocking := by simp [flagged, lost]
  have endedKept : LineKept (s.tributary t) (ended.tributary t)
      ∧ (ended.tributary t).clocking = (s.tributary t).clocking := by
    simp only [ended]
    split
    · exact ⟨flaggedKept.trans (loseAlignment_lineKept flagged t .idle),
        (loseAlignment_clocking flagged t .idle).1.trans flaggedClocking⟩
    · exact ⟨flaggedKept, flaggedClocking⟩
  exact loopFollows_kept t endedKept.1 endedKept.2

theorem clearLoss_quiet (s : State) (t : Fin 16) : Quiet s (s.clearLoss t) := by
  refine TributaryKept.quiet (clearLoss_only s t) (loopFollows_kept t ?_ (by simp))
  simp only [raiseTributary_eq, tributary_raise_self, onLine_eq, tributary_onTributary_self]
  exact (LineKept.ofLine _ _).trans (raised_lineKept _ _ _)

theorem signalBit_quiet (s : State) (t : Fin 16) (b : Bool) : Quiet s (s.signalBit t b) := by
  unfold State.signalBit
  dsimp only
  cases (s.tributary t).line.signal with
  | present =>
    dsimp only
    generalize (if b then 0 else (s.tributary t).line.zeroRun + 1) = run
    split
    · exact declareLoss_quiet s t
    · exact .onLine s t _ id
  | lost =>
    dsimp only
    split_ifs
    · exact .onLine s t _ id
    · exact clearLoss_quiet s t
    · exact .onLine s t _ id

theorem aisBit_quiet (s : State) (t : Fin 16) (b : Bool) : Quiet s (s.aisBit t b) := by
  unfold State.aisBit
  extract_lets u zeros now judged
  split_ifs
  · exact .onLine s t _ id
  · exact .onLine s t _ id
  · exact (Quiet.onLine s t _ (by exact id)).trans (.raise _ _ _)

theorem searchBit_quiet (s : State) (t : Fin 16) (b : Bool) : Quiet s (s.searchBit t b) := by
  unfold State.searchBit
  extract_lets u n hunt
  split <;> try split_ifs
  · exact .refl s
  all_goals first | exact Quiet.onLine s t _ (by exact id) | exact (Quiet.onLine s t _ (by exact id)).trans (.raise _ _ _)

end Sys2Proof.Machine

/-! PROOFS. The framing side of the lines, the line commands and the transmit frame start are quiet. -/

namespace Sys2Proof.Machine

variable {s u : State}

/-! ### The framing side and the line commands (R1 to R8) -/

theorem alarmBit_quiet (s : State) (t : Fin 16) (b : Bool) : Quiet s (s.alarmBit t b) := by
  unfold State.alarmBit
  extract_lets w indicated run
  split
  · exact .onLine s t _ id
  · split
    · exact (Quiet.onLine s t _ (by exact id)).trans (.raise _ _ _)
    · exact .onLine s t _ id

theorem wordCheck_quiet (s : State) (t : Fin 16) : Quiet s (s.wordCheck t) := by
  unfold State.wordCheck
  extract_lets w
  split
  · exact .onLine s t _ id
  · split
    · exact .onLine s t _ id
    · exact loseAlignment_quiet s t .hunt

theorem frameBit_quiet (s : State) (t : Fin 16) : Quiet s (s.frameBit t) := by
  unfold State.frameBit
  extract_lets w n gathered begun
  split
  · exact .onLine s t _ id
  · exact (Quiet.onLine s t _ (by exact id)).trans (receiveFrame_quiet _ t _ _)

theorem framingBit_quiet (s : State) (t : Fin 16) (b : Bool) : Quiet s (s.framingBit t b) := by
  unfold State.framingBit
  extract_lets k n odd framed
  split
  · exact .refl s
  · exact frameBit_quiet s t
  · exact searchBit_quiet s t b
  · exact .refl s
  · split
    · exact (frameBit_quiet s t).trans (alarmBit_quiet _ t b)
    · split
      · exact (frameBit_quiet s t).trans (wordCheck_quiet _ t)
      · exact frameBit_quiet s t

theorem loopBit_quiet (s : State) (t : Fin 16) : Quiet s (s.loopBit t) := by
  refine TributaryKept.quiet (loopBit_only s t) ?_
  unfold State.loopBit
  split
  · rw [onTransmit_eq, tributary_onTributary_self]
    exact { TributaryKept.refl _ with }
  · exact .refl _

theorem receiveBit_quiet (s : State) (t : Fin 16) (b : Bool) : Quiet s (s.receiveBit t b) := by
  have detected := (((loopBit_quiet s t).trans (.onLine _ t
    (fun u => { u with recent := (u.recent <<< 1) ||| BitVec.ofNat 8 b.toNat }) (by exact id))).trans
    (signalBit_quiet _ t b)).trans (aisBit_quiet _ t b)
  simp only [State.receiveBit]
  split
  · exact detected.trans (framingBit_quiet _ t b)
  · exact detected

theorem receiveBits_quiet (s : State) (t : Fin 16) (bits : List Bool) : Quiet s (s.receiveBits t bits) :=
  .forEach bits _ (fun b u => receiveBit_quiet u t b) s

theorem execGeneratedFrameEvent_quiet {t : Fin 16} (h : execGeneratedFrameEvent t s = .next u) : Quiet s u := by
  simp only [execGeneratedFrameEvent, Host.Outcome.next.injEq] at h
  subst h
  split
  · exact receiveFrame_quiet s t _ true
  · exact .refl s

/-! ### The clocking block at a transmit frame start (R151, R152) -/

/-- A tributary to whose clocking block a frame start has applied the table, with the given H (R151). -/
def Tributary.tabled (k : Tributary) (h : Int) (v : Bool) : Tributary :=
  { k with clocking := { k.clocking with
      inForce := k.entry.clockMode, timing := k.entry.timing, pendingWrite := none, holdover := h, valid := v } }

/-- H is refreshed when the applied write asks for it and the timing circuit has a history mean (R151). -/
theorem applyClockTable_cases (s : State) (t : Fin 16) :
    (s.applyClockTable t).tributary t
      = (s.tributary t).tabled (s.tributary t).clocking.holdover (s.tributary t).clocking.valid
    ∨ ∃ h, (s.applyClockTable t).tributary t = (s.tributary t).tabled h true
      ∧ meanTowardZero (s.circuit (s.tributary t).entry.timing).recovery.history = some h := by
  unfold State.applyClockTable
  extract_lets pending applied
  have start : applied.tributary t
      = (s.tributary t).tabled (s.tributary t).clocking.holdover (s.tributary t).clocking.valid := by
    simp [applied, Tributary.tabled]
  split
  · unfold State.refreshHoldover
    split
    · exact .inl start
    · next c timing =>
      split
      · exact .inl start
      · next h mean =>
        obtain ⟨_, rfl⟩ : _ ∧ (s.tributary t).entry.timing = c := by
          simpa [State.timingCircuit, applied] using timing
        refine .inr ⟨h, ?_, by simpa [Recovery.mean, applied] using mean⟩
        rw [State.setHoldover, onClocking_eq, tributary_onTributary_self, start]
        rfl
  · exact .inl start

/-- A transmit unit whose source, or its rate, changes at the bit edge a frame start falls on (R149). -/
def Transmit.retimed (x : Transmit) (rate : Nat) : Transmit :=
  { x with bitTime := x.bitTime * rate / x.tickRate, tickRate := rate }

theorem tributary_retime (s : State) (t : Fin 16) (before : Nat) :
    (s.retime t before).tributary t = if s.sourceRate t = before then s.tributary t
      else { s.tributary t with transmit := (s.tributary t).transmit.retimed (s.sourceRate t) } := by
  simp only [State.retime]
  split <;> simp [Transmit.retimed]

theorem retime_only (s : State) (t : Fin 16) (before : Nat) : OnlyTributary s (s.retime t before) t := by
  simp only [State.retime]
  split
  · exact .refl s t
  · exact (OnlyTributary.refl s t).thenTransmit _

/-- What a transmit frame start does before it assembles the frame. -/
def State.clocked (s : State) (t : Fin 16) : State :=
  let applied := (s.onTransmit t Transmit.begin).applyClockTable t
  (applied.setActual t (applied.judgedMode t)).retime t (s.sourceRate t)

theorem frameStart_eq (s : State) (t : Fin 16) :
    s.frameStart t = (s.clocked t).assembleFrame t (s.rtAtFrameStart t) := rfl

theorem clocked_only (s : State) (t : Fin 16) : OnlyTributary s (s.clocked t) t :=
  ((((OnlyTributary.refl s t).thenTransmit Transmit.begin).trans (applyClockTable_only _ t)).trans
    (setActual_only _ t _)).trans (retime_only _ t _)

theorem fineRate_sub (x : Int) (h : inFreqRange x) : inFreqRange ((fineRate x : Int) - 2 ^ 27) := by
  unfold fineRate
  unfold inFreqRange at *
  omega

theorem sourceRate_range (law : recoveryRangeLaw s) (t : Fin 16) : inFreqRange ((s.sourceRate t : Int) - 2 ^ 27) := by
  simp only [State.sourceRate]
  split <;> apply fineRate_sub
  · unfold inFreqRange; decide
  · unfold inFreqRange; decide
  · exact (law.1 _).2.2.1
  · exact (law.2 t).1

theorem applyClockTable_range (law : recoveryRangeLaw s) (t : Fin 16) :
    inFreqRange ((s.applyClockTable t).tributary t).clocking.holdover
    ∧ ((s.applyClockTable t).tributary t).transmit = (s.tributary t).transmit := by
  rcases applyClockTable_cases s t with h | ⟨m, h, mean⟩ <;> rw [h]
  · exact ⟨(law.2 t).1, rfl⟩
  · exact ⟨Recovery.mean_inRange (law.1 _) mean, rfl⟩

theorem timingCircuit_eq_some {t : Fin 16} {c : Fin 64} (h : s.timingCircuit t = some c) :
    (s.tributary t).clocking.timing = c ∧ (s.circuit c).entry.tributary = some t := by
  unfold State.timingCircuit at h
  split at h
  · next names =>
    cases h
    exact ⟨rfl, by simpa [Circuit.names] using names⟩
  · cases h

theorem adaptiveReady_elim {t : Fin 16} (h : s.adaptiveReady t = true) :
    (s.circuit (s.tributary t).clocking.timing).entry.tributary = some t
    ∧ (s.circuit (s.tributary t).clocking.timing).control.state = .playing
    ∧ (s.circuit (s.tributary t).clocking.timing).recovery.locked = true := by
  unfold State.adaptiveReady at h
  split at h
  · cases h
  · next c timing =>
    obtain ⟨rfl, names⟩ := timingCircuit_eq_some timing
    simp only [Bool.and_eq_true, beq_iff_eq] at h
    exact ⟨names, h⟩

theorem adaptiveKept_elim {t : Fin 16} (h : s.adaptiveKept t = true) :
    (s.circuit (s.tributary t).clocking.timing).entry.tributary = some t
    ∧ (s.circuit (s.tributary t).clocking.timing).control.state = .playing := by
  unfold State.adaptiveKept at h
  split at h
  · cases h
  · next c timing =>
    obtain ⟨rfl, names⟩ := timingCircuit_eq_some timing
    exact ⟨names, by simpa using h⟩

/-- ADAPTIVE is judged only with ADAPTIVE in force, of a timing circuit that is LOCKED or of a mode already ADAPTIVE (R152). -/
theorem judgedMode_adaptive {t : Fin 16} (h : s.judgedMode t = .adaptive) :
    (s.tributary t).clocking.inForce = .adaptive
    ∧ (s.adaptiveReady t = true ∨ (s.tributary t).clocking.actual = .adaptive ∧ s.adaptiveKept t = true) := by
  unfold State.judgedMode at h
  dsimp only at h
  split at h
  · cases h
  · split at h <;> cases h
  · split at h <;> cases h
  · next force =>
    refine ⟨force, ?_⟩
    split at h
    · next ready => exact .inl ready
    · split at h
      · cases h
      · cases h
      · cases h
      · next actual =>
        split at h
        · next keeps => exact .inr ⟨actual, keeps⟩
        · cases h

theorem judgedMode_loop {t : Fin 16} (h : s.judgedMode t = .loop) :
    (s.tributary t).clocking.inForce = .loop ∧ (s.tributary t).line.signal = .present := by
  unfold State.judgedMode at h
  dsimp only at h
  split at h
  · cases h
  · split at h <;> cases h
  · next force =>
    split at h
    · next present => exact ⟨force, present⟩
    · cases h
  · split at h
    · cases h
    · split at h
      · cases h
      · cases h
      · cases h
      · split at h <;> cases h

theorem changeMode_tickRate (k : Tributary) (m : ClockMode) : (k.changeMode m).transmit.tickRate = k.transmit.tickRate := by
  rcases changeMode_transmit k m with e | ⟨_, _, _, e⟩ <;> rw [e]

theorem setActual_tickRate (s : State) (t : Fin 16) (m : ClockMode) :
    ((s.setActual t m).tributary t).transmit.tickRate = (s.tributary t).transmit.tickRate := by
  rw [tributary_setActual_self]
  split
  · rfl
  · exact changeMode_tickRate _ m

theorem setActual_flags_keep (s : State) (t : Fin 16) (m : ClockMode) (i : Fin 5) (d : Detail)
    (h : (s.tributary t).flags.get i = some d) : ((s.setActual t m).tributary t).flags.get i = some d := by
  rw [tributary_setActual_self]
  split
  · exact h
  · exact raisedRow_keeps _ _ _ _ _ h

/-- The tributary that a frame start leaves before the frame is assembled (R11, R151, R152): the table is applied and the mode
judged; H, the rate and the flags are those the rules give. -/
structure Clocked (s : State) (t : Fin 16) (applied u : State) : Prop where
  force  : (u.tributary t).clocking.inForce = (s.tributary t).entry.clockMode
  timing : (u.tributary t).clocking.timing = (s.tributary t).entry.timing
  actual : (u.tributary t).clocking.actual = applied.judgedMode t
  line   : (u.tributary t).line = (s.tributary t).line
  flags  : ∀ i d, (s.tributary t).flags.get i = some d → (u.tributary t).flags.get i = some d
  range  : recoveryRangeLaw s → inFreqRange (u.tributary t).clocking.holdover
             ∧ inFreqRange ((u.tributary t).transmit.tickRate - 2 ^ 27)

/-- The state in which a frame start judges the mode: the parity alternated, the table applied (R11, R151). -/
def State.applied (s : State) (t : Fin 16) : State := (s.onTransmit t Transmit.begin).applyClockTable t

theorem applied_tributary (s : State) (t : Fin 16) : ∃ h v, (s.applied t).tributary t
    = ({ s.tributary t with transmit := (s.tributary t).transmit.begin } : Tributary).tabled h v := by
  rcases applyClockTable_cases (s.onTransmit t Transmit.begin) t with h | ⟨m, h, _⟩
  · rw [onTransmit_eq, tributary_onTributary_self] at h
    exact ⟨_, _, h⟩
  · rw [onTransmit_eq, tributary_onTributary_self] at h
    exact ⟨_, _, h⟩

theorem applied_only (s : State) (t : Fin 16) : OnlyTributary s (s.applied t) t :=
  ((OnlyTributary.refl s t).thenTransmit Transmit.begin).trans (applyClockTable_only _ t)

theorem applied_circuit (s : State) (t : Fin 16) (c : Fin 64) : (s.applied t).circuit c = s.circuit c :=
  State.circuit_congr (applied_only s t).circuits c

theorem onTransmit_quiet (s : State) (t : Fin 16) (f : Transmit → Transmit) (rate : ∀ x, (f x).tickRate = x.tickRate) :
    Quiet s (s.onTransmit t f) := by
  refine TributaryKept.quiet (t := t) ((OnlyTributary.refl s t).thenTransmit f) ?_
  rw [onTransmit_eq, tributary_onTributary_self]
  exact { TributaryKept.refl _ with range := fun r => ⟨r.1, by rw [rate]; exact r.2⟩ }

theorem clocked_clocked (s : State) (t : Fin 16) : Clocked s t (s.applied t) (s.clocked t) := by
  obtain ⟨h, v, e⟩ := applied_tributary s t
  have actual := actual_setActual (s.applied t) t ((s.applied t).judgedMode t)
  have retimed := tributary_retime ((s.applied t).setActual t ((s.applied t).judgedMode t)) t (s.sourceRate t)
  have clocking : ((s.clocked t).tributary t).clocking
      = { ((s.applied t).tributary t).clocking with actual := (s.applied t).judgedMode t } := by
    rw [← actual.1]
    refine (congrArg Tributary.clocking retimed).trans ?_
    split <;> rfl
  refine ⟨by rw [clocking, e]; rfl, by rw [clocking, e]; rfl, by rw [clocking], ?_, fun i d set => ?_, fun law => ?_⟩
  · have line : ((s.clocked t).tributary t).line = ((s.applied t).tributary t).line := by
      rw [← actual.2]
      refine (congrArg Tributary.line retimed).trans ?_
      split <;> rfl
    rw [line, e]
    rfl
  · have flags : ((s.clocked t).tributary t).flags
        = (((s.applied t).setActual t ((s.applied t).judgedMode t)).tributary t).flags := by
      refine (congrArg Tributary.flags retimed).trans ?_
      split <;> rfl
    rw [flags]
    exact setActual_flags_keep _ t _ i d (by rw [e]; exact set)
  · have begun := (onTransmit_quiet s t Transmit.begin (fun _ => rfl)).range law
    have applied := applyClockTable_range begun t
    have judged : recoveryRangeLaw ((s.applied t).setActual t ((s.applied t).judgedMode t)) := by
      refine ⟨fun c => ?_, fun v => ?_⟩
      · rw [circuit_setActual, applied_circuit]; exact law.1 c
      · by_cases same : v = t
        · subst same
          rw [actual.1, setActual_tickRate, State.applied, applied.2]
          exact ⟨applied.1, (begun.2 v).2⟩
        · rw [(setActual_only _ t _).others v same, (applied_only s t).others v same]
          exact law.2 v
    rw [clocking]
    refine ⟨applied.1, ?_⟩
    have rate : ((s.clocked t).tributary t).transmit.tickRate
        = if ((s.applied t).setActual t ((s.applied t).judgedMode t)).sourceRate t = s.sourceRate t then
          (((s.applied t).setActual t ((s.applied t).judgedMode t)).tributary t).transmit.tickRate
          else ((s.applied t).setActual t ((s.applied t).judgedMode t)).sourceRate t := by
      refine (congrArg (fun k => k.transmit.tickRate) retimed).trans ?_
      split <;> rfl
    rw [rate]
    split
    · exact (judged.2 t).2
    · exact sourceRate_range judged t

theorem clocked_quiet (s : State) (t : Fin 16) : Quiet s (s.clocked t) := by
  have only := clocked_only s t
  have clocked := clocked_clocked s t
  obtain ⟨h, v, e⟩ := applied_tributary s t
  have timing : ((s.applied t).tributary t).clocking.timing = (s.tributary t).entry.timing := by rw [e]; rfl
  have was : ((s.applied t).tributary t).clocking.actual = (s.tributary t).clocking.actual := by rw [e]; rfl
  have force : ((s.applied t).tributary t).clocking.inForce = (s.tributary t).entry.clockMode := by rw [e]; rfl
  have ready (r : (s.applied t).adaptiveReady t = true) := adaptiveReady_elim r
  have keeps (r : (s.applied t).adaptiveKept t = true) := adaptiveKept_elim r
  simp only [timing, applied_circuit] at ready keeps
  refine .ofTributary only (.ofTributary only clocked.flags clocked.range (fun law => ⟨fun a => ?_, fun a => ?_⟩)
    (fun _ law a => ?_))
  · rw [clocked.actual] at a
    obtain ⟨adaptive, judged⟩ := judgedMode_adaptive a
    rw [clocked.force, clocked.timing]
    refine ⟨force ▸ adaptive, ?_⟩
    rcases judged with r | ⟨_, r⟩
    · exact ⟨(ready r).1, (ready r).2.1⟩
    · exact keeps r
  · rw [clocked.actual] at a
    obtain ⟨loop, present⟩ := judgedMode_loop a
    rw [clocked.force, clocked.line]
    exact ⟨force ▸ loop, by rw [e] at present; exact present⟩
  · rw [clocked.actual] at a
    obtain ⟨adaptive, judged⟩ := judgedMode_adaptive a
    rw [clocked.timing]
    refine ⟨?_, fun _ => rfl⟩
    rcases judged with r | ⟨actual, r⟩
    · exact law.1 _ (ready r).2.2
    · obtain ⟨history, same⟩ := law.2 t (was ▸ actual)
      rw [same (force ▸ adaptive)]
      exact history

/-! ### The frame assembled (R13, R14) -/

theorem placeCircuit_quiet (t : Fin 16) (c : Fin 64) (rt : Ticks) (x : State × List Byte) :
    Quiet x.1 (State.placeCircuit t c rt x).1 := by
  unfold State.placeCircuit
  dsimp only
  split
  · split
    · exact .refl _
    · exact .refl _
    · exact .refl _
    · next playing => exact (playFrame_runs x.1 c _ rt).quiet_of_engaged (by rw [playing]; decide)
    · next starved => exact (playFrame_runs x.1 c _ rt).quiet_of_engaged (by rw [starved]; decide)
  · exact .refl _

theorem placeCircuits_quiet (t : Fin 16) (rt : Fin 64 → Ticks) (l : List (Fin 64)) (x : State × List Byte) :
    Quiet x.1 (l.foldl (fun x c => State.placeCircuit t c (rt c) x) x).1 := by
  induction l generalizing x with
  | nil => exact .refl _
  | cons c l ih => exact (placeCircuit_quiet t c (rt c) x).trans (ih _)

theorem assembleFrame_quiet (s : State) (t : Fin 16) (rt : Fin 64 → Ticks) : Quiet s (s.assembleFrame t rt) := by
  have placed := placeCircuits_quiet t rt allCircuits (s, (s.tributary t).blankFrame)
  simp only [State.assembleFrame]
  generalize allCircuits.foldl (fun x c => State.placeCircuit t c (rt c) x) (s, (s.tributary t).blankFrame) = x at placed ⊢
  exact placed.trans (onTransmit_quiet x.1 t _ (fun _ => rfl))

theorem execTransmitFrameStart_quiet {t : Fin 16} (h : execTransmitFrameStart t s = .next u) : Quiet s u := by
  simp only [execTransmitFrameStart, Host.Outcome.next.injEq] at h
  subst h
  split
  · rw [frameStart_eq]
    exact (clocked_quiet s t).trans (assembleFrame_quiet _ t _)
  · exact .refl s

end Sys2Proof.Machine

/-! PROOFS. What keeps every law of Safety.lean, as one relation of two states that composes: quiet operations keep them, and so does
an operation that touches counters, flags, events, queues and port entries alone. -/

namespace Sys2Proof.Machine

/-- An operation keeps every law of the device, each from the laws it rests on. -/
structure Lawful (s u : State) : Prop where
  queues      : queuesBounded s → queuesBounded u
  counters    : countersLaw s → countersLaw u
  memory      : memoryLaw s → memoryLaw u
  reservation : reservationLaw s → reservationLaw u
  range       : recoveryRangeLaw s → recoveryRangeLaw u
  lock        : lockLaw s → lockLaw u
  clock       : clockLaw s → clockLaw u
  history     : clockLaw s → historyLaw s → historyLaw u
  disabled    : disabledLaw s → disabledLaw u
  paths       : pathLaw s → pathLaw u
  tables      : tablesLaw s → tablesLaw u
  conflicts   : conflictLaw s → conflictLaw u
  unframed    : unframedLaw s → unframedLaw u
  buffers     : bufferLaw s → bufferLaw u

theorem Lawful.refl (s : State) : Lawful s s := ⟨id, id, id, id, id, id, id, fun _ => id, id, id, id, id, id, id⟩

theorem Lawful.trans {s u w : State} (h : Lawful s u) (l : Lawful u w) : Lawful s w where
  queues b := l.queues (h.queues b)
  counters b := l.counters (h.counters b)
  memory b := l.memory (h.memory b)
  reservation b := l.reservation (h.reservation b)
  range b := l.range (h.range b)
  lock b := l.lock (h.lock b)
  clock b := l.clock (h.clock b)
  history b b' := l.history (h.clock b) (h.history b b')
  disabled b := l.disabled (h.disabled b)
  paths b := l.paths (h.paths b)
  tables b := l.tables (h.tables b)
  conflicts b := l.conflicts (h.conflicts b)
  unframed b := l.unframed (h.unframed b)
  buffers b := l.buffers (h.buffers b)

/-! ### The laws that speak of entries and reservations -/

section Entries

variable {s u : State}

theorem framingOf_congr (tributary : ∀ t, (u.tributary t).entry.framing = (s.tributary t).entry.framing) (e : CircuitEntry) :
    u.framingOf e = s.framingOf e := by
  unfold State.framingOf
  split
  · rfl
  · exact tributary _

theorem totalReserved_congr (engaged : ∀ c, (u.circuit c).engaged = (s.circuit c).engaged)
    (reserved : ∀ c, (s.circuit c).engaged = true → (u.circuit c).control.reserved = (s.circuit c).control.reserved) :
    u.totalReserved = s.totalReserved := by
  refine congrArg List.sum (List.map_congr_left (fun c _ => ?_))
  rw [engaged]
  split
  · next e => exact reserved c e
  · rfl

theorem reservationLaw_congr (engaged : ∀ c, (u.circuit c).engaged = (s.circuit c).engaged)
    (reserved : ∀ c, (u.circuit c).control.reserved = (s.circuit c).control.reserved)
    (entry : ∀ c, (u.circuit c).entry = (s.circuit c).entry)
    (framing : ∀ t, (u.tributary t).entry.framing = (s.tributary t).entry.framing) (law : reservationLaw s) :
    reservationLaw u := by
  intro c e
  rw [entry, reserved, framingOf_congr framing]
  exact law c (engaged c ▸ e)

theorem conflictLaw_congr (entry : ∀ c, (u.circuit c).entry = (s.circuit c).entry)
    (framing : ∀ t, (u.tributary t).entry.framing = (s.tributary t).entry.framing) (law : conflictLaw s) : conflictLaw u := by
  intro c d h
  simp only [entry, framing]
  exact law c d h

theorem unframedLaw_congr (engaged : ∀ c, (u.circuit c).engaged = true → (s.circuit c).engaged = true)
    (entry : ∀ c, (u.circuit c).entry = (s.circuit c).entry)
    (framing : ∀ t, (u.tributary t).entry.framing = (s.tributary t).entry.framing) (law : unframedLaw s) : unframedLaw u := by
  intro c t e named
  rw [entry] at named
  rw [framing]
  refine ⟨(law c t (engaged c e) named).1, fun unframed d other e' => ?_⟩
  rw [entry]
  exact (law c t (engaged c e) named).2 unframed d other (engaged d e')

theorem tablesLaw_congr (entry : ∀ c, (u.circuit c).entry = (s.circuit c).entry)
    (port : ∀ p, (u.port p).entry = (s.port p).entry) (law : tablesLaw s) : tablesLaw u :=
  ⟨fun c => by rw [entry]; exact law.1 c, fun p => by rw [port]; exact law.2 p⟩

theorem depth_pos {e : CircuitEntry} (h : e.inRange) : 0 < e.depth := by
  obtain ⟨_, _, depth, _⟩ := h
  omega

end Entries

theorem Calm.engaged_eq {s u : State} (h : Calm s u) (c : Fin 64) : (u.circuit c).engaged = (s.circuit c).engaged := by
  rw [Bool.eq_iff_iff, engaged_iff, engaged_iff, not_iff_not]
  exact h.engaged c

theorem Calm.lawful {s u : State} (h : Calm s u) (paths : pathLaw s → pathLaw u) : Lawful s u where
  queues := h.queues
  counters := h.bounded
  memory b := by rw [memoryLaw, totalReserved_congr h.engaged_eq (fun c _ => h.reserved c)]; exact b
  reservation := reservationLaw_congr h.engaged_eq h.reserved h.circuitEntry (fun t => by rw [h.tributaryEntry])
  range := h.range
  lock := h.lock
  clock := h.clock
  history := h.history
  disabled := h.disabled
  paths := paths
  tables := tablesLaw_congr h.circuitEntry h.portEntry
  conflicts := conflictLaw_congr h.circuitEntry (fun t => by rw [h.tributaryEntry])
  unframed := unframedLaw_congr (fun c => by rw [h.engaged_eq]; exact id) h.circuitEntry (fun t => by rw [h.tributaryEntry])
  buffers b := ⟨tablesLaw_congr h.circuitEntry h.portEntry b.1, h.disabled b.2.1,
    h.buffers (fun c => depth_pos (b.1.1 c)) b.2.2⟩

theorem Quiet.lawful {s u : State} (h : Quiet s u) : Lawful s u := h.toCalm.lawful h.paths

/-! ### Counters, flags, events, queues and port entries alone -/

/-- Two states are alike when they differ in counters, flags, events, queues, port entries and the model's own fields alone, within
the bounds of those. -/
structure Alike (s u : State) : Prop where
  circuits    : ∀ c, u.circuit c = { s.circuit c with counters := (u.circuit c).counters, flags := (u.circuit c).flags }
  tributaries : ∀ t, u.tributary t = { s.tributary t with flags := (u.tributary t).flags }
  link        : ∀ p, (u.port p).link = (s.port p).link
  frameType   : (∀ p, 0x0600 ≤ (s.port p).entry.frameType.toNat) → ∀ p, 0x0600 ≤ (u.port p).entry.frameType.toNat
  queues      : queuesBounded s → queuesBounded u
  counters    : countersLaw s → countersLaw u

theorem Alike.lawful {s u : State} (h : Alike s u) : Lawful s u := by
  have entry (c : Fin 64) : (u.circuit c).entry = (s.circuit c).entry := by rw [h.circuits c]
  have control (c : Fin 64) : (u.circuit c).control = (s.circuit c).control := by rw [h.circuits c]
  have recovery (c : Fin 64) : (u.circuit c).recovery = (s.circuit c).recovery := by rw [h.circuits c]
  have engaged (c : Fin 64) : (u.circuit c).engaged = (s.circuit c).engaged := by rw [Circuit.engaged, control]; rfl
  have tributaryEntry (t : Fin 16) : (u.tributary t).entry = (s.tributary t).entry := by rw [h.tributaries t]
  have clocking (t : Fin 16) : (u.tributary t).clocking = (s.tributary t).clocking := by rw [h.tributaries t]
  have line (t : Fin 16) : (u.tributary t).line = (s.tributary t).line := by rw [h.tributaries t]
  have transmit (t : Fin 16) : (u.tributary t).transmit = (s.tributary t).transmit := by rw [h.tributaries t]
  have tables (b : tablesLaw s) : tablesLaw u := ⟨fun c => by rw [entry]; exact b.1 c, h.frameType b.2⟩
  have disabled (b : disabledLaw s) : disabledLaw u := by
    intro c
    have old := b c
    rw [h.circuits c]
    split at old
    · next e =>
      rw [if_pos e]
      rw [old]
      rfl
    · next e => rwa [if_neg e]
  exact
    { queues := h.queues
      counters := h.counters
      memory := fun b => by rw [memoryLaw, totalReserved_congr engaged (fun c _ => by rw [control])]; exact b
      reservation := reservationLaw_congr engaged (fun c => by rw [control]) entry (fun t => by rw [tributaryEntry])
      range := fun b => ⟨fun c => by rw [recovery]; exact b.1 c, fun t => by rw [clocking, transmit]; exact b.2 t⟩
      lock := fun b c => by rw [recovery, control]; exact b c
      clock := fun b t => by simp only [clocking, line, entry, control]; exact b t
      history := fun _ b => ⟨fun c => by rw [recovery]; exact b.1 c,
        fun t => by simp only [clocking, recovery, tributaryEntry]; exact b.2 t⟩
      disabled := disabled
      paths := fun b c p => by
        rw [control, h.link, h.circuits c]
        exact b c p
      tables := tables
      conflicts := conflictLaw_congr entry (fun t => by rw [tributaryEntry])
      unframed := unframedLaw_congr (fun c => by rw [engaged]; exact id) entry (fun t => by rw [tributaryEntry])
      buffers := fun b => ⟨tables b.1, disabled b.2.1, fun c => by
        have old := b.2.2 c
        rw [h.circuits c]
        exact old⟩ }

/-- Changes outside the blocks that keep the circuits, tributaries and ports. -/
theorem Alike.ofRun {s u : State} (circuits : u.circuits = s.circuits) (tributaries : u.tributaries = s.tributaries)
    (ports : u.ports = s.ports) (events : s.events.length ≤ 64 → u.events.length ≤ 64) : Alike s u where
  circuits c := by rw [State.circuit_congr circuits c]
  tributaries t := by rw [State.tributary_congr tributaries t]
  link p := by rw [State.port_congr ports p]
  frameType b p := by rw [State.port_congr ports p]; exact b p
  queues b := ⟨events b.1, fun p => by rw [State.port_congr ports p]; exact b.2 p⟩
  counters b := ⟨fun c i => by rw [State.circuit_congr circuits c]; exact b.1 c i,
    fun p i => by rw [State.port_congr ports p]; exact b.2 p i⟩

theorem Alike.answered (s : State) (r : Result) : Alike s (s.answered r) := .ofRun rfl rfl rfl id

end Sys2Proof.Machine

/-! PROOFS. Decoded writes: what a list of field items read gives, and what storing its fields leaves of each field of an entry. -/

namespace Sys2Proof.Machine

/-! ### Lists of fields -/

section Fields

variable {α ε β : Type} {read : FieldItem → Option α} {items : List FieldItem} {fields : List α}

theorem mapM_mem : ∀ {items : List FieldItem} {fields : List α}, items.mapM read = some fields →
    ∀ f ∈ fields, ∃ i, read i = some f
  | [], fields, e => by cases e; exact nofun
  | i :: items, fields, e => by
    simp only [List.mapM_cons, Option.bind_eq_bind, Option.bind_eq_some_iff, Option.pure_def, Option.some.injEq] at e
    obtain ⟨f, hf, rest, hr, rfl⟩ := e
    intro g hg
    rcases List.mem_cons.mp hg with rfl | hg
    · exact ⟨i, hf⟩
    · exact mapM_mem hr g hg

theorem mapM_codes {code : α → Byte} (h : ∀ i f, read i = some f → i.code = code f) :
    ∀ {items : List FieldItem} {fields : List α}, items.mapM read = some fields →
      fields.map code = items.map FieldItem.code
  | [], fields, e => by cases e; rfl
  | i :: items, fields, e => by
    simp only [List.mapM_cons, Option.bind_eq_bind, Option.bind_eq_some_iff, Option.pure_def, Option.some.injEq] at e
    obtain ⟨f, hf, rest, hr, rfl⟩ := e
    rw [List.map_cons, List.map_cons, mapM_codes h hr, h i f hf]

/-- Each field is what an item reads as (R31). -/
theorem readFields_mem (e : readFields read items = some fields) : ∀ f ∈ fields, ∃ i, read i = some f := by
  unfold readFields at e
  split at e
  · exact mapM_mem e
  · cases e

/-- Each code is given at most once (R31). -/
theorem readFields_codes {code : α → Byte} (h : ∀ i f, read i = some f → i.code = code f)
    (e : readFields read items = some fields) : (fields.map code).Nodup := by
  unfold readFields at e
  split at e
  · next once => exact mapM_codes h e ▸ once
  · cases e

/-- A field of an entry after a list of fields has been stored is the one given, or as held. -/
theorem foldl_get {store : ε → α → ε} {get : ε → β} {given : α → Option β}
    (h : ∀ e f, get (store e f) = (given f).getD (get e)) (fields : List α) (e : ε) :
    get (fields.foldl store e) = (fields.reverse.findSome? given).getD (get e) := by
  induction fields generalizing e with
  | nil => rfl
  | cons f fs ih =>
    rw [List.foldl_cons, ih, h, List.reverse_cons, List.findSome?_append]
    cases fs.reverse.findSome? given <;> simp

/-- What no stored field changes is as held. -/
theorem foldl_keeps {store : ε → α → ε} {get : ε → β} {fields : List α} (h : ∀ f ∈ fields, ∀ e, get (store e f) = get e) (e : ε) :
    get (fields.foldl store e) = get e := by
  induction fields generalizing e with
  | nil => rfl
  | cons f fs ih => rw [List.foldl_cons, ih (fun g hg => h g (.tail f hg)), h f List.mem_cons_self]

/-- Of fields with different codes at most one gives a value, so the value found is the one given. -/
theorem findSome?_of_mem {given : α → Option β} {code : α → Byte} (once : (fields.map code).Nodup)
    (same : ∀ f g, (given f).isSome → (given g).isSome → code f = code g) {f : α} (hf : f ∈ fields) {v : β}
    (hv : given f = some v) : fields.findSome? given = some v := by
  induction fields with
  | nil => cases hf
  | cons g fs ih =>
    rw [List.map_cons, List.nodup_cons] at once
    rcases List.mem_cons.mp hf with rfl | hf
    · rw [List.findSome?_cons, hv]
    · cases hg : given g with
      | none => rw [List.findSome?_cons, hg]; exact ih once.2 hf
      | some x =>
        exact absurd (List.mem_map.mpr ⟨f, hf, same f g (by rw [hv]; rfl) (by rw [hg]; rfl)⟩) once.1

/-- A list of fields with different codes stores of one field what it gives of it, and keeps it where it gives none. -/
theorem foldl_given {store : ε → α → ε} {get : ε → β} {given : α → Option β} {code : α → Byte}
    (h : ∀ e f, get (store e f) = (given f).getD (get e)) (once : (fields.map code).Nodup)
    (same : ∀ f g, (given f).isSome → (given g).isSome → code f = code g) (e : ε) :
    (∀ f ∈ fields, ∀ v, given f = some v → get (fields.foldl store e) = v)
    ∧ ((∀ f ∈ fields, given f = none) → get (fields.foldl store e) = get e) := by
  rw [foldl_get h]
  refine ⟨fun f hf v hv => ?_, fun none => ?_⟩
  · have reversed : (fields.reverse.map code).Nodup := by rw [List.map_reverse]; exact List.nodup_reverse.mpr once
    rw [findSome?_of_mem reversed same (List.mem_reverse.mpr hf) hv]
    rfl
  · rw [List.findSome?_eq_none_iff.mpr (fun f hf => none f (List.mem_reverse.mp hf))]
    rfl

end Fields

/-! ### The fields of a tributary write -/

/-- The code of a tributary field (R190). -/
def TributaryField.code : TributaryField → Byte
  | .framing _ => 1
  | .clockMode _ => 2
  | .timing _ => 3
  | .idle _ => 4
  | .enables _ => 5

theorem byte_eq_of_toNat {b : Byte} {n : Nat} (h : b.toNat = n) : b = BitVec.ofNat 8 n := by
  rw [← h, BitVec.ofNat_toNat, BitVec.setWidth_eq]

theorem readTributaryField_code (i : FieldItem) (f : TributaryField) (h : readTributaryField i = some f) : i.code = f.code := by
  unfold readTributaryField at h
  dsimp only at h
  split at h
  case h_1 code =>
    obtain ⟨n, _, h⟩ := Option.bind_eq_some_iff.mp h
    split at h <;> cases h <;> exact byte_eq_of_toNat code
  case h_2 code =>
    obtain ⟨n, _, h⟩ := Option.bind_eq_some_iff.mp h
    split at h <;> cases h <;> exact byte_eq_of_toNat code
  case h_3 code =>
    obtain ⟨n, _, h⟩ := Option.bind_eq_some_iff.mp h
    split at h
    · cases h; exact byte_eq_of_toNat code
    · cases h
  case h_4 code =>
    obtain ⟨n, _, rfl⟩ := Option.map_eq_some_iff.mp h
    exact byte_eq_of_toNat code
  case h_5 code =>
    obtain ⟨n, _, rfl⟩ := Option.map_eq_some_iff.mp h
    exact byte_eq_of_toNat code
  case h_6 => cases h

namespace TributaryField

/-- The framing a field gives, if it is the framing. -/
def framing? : TributaryField → Option Framing
  | .framing v => some v
  | _ => none

/-- The clock mode a field gives, if it is the clock mode. -/
def clockMode? : TributaryField → Option ClockMode
  | .clockMode v => some v
  | _ => none

/-- The timing circuit a field gives, if it is the timing circuit. -/
def timing? : TributaryField → Option (Fin 64)
  | .timing v => some v
  | _ => none

/-- The idle octet a field gives, if it is the idle octet. -/
def idle? : TributaryField → Option Byte
  | .idle v => some v
  | _ => none

/-- The event enables a field gives, if it is the event enables. -/
def enables? : TributaryField → Option (BitVec 5)
  | .enables v => some v
  | _ => none

theorem framing?_eq (f : TributaryField) (v : Framing) : f.framing? = some v ↔ f = .framing v := by
  cases f <;> simp [framing?]

theorem clockMode?_eq (f : TributaryField) (v : ClockMode) : f.clockMode? = some v ↔ f = .clockMode v := by
  cases f <;> simp [clockMode?]

theorem timing?_eq (f : TributaryField) (v : Fin 64) : f.timing? = some v ↔ f = .timing v := by
  cases f <;> simp [timing?]

theorem idle?_eq (f : TributaryField) (v : Byte) : f.idle? = some v ↔ f = .idle v := by
  cases f <;> simp [idle?]

theorem enables?_eq (f : TributaryField) (v : BitVec 5) : f.enables? = some v ↔ f = .enables v := by
  cases f <;> simp [enables?]

end TributaryField

/-- A field none of a list gives. -/
theorem forall_none_of_forall_ne {α β : Type} {given : α → Option β} {give : β → α} (h : ∀ f v, given f = some v ↔ f = give v)
    {fields : List α} (absent : ∀ v, give v ∉ fields) : ∀ f ∈ fields, given f = none := by
  intro f hf
  cases e : given f with
  | none => rfl
  | some v => exact absurd ((h f v).mp e ▸ hf) (absent v)

theorem framingGiven_eq (fields : List TributaryField) : framingGiven fields = fields.findSome? TributaryField.framing? :=
  congrArg (fields.findSome? ·) (funext fun f => by cases f <;> rfl)

theorem modeGiven_eq (fields : List TributaryField) : modeGiven fields = fields.findSome? TributaryField.clockMode? :=
  congrArg (fields.findSome? ·) (funext fun f => by cases f <;> rfl)

/-- A tributary write stores the fields it gives and keeps the others, the timing circuit while the mode held is ADAPTIVE (R31,
R46). -/
theorem store_writtenBy {items : List FieldItem} {fields : List TributaryField} (held : TributaryEntry)
    (h : readFields readTributaryField items = some fields) :
    TributaryEntry.writtenBy (fields.foldl (TributaryField.store held.clockMode) held) held fields := by
  have once := readFields_codes readTributaryField_code h
  have framing := foldl_given (store := TributaryField.store held.clockMode) (get := TributaryEntry.framing)
    (given := TributaryField.framing?) (fun e f => by cases f <;> simp [TributaryField.store, TributaryField.framing?]; split <;> rfl)
    once (fun f g => by cases f <;> cases g <;> simp [TributaryField.framing?, TributaryField.code]) held
  have clockMode := foldl_given (store := TributaryField.store held.clockMode) (get := TributaryEntry.clockMode)
    (given := TributaryField.clockMode?)
    (fun e f => by cases f <;> simp [TributaryField.store, TributaryField.clockMode?]; split <;> rfl)
    once (fun f g => by cases f <;> cases g <;> simp [TributaryField.clockMode?, TributaryField.code]) held
  have idle := foldl_given (store := TributaryField.store held.clockMode) (get := TributaryEntry.idle)
    (given := TributaryField.idle?) (fun e f => by cases f <;> simp [TributaryField.store, TributaryField.idle?]; split <;> rfl)
    once (fun f g => by cases f <;> cases g <;> simp [TributaryField.idle?, TributaryField.code]) held
  have enables := foldl_given (store := TributaryField.store held.clockMode) (get := TributaryEntry.enables)
    (given := TributaryField.enables?)
    (fun e f => by cases f <;> simp [TributaryField.store, TributaryField.enables?]; split <;> rfl)
    once (fun f g => by cases f <;> cases g <;> simp [TributaryField.enables?, TributaryField.code]) held
  refine ⟨⟨fun v m => framing.1 _ m v rfl, fun a => framing.2 (forall_none_of_forall_ne TributaryField.framing?_eq a)⟩,
    ⟨fun v m => clockMode.1 _ m v rfl, fun a => clockMode.2 (forall_none_of_forall_ne TributaryField.clockMode?_eq a)⟩, ?_,
    ⟨fun v m => idle.1 _ m v rfl, fun a => idle.2 (forall_none_of_forall_ne TributaryField.idle?_eq a)⟩,
    ⟨fun v m => enables.1 _ m v rfl, fun a => enables.2 (forall_none_of_forall_ne TributaryField.enables?_eq a)⟩⟩
  split
  · next adaptive =>
    exact foldl_keeps (get := TributaryEntry.timing) (fun f _ e => by cases f <;> simp [TributaryField.store, adaptive]) held
  · next other =>
    have timing := foldl_given (store := TributaryField.store held.clockMode) (get := TributaryEntry.timing)
      (given := TributaryField.timing?) (fun e f => by cases f <;> simp [TributaryField.store, TributaryField.timing?, other])
      once (fun f g => by cases f <;> cases g <;> simp [TributaryField.timing?, TributaryField.code]) held
    exact ⟨fun v m => timing.1 _ m v rfl, fun a => timing.2 (forall_none_of_forall_ne TributaryField.timing?_eq a)⟩

/-- The framing a write gives is the one its fields hold. -/
theorem framingGiven_eq_some {items : List FieldItem} {fields : List TributaryField}
    (h : readFields readTributaryField items = some fields) (v : Framing) :
    framingGiven fields = some v ↔ TributaryField.framing v ∈ fields := by
  have once := readFields_codes readTributaryField_code h
  rw [framingGiven_eq]
  refine ⟨fun found => ?_, fun m => findSome?_of_mem once
    (fun f g => by cases f <;> cases g <;> simp [TributaryField.framing?, TributaryField.code]) m rfl⟩
  obtain ⟨f, m, given⟩ := List.exists_of_findSome?_eq_some found
  exact (TributaryField.framing?_eq f v).mp given ▸ m

theorem modeGiven_eq_some {items : List FieldItem} {fields : List TributaryField}
    (h : readFields readTributaryField items = some fields) (m : ClockMode) :
    modeGiven fields = some m ↔ TributaryField.clockMode m ∈ fields := by
  have once := readFields_codes readTributaryField_code h
  rw [modeGiven_eq]
  refine ⟨fun found => ?_, fun mem => findSome?_of_mem once
    (fun f g => by cases f <;> cases g <;> simp [TributaryField.clockMode?, TributaryField.code]) mem rfl⟩
  obtain ⟨f, mem, given⟩ := List.exists_of_findSome?_eq_some found
  exact (TributaryField.clockMode?_eq f m).mp given ▸ mem

end Sys2Proof.Machine

/-! PROOFS. Table writes: what each stores, and that each keeps every law of the device. -/

namespace Sys2Proof.Machine

variable {s : State}

/-! ### Port writes (R47, R48) -/

/-- A port write stores a frame type value of at least 0x0600 (R34). -/
theorem PortField.store_frameType {e : PortEntry} (h : 0x0600 ≤ e.frameType.toNat) (fields : List PortField) :
    0x0600 ≤ (fields.foldl PortField.store e).frameType.toNat := by
  refine List.foldlRecOn fields PortField.store (motive := fun e => 0x0600 ≤ e.frameType.toNat) h (fun e low f _ => ?_)
  cases f with
  | frameType v =>
    have range := clampNat_mem (show 0x0600 ≤ 0xFFFF by decide) v
    simp only [PortField.store, BitVec.toNat_ofNat]
    omega
  | address v => exact low
  | accept v => exact low
  | enables v => exact low

theorem writePort_lawful (kind index : Byte) (p : Port) (items : List FieldItem) :
    Lawful s (s.writePort kind index p items).1 := by
  simp only [State.writePort]
  split
  · exact .refl s
  · next fields _ =>
    refine Alike.lawful ⟨fun c => rfl, fun t => rfl, fun q => ?_, fun low q => ?_, fun b => ⟨b.1, fun q => ?_⟩,
      fun b => ⟨b.1, fun q => ?_⟩⟩ <;> (rw [port_onPort]; split)
    · next e => rw [e]; rfl
    · rfl
    · exact PortField.store_frameType (low p) fields
    · exact low q
    · next e => rw [e] at *; exact b.2 p
    · exact b.2 q
    · exact b.2 p
    · exact b.2 q

/-! ### Tributary writes (R44 to R46) -/

/-- A line unit without a remote alarm (R5, R7). -/
def LineUnit.unalarmed (u : LineUnit) : LineUnit := { u with remoteAlarm := .clear, lastIndicator := none, alarmRun := 0 }

theorem tributary_clearRemoteAlarm (s : State) (t : Fin 16) : (s.clearRemoteAlarm t).tributary t
    = ({ s.tributary t with line := (s.tributary t).line.unalarmed } : Tributary).raisedIf
      (decide ((s.tributary t).line.remoteAlarm = .seen)) .remoteAlarmChange (.seen .clear) := by
  simp only [State.clearRemoteAlarm, raiseTributary_eq]
  rw [tributary_raise_ite, onLine_eq, tributary_onTributary_self]
  rfl

/-- The alignment state a framing restarts in (R7). -/
def Framing.restartAlignment (v : Framing) : AlignmentState := if v = .framed then .searching else .notFramed

/-- A line unit whose framing-dependent state has been restarted, but for the remote alarm (R7). -/
def LineUnit.restarted (u : LineUnit) (v : Framing) : LineUnit :=
  { u with
    alignment := v.restartAlignment
    search := if v = .framed && u.signal == .present then .hunt else .idle
    searchBits := 0, erroredRun := 0, frameBits := 0, oddFrame := false, gathered := []
    source := if v = .unframed && u.signal == .present then .line else .generated }

/-- R7: the receive side restarted, with its flags. -/
theorem tributary_restartFraming (s : State) (t : Fin 16) : (s.restartFraming t).tributary t
    = (({ s.tributary t with line := ((s.tributary t).line.restarted (s.tributary t).entry.framing).unalarmed } :
        Tributary).raisedIf (decide ((s.tributary t).line.alignment = .aligned)) .alignChange
          (.alignment (s.tributary t).entry.framing.restartAlignment)).raisedIf
        (decide ((s.tributary t).line.remoteAlarm = .seen)) .remoteAlarmChange (.seen .clear) := by
  simp only [State.restartFraming, raiseTributary_eq]
  rw [tributary_clearRemoteAlarm, tributary_raise_ite, onLine_eq, tributary_onTributary_self]
  rfl

theorem restartFraming_kept (s : State) (t : Fin 16) :
    ((s.restartFraming t).tributary t).clocking = (s.tributary t).clocking
    ∧ ((s.restartFraming t).tributary t).transmit = (s.tributary t).transmit
    ∧ ((s.restartFraming t).tributary t).line.signal = (s.tributary t).line.signal := by
  rw [tributary_restartFraming]
  exact ⟨rfl, rfl, rfl⟩

/-- The clocking block of a tributary after a write: a mode waits for the frame start, with the refresh mark of HOLDOVER (R150). -/
def Clocking.asked (k : Clocking) : Option ClockMode → Clocking
  | none => k
  | some m => { k with pendingWrite := some (m == .holdover) }

/-- What a stored tributary write leaves (R7, R31, R150). -/
structure TributaryStored (s u : State) (t : Fin 16) (e : TributaryEntry) (mode : Option ClockMode) : Prop where
  run      : SameRun s u
  events   : EventsGrow s u
  circuits : u.circuits = s.circuits
  ports    : u.ports = s.ports
  others   : ∀ v, v ≠ t → u.tributary v = s.tributary v
  entry    : (u.tributary t).entry = e
  clocking : (u.tributary t).clocking = (s.tributary t).clocking.asked mode
  transmit : (u.tributary t).transmit = (s.tributary t).transmit
  signal   : (u.tributary t).line.signal = (s.tributary t).line.signal

/-- The entry stored and the mode pending, before a framing restarts the receive side. -/
def State.entryStored (s : State) (t : Fin 16) (e : TributaryEntry) (mode : Option ClockMode) : State :=
  s.onTributary t (fun k => { k with entry := e, clocking := k.clocking.asked mode })

theorem entryStored_stored (s : State) (t : Fin 16) (e : TributaryEntry) (mode : Option ClockMode) :
    TributaryStored s (s.entryStored t e mode) t e mode where
  run := ⟨rfl, rfl, rfl, rfl⟩
  events := .refl s
  circuits := rfl
  ports := rfl
  others v h := tributary_onTributary_of_ne _ _ h
  entry := by simp [State.entryStored]
  clocking := by simp [State.entryStored]
  transmit := by simp [State.entryStored]
  signal := by simp [State.entryStored]

theorem onTributary_onTributary (s : State) (t : Fin 16) (f g : Tributary → Tributary) :
    (s.onTributary t f).onTributary t g = s.onTributary t (fun k => g (f k)) := by
  rw [State.onTributary, tributary_onTributary_self]
  simp [State.onTributary]

/-- The receive side restarted when a write has given a framing (R7). -/
def State.restartedFor (s : State) (t : Fin 16) : Option Framing → State
  | none => s
  | some _ => s.restartFraming t

theorem storeTributary_eq (s : State) (t : Fin 16) (e : TributaryEntry) (fields : List TributaryField) :
    s.storeTributary t e fields = (s.entryStored t e (modeGiven fields)).restartedFor t (framingGiven fields) := by
  unfold State.storeTributary
  cases modeGiven fields with
  | none => cases framingGiven fields <;> rfl
  | some m =>
    have stored : (s.onTributary t (fun k => { k with entry := e })).onClocking t
        (fun k => { k with pendingWrite := some (m == .holdover) }) = s.entryStored t e (some m) := by
      rw [onClocking_eq, onTributary_onTributary]
      rfl
    rw [← stored]
    cases framingGiven fields <;> rfl

theorem storeTributary_stored (s : State) (t : Fin 16) (e : TributaryEntry) (fields : List TributaryField) :
    TributaryStored s (s.storeTributary t e fields) t e (modeGiven fields) := by
  have stored := entryStored_stored s t e (modeGiven fields)
  rw [storeTributary_eq]
  cases framingGiven fields with
  | none => exact stored
  | some v =>
    have only := restartFraming_only (s.entryStored t e (modeGiven fields)) t
    obtain ⟨clocking, transmit, signal⟩ := restartFraming_kept (s.entryStored t e (modeGiven fields)) t
    exact
      { run := stored.run.trans only.run
        events := stored.events.trans only.events
        circuits := only.circuits
        ports := only.ports
        others := fun v h => (only.others v h).trans (stored.others v h)
        entry := only.entry.trans stored.entry
        clocking := clocking.trans stored.clocking
        transmit := transmit.trans stored.transmit
        signal := signal.trans stored.signal }

end Sys2Proof.Machine

/-! PROOFS. Tributary and circuit writes keep every law of the device. -/

namespace Sys2Proof.Machine

variable {s : State}

/-! ### Searches over the circuits -/

theorem any_allCircuits (p : Fin 64 → Bool) : allCircuits.any p = true ↔ ∃ c, p c = true := by
  rw [List.any_eq_true]
  exact ⟨fun ⟨c, _, h⟩ => ⟨c, h⟩, fun ⟨c, h⟩ => ⟨c, mem_allCircuits c, h⟩⟩

theorem sharesSlot_iff (x y : BitVec 32) : sharesSlot x y = true ↔ x &&& y ≠ 0 := by simp [sharesSlot]

theorem sharesSlot_comm (x y : BitVec 32) : sharesSlot x y = sharesSlot y x := by simp [sharesSlot, BitVec.and_comm]

theorem names_iff (k : Circuit) (t : Fin 16) : k.names t = true ↔ k.entry.tributary = some t := by simp [Circuit.names]

theorem slotsClash_iff (s : State) (t : Fin 16) : s.slotsClash t = true ↔ ∃ c d, c ≠ d ∧ (s.circuit c).names t = true
    ∧ (s.circuit d).names t = true ∧ sharesSlot (s.circuit c).entry.slotSet (s.circuit d).entry.slotSet = true := by
  simp only [State.slotsClash, any_allCircuits, Bool.and_eq_true, bne_iff_ne, and_assoc]

/-! ### Tributary writes -/

/-- What an accepted tributary write has been judged for (R45, R46). -/
theorem judgeTributary_ok {t : Fin 16} {e : TributaryEntry} {fields : List TributaryField}
    (h : s.judgeTributary t e fields = .ok) :
    (∀ v, framingGiven fields = some v → ∀ c, (s.circuit c).engaged = true → (s.circuit c).entry.tributary ≠ some t)
    ∧ (framingGiven fields = some .framed → s.slotsClash t = false)
    ∧ ∀ m, modeGiven fields = some m → s.judgeMode t e m = .ok := by
  unfold State.judgeTributary at h
  split at h
  · cases h
  · next free =>
    split at h
    · cases h
    · next apart =>
      refine ⟨fun v given c engaged named => free ?_, fun framed => ?_, fun m given => by rwa [given] at h⟩
      · rw [Bool.and_eq_true, any_allCircuits]
        exact ⟨by rw [given]; rfl, c, by rw [Bool.and_eq_true, names_iff]; exact ⟨engaged, named⟩⟩
      · cases clash : s.slotsClash t with
        | false => rfl
        | true => exact absurd ⟨framed, clash⟩ apart

theorem judgeMode_adaptive_ok {t : Fin 16} {e : TributaryEntry} (h : s.judgeMode t e .adaptive = .ok) :
    (s.tributary t).clocking.actual ≠ .adaptive := by
  intro actual
  simp [State.judgeMode, actual] at h

/-- An accepted tributary write keeps every law (R45, R46). -/
theorem TributaryStored.lawful {u : State} {t : Fin 16} {e : TributaryEntry} {items : List FieldItem}
    {fields : List TributaryField} (stored : TributaryStored s u t e (modeGiven fields))
    (read : readFields readTributaryField items = some fields) (written : e.writtenBy (s.tributary t).entry fields)
    (ok : s.judgeTributary t e fields = .ok) : Lawful s u := by
  obtain ⟨free, apart, mode⟩ := judgeTributary_ok ok
  obtain ⟨⟨framing, framingHeld⟩, ⟨clockMode, clockModeHeld⟩, timing, _, _⟩ := written
  have circuit (c : Fin 64) : u.circuit c = s.circuit c := State.circuit_congr stored.circuits c
  have port (p : Port) : u.port p = s.port p := State.port_congr stored.ports p
  have heldFraming (none : framingGiven fields = none) : e.framing = (s.tributary t).entry.framing :=
    framingHeld (fun v m => by rw [(framingGiven_eq_some read v).mpr m] at none; cases none)
  have engagedFraming (c : Fin 64) (v : Fin 16) (engaged : (s.circuit c).engaged = true)
      (named : (s.circuit c).entry.tributary = some v) :
      (u.tributary v).entry.framing = (s.tributary v).entry.framing := by
    by_cases same : v = t
    · subst same
      rw [stored.entry]
      cases given : framingGiven fields with
      | none => exact heldFraming given
      | some x => exact absurd named (free x given c engaged)
    · rw [stored.others v same]
  have clocking (v : Fin 16) : ∃ x, (u.tributary v).clocking = { (s.tributary v).clocking with pendingWrite := x } := by
    by_cases same : v = t
    · subst same
      rw [stored.clocking]
      cases modeGiven fields <;> exact ⟨_, rfl⟩
    · exact ⟨_, by rw [stored.others v same]⟩
  have tributary (v : Fin 16) : (u.tributary v).line.signal = (s.tributary v).line.signal
      ∧ (u.tributary v).transmit = (s.tributary v).transmit := by
    by_cases same : v = t
    · subst same; exact ⟨stored.signal, stored.transmit⟩
    · rw [stored.others v same]; exact ⟨rfl, rfl⟩
  have tables (b : tablesLaw s) : tablesLaw u := tablesLaw_congr (fun c => by rw [circuit]) (fun p => by rw [port]) b
  have disabled (b : disabledLaw s) : disabledLaw u := fun c => by rw [circuit]; exact b c
  refine
    { queues := fun b => ⟨stored.events.le b.1, fun p => by rw [port]; exact b.2 p⟩
      counters := fun b => ⟨fun c i => by rw [circuit]; exact b.1 c i, fun p i => by rw [port]; exact b.2 p i⟩
      memory := fun b => by
        rw [memoryLaw, totalReserved_congr (s := s) (fun c => by rw [circuit]) (fun c _ => by rw [circuit])]; exact b
      reservation := fun b c engaged => ?reservation
      range := fun b => ⟨fun c => by rw [circuit]; exact b.1 c, fun v => ?range⟩
      lock := fun b c => by rw [circuit]; exact b c
      clock := fun b v => ?clock
      history := fun _ b => ⟨fun c => by rw [circuit]; exact b.1 c, fun v actual => ?history⟩
      disabled := disabled
      paths := fun b c p => by rw [circuit, port]; exact b c p
      tables := tables
      conflicts := fun b c d other => ?conflicts
      unframed := fun b c v engaged named => ?unframed
      buffers := fun b => ⟨tables b.1, disabled b.2.1, fun c => by rw [circuit]; exact b.2.2 c⟩ }
  case reservation =>
    rw [circuit] at engaged ⊢
    have same : u.framingOf (s.circuit c).entry = s.framingOf (s.circuit c).entry := by
      unfold State.framingOf
      split
      · rfl
      · next v named => exact engagedFraming c v engaged named
    rw [same]
    exact b c engaged
  case range =>
    obtain ⟨x, h⟩ := clocking v
    rw [h, (tributary v).2]
    exact b.2 v
  case clock =>
    obtain ⟨x, h⟩ := clocking v
    simp only [h, (tributary v).1, circuit]
    exact b v
  case history =>
    obtain ⟨x, h⟩ := clocking v
    rw [h] at actual ⊢
    rw [circuit]
    refine ⟨(b.2 v actual).1, ?_⟩
    by_cases same : v = t
    · subst same
      rw [stored.entry]
      intro adaptive
      have held : (s.tributary v).entry.clockMode = .adaptive := by
        cases given : modeGiven fields with
        | none =>
          rw [← clockModeHeld (fun m mem => by rw [(modeGiven_eq_some read m).mpr mem] at given; cases given)]
          exact adaptive
        | some m =>
          have asked := clockMode m ((modeGiven_eq_some read m).mp given)
          rw [asked] at adaptive
          subst adaptive
          exact absurd actual (judgeMode_adaptive_ok (mode _ given))
      rw [if_pos held] at timing
      rw [timing]
      exact (b.2 v actual).2 held
    · rw [stored.others v same]
      exact (b.2 v actual).2
  case conflicts =>
    rw [circuit, circuit]
    refine ⟨(b c d other).1, fun v c₁ d₁ framed => ?_⟩
    by_cases same : v = t
    · subst same
      rw [stored.entry] at framed
      cases given : framingGiven fields with
      | none =>
        rw [heldFraming given] at framed
        exact (b c d other).2 v c₁ d₁ framed
      | some x =>
        rw [framing x ((framingGiven_eq_some read x).mp given)] at framed
        subst framed
        have clash := apart given
        cases shares : sharesSlot (s.circuit c).entry.slotSet (s.circuit d).entry.slotSet with
        | false => rfl
        | true =>
          rw [(slotsClash_iff s v).mpr ⟨c, d, other, (names_iff _ _).mpr c₁, (names_iff _ _).mpr d₁, shares⟩] at clash
          cases clash
    · rw [stored.others v same] at framed
      exact (b c d other).2 v c₁ d₁ framed
  case unframed =>
    rw [circuit] at engaged named
    simp only [circuit, engagedFraming c v engaged named]
    exact b c v engaged named

theorem writeTributary_lawful (kind index : Byte) (t : Fin 16) (items : List FieldItem) :
    Lawful s (s.writeTributary kind index t items).1 := by
  simp only [State.writeTributary]
  split
  · exact .refl s
  · next fields read =>
    split
    · next ok => exact (storeTributary_stored s t _ fields).lawful read (store_writtenBy _ read) ok
    · exact .refl s

/-! ### Circuit writes (R30 to R43) -/

theorem afterLoopWrite_eq (k : Circuit) (old : CircuitEntry) : k.afterLoopWrite old = { k with
    recovery := if k.engaged = true ∧ (k.entry.window ≠ old.window ∨ k.entry.shiftA ≠ old.shiftA ∨ k.entry.shiftB ≠ old.shiftB)
      then { k.recovery with locked := false, towardLock := 0, towardLoss := 0 } else k.recovery } := by
  by_cases h : k.engaged = true ∧ (k.entry.window ≠ old.window ∨ k.entry.shiftA ≠ old.shiftA ∨ k.entry.shiftB ≠ old.shiftB)
  · rw [if_pos h]
    exact if_pos (by simpa [or_assoc] using h)
  · rw [if_neg h]
    exact if_neg (by simpa [or_assoc] using h)

theorem afterPolicyWrite_eq (k : Circuit) (old : CircuitEntry) : k.afterPolicyWrite old = { k with
    merge := if k.engaged = true ∧ k.entry.policy ≠ old.policy then
      { k.merge with holdOff := none, active := freshActive k.entry.policy k.merge.up } else k.merge } := by
  by_cases h : k.engaged = true ∧ k.entry.policy ≠ old.policy
  · rw [if_pos h]
    exact if_pos (by simpa using h)
  · rw [if_neg h]
    exact if_neg (by simpa using h)

theorem afterLateWrite_eq (k : Circuit) (old : CircuitEntry) : k.afterLateWrite old = { k with
    control := { k.control with lateRun :=
      if old.latePolicy = .realign ∧ k.entry.latePolicy ≠ .realign then 0 else k.control.lateRun } } := by
  unfold Circuit.afterLateWrite
  split <;> rfl

/-- A circuit after an accepted write: the entry, the late run, the lock and the active path with the hold-off (R31, R42, R43). -/
theorem written_eq (k : Circuit) (e : CircuitEntry) : k.written e = { k with
    entry := e
    control := { k.control with lateRun :=
      if k.entry.latePolicy = .realign ∧ e.latePolicy ≠ .realign then 0 else k.control.lateRun }
    recovery := if k.engaged = true ∧ (e.window ≠ k.entry.window ∨ e.shiftA ≠ k.entry.shiftA ∨ e.shiftB ≠ k.entry.shiftB) then
      { k.recovery with locked := false, towardLock := 0, towardLoss := 0 } else k.recovery
    merge := if k.engaged = true ∧ e.policy ≠ k.entry.policy then
      { k.merge with holdOff := none, active := freshActive e.policy k.merge.up } else k.merge } := by
  rw [Circuit.written, afterLoopWrite_eq, afterPolicyWrite_eq, afterLateWrite_eq]
  rfl

end Sys2Proof.Machine

/-! PROOFS. The effective entry of a circuit write lies in its ranges (R34 to R37), and the write keeps every law of the device. -/

namespace Sys2Proof.Machine

variable {s : State}

/-! ### The effective entry (R34 to R37) -/

/-- The ranges of a circuit entry before its dependent fields are settled: each field in its own fixed range (R30, R34 to R36). -/
structure CircuitEntry.Clamped (e : CircuitEntry) : Prop where
  frames            : 1 ≤ e.frames ∧ e.frames ≤ 16
  inLabel           : e.inLabel ≤ 4095
  depth             : e.depth = 8 ∨ e.depth = 16 ∨ e.depth = 32 ∨ e.depth = 64 ∨ e.depth = 128
  window            : e.window = 16 ∨ e.window = 32 ∨ e.window = 64 ∨ e.window = 128
  shiftA            : e.shiftA ≤ 8
  shiftB            : e.shiftB ≤ 12
  lockThreshold     : 1 ≤ e.lockThreshold ∧ e.lockThreshold ≤ 255
  unlockThreshold   : e.unlockThreshold ≤ 1023
  reentryTolerance  : e.reentryTolerance ≤ 1023
  starvationTimeout : 2 ≤ e.starvationTimeout ∧ e.starvationTimeout ≤ 255
  pathTimeout       : 2 ≤ e.pathTimeout ∧ e.pathTimeout ≤ 255
  engageTimeout     : 1 ≤ e.engageTimeout ∧ e.engageTimeout ≤ 255
  restoreHoldOff    : e.restoreHoldOff ≤ 255
  rttLimit          : e.rttLimit ≤ 65535
  skewLimit         : e.skewLimit ≤ 65535
  slotSet           : e.slotSet.getLsbD 0 = false
  paths             : ∀ p r, e.paths.get p = some r → r.inRange

theorem CircuitEntry.inRange.clamped {e : CircuitEntry} (h : e.inRange) : e.Clamped := by
  obtain ⟨frames, inLabel, depth, _, window, shiftA, ⟨_, shiftB⟩, lockThreshold, ⟨_, unlockThreshold⟩, reentryTolerance,
    starvationTimeout, pathTimeout, engageTimeout, restoreHoldOff, rttLimit, skewLimit, slotSet, paths⟩ := h
  exact ⟨frames, inLabel, depth, window, shiftA, shiftB, lockThreshold, unlockThreshold, reentryTolerance,
    starvationTimeout, pathTimeout, engageTimeout, restoreHoldOff, rttLimit, skewLimit, slotSet, paths⟩

/-- Settling the dependent fields brings an entry of clamped fields into range (R34, R37). -/
theorem CircuitEntry.Clamped.settled {e : CircuitEntry} (h : e.Clamped) : e.settled.inRange := by
  have room : e.frames ≤ (e.depth - 1) * e.frames :=
    Nat.le_mul_of_pos_left _ (by rcases h.depth with d | d | d | d | d <;> omega)
  have delay := clampNat_mem room e.playoutDelay
  have a := h.shiftA
  have b := h.shiftB
  have lock := h.lockThreshold
  have unlock := h.unlockThreshold
  exact ⟨h.frames, h.inLabel, h.depth, delay, h.window, h.shiftA,
    ⟨le_max_left _ _, by simp only [CircuitEntry.settled]; omega⟩, h.lockThreshold,
    ⟨le_max_left _ _, by simp only [CircuitEntry.settled]; omega⟩, h.reentryTolerance, h.starvationTimeout, h.pathTimeout,
    h.engageTimeout, h.restoreHoldOff, h.rttLimit, h.skewLimit, h.slotSet, h.paths⟩

theorem powerOfTwo_mem (v : Nat) :
    (powerOfTwo 8 v = 8 ∨ powerOfTwo 8 v = 16 ∨ powerOfTwo 8 v = 32 ∨ powerOfTwo 8 v = 64 ∨ powerOfTwo 8 v = 128)
    ∧ (powerOfTwo 16 v = 16 ∨ powerOfTwo 16 v = 32 ∨ powerOfTwo 16 v = 64 ∨ powerOfTwo 16 v = 128) := by
  unfold powerOfTwo
  constructor <;> split_ifs <;> simp_all

theorem clampNat_zero_le (high v : Nat) : clampNat 0 high v ≤ high := (clampNat_mem (Nat.zero_le _) v).2

theorem PathRecord.clamped_inRange (r : PathRecord) : r.clamped.inRange := by
  refine ⟨clampNat_mem (show 1 ≤ 4095 by decide) r.outLabel, fun x h => ?_⟩
  obtain ⟨y, _, rfl⟩ := Option.map_eq_some_iff.mp h
  exact ⟨clampNat_mem (show 1 ≤ 4094 by decide) y.networkTag, clampNat_zero_le 7 y.priority⟩

/-- Whether a field can be read from an item: a slot set never holds slot 0 (R33). -/
def CircuitField.readable : CircuitField → Prop
  | .slotSet v => v.getLsbD 0 = false
  | _ => True

/-- Storing a clamped field keeps the fields of an entry clamped. -/
theorem CircuitEntry.Clamped.ask {e : CircuitEntry} (h : e.Clamped) {f : CircuitField} (ok : f.readable) :
    (f.clamped.ask e).Clamped := by
  cases f with
  | tributary v => exact { h with }
  | slotSet v => exact { h with slotSet := ok }
  | frames v => exact { h with frames := clampNat_mem (by decide) v }
  | inLabel v => exact { h with inLabel := clampNat_zero_le _ v }
  | path p v =>
    refine { h with paths := fun q r hr => ?_ }
    simp only [CircuitField.clamped, CircuitField.ask, Pair.get_set] at hr
    split at hr
    · obtain ⟨x, _, rfl⟩ := Option.map_eq_some_iff.mp hr
      exact x.clamped_inRange
    · exact h.paths q r hr
  | depth v => exact { h with depth := (powerOfTwo_mem v).1 }
  | playoutDelay v => exact { h with }
  | window v => exact { h with window := (powerOfTwo_mem v).2 }
  | shiftA v => exact { h with shiftA := clampNat_zero_le _ v }
  | shiftB v => exact { h with shiftB := clampNat_zero_le _ v }
  | lockThreshold v => exact { h with lockThreshold := clampNat_mem (by decide) v }
  | unlockThreshold v => exact { h with unlockThreshold := clampNat_zero_le _ v }
  | reentryTolerance v => exact { h with reentryTolerance := clampNat_zero_le _ v }
  | starvationTimeout v => exact { h with starvationTimeout := clampNat_mem (by decide) v }
  | pathTimeout v => exact { h with pathTimeout := clampNat_mem (by decide) v }
  | engageTimeout v => exact { h with engageTimeout := clampNat_mem (by decide) v }
  | restoreHoldOff v => exact { h with restoreHoldOff := clampNat_zero_le _ v }
  | policy v => exact { h with }
  | latePolicy v => exact { h with }
  | substitution v => exact { h with }
  | rttLimit v => exact { h with rttLimit := clampNat_zero_le _ v }
  | skewLimit v => exact { h with skewLimit := clampNat_zero_le _ v }
  | enables v => exact { h with }

theorem readCircuitField_readable {i : FieldItem} {f : CircuitField} (h : readCircuitField i = some f) : f.readable := by
  unfold readCircuitField at h
  dsimp only at h
  split at h
  case h_1 =>
    obtain ⟨n, _, h⟩ := Option.bind_eq_some_iff.mp h
    split_ifs at h <;> cases h <;> trivial
  case h_2 =>
    obtain ⟨n, _, h⟩ := Option.bind_eq_some_iff.mp h
    split at h
    · cases h
    · next even =>
      cases h
      simp only [CircuitField.readable, BitVec.getLsbD_ofNat, Nat.testBit_zero, even, decide_false, Bool.and_false]
  case h_19 =>
    obtain ⟨n, _, h⟩ := Option.bind_eq_some_iff.mp h
    split at h <;> cases h <;> trivial
  case h_20 =>
    obtain ⟨n, _, h⟩ := Option.bind_eq_some_iff.mp h
    split at h <;> cases h <;> trivial
  case h_21 =>
    obtain ⟨n, _, h⟩ := Option.bind_eq_some_iff.mp h
    split at h <;> cases h <;> trivial
  case h_25 => cases h
  all_goals
    obtain ⟨n, _, rfl⟩ := Option.map_eq_some_iff.mp h
    trivial

theorem readFields_readable {items : List FieldItem} {fields : List CircuitField}
    (h : readFields readCircuitField items = some fields) : ∀ f ∈ fields, f.readable := by
  intro f hf
  obtain ⟨i, hi⟩ := readFields_mem h f hf
  exact readCircuitField_readable hi

/-- The effective entry of a write to an entry in range is in range (R34 to R37). -/
theorem effectiveEntry_inRange {e : CircuitEntry} (h : e.inRange) {items : List FieldItem} {fields : List CircuitField}
    (read : readFields readCircuitField items = some fields) : (effectiveEntry e fields).inRange :=
  (List.foldlRecOn fields (fun e f => f.clamped.ask e) (motive := CircuitEntry.Clamped) h.clamped
    (fun _ clamped f hf => clamped.ask (readFields_readable read f hf))).settled

/-! ### What fields that are not given leave -/

theorem effectiveEntry_keeps {β : Type} (get : CircuitEntry → β) {p : CircuitField → Bool} (settled : ∀ e, get e.settled = get e)
    (other : ∀ f : CircuitField, p f = false → ∀ e, get (f.clamped.ask e) = get e) {e : CircuitEntry}
    {fields : List CircuitField} (h : fields.any p = false) : get (effectiveEntry e fields) = get e :=
  (settled _).trans (foldl_keeps (store := fun e (f : CircuitField) => f.clamped.ask e)
    (fun f hf => other f (by simpa using List.any_eq_false.mp h f hf)) e)

theorem effectiveEntry_of_not_structural {e : CircuitEntry} {fields : List CircuitField}
    (h : fields.any CircuitField.structural = false) :
    (effectiveEntry e fields).tributary = e.tributary ∧ (effectiveEntry e fields).slotSet = e.slotSet
    ∧ (effectiveEntry e fields).frames = e.frames ∧ (effectiveEntry e fields).depth = e.depth :=
  ⟨effectiveEntry_keeps CircuitEntry.tributary (fun _ => rfl)
      (fun f hf e => by cases f <;> simp [CircuitField.structural] at hf <;> rfl) h,
    effectiveEntry_keeps CircuitEntry.slotSet (fun _ => rfl)
      (fun f hf e => by cases f <;> simp [CircuitField.structural] at hf <;> rfl) h,
    effectiveEntry_keeps CircuitEntry.frames (fun _ => rfl)
      (fun f hf e => by cases f <;> simp [CircuitField.structural] at hf <;> rfl) h,
    effectiveEntry_keeps CircuitEntry.depth (fun _ => rfl)
      (fun f hf e => by cases f <;> simp [CircuitField.structural] at hf <;> rfl) h⟩

theorem effectiveEntry_of_not_placesSlots {e : CircuitEntry} {fields : List CircuitField}
    (h : fields.any CircuitField.placesSlots = false) :
    (effectiveEntry e fields).tributary = e.tributary ∧ (effectiveEntry e fields).slotSet = e.slotSet :=
  ⟨effectiveEntry_keeps CircuitEntry.tributary (fun _ => rfl)
      (fun f hf e => by cases f <;> simp [CircuitField.placesSlots] at hf <;> rfl) h,
    effectiveEntry_keeps CircuitEntry.slotSet (fun _ => rfl)
      (fun f hf e => by cases f <;> simp [CircuitField.placesSlots] at hf <;> rfl) h⟩

theorem effectiveEntry_of_not_isLabel {e : CircuitEntry} {fields : List CircuitField}
    (h : fields.any CircuitField.isLabel = false) : (effectiveEntry e fields).inLabel = e.inLabel :=
  effectiveEntry_keeps CircuitEntry.inLabel (fun _ => rfl)
    (fun f hf e => by cases f <;> simp [CircuitField.isLabel] at hf <;> rfl) h

/-! ### An accepted circuit write -/

theorem slotConflict_iff (s : State) (c : Fin 64) (e : CircuitEntry) : s.slotConflict c e = true ↔ s.framingOf e = .framed
    ∧ ∃ d, d ≠ c ∧ (s.circuit d).entry.tributary = e.tributary ∧ sharesSlot (s.circuit d).entry.slotSet e.slotSet = true := by
  simp only [State.slotConflict, any_allCircuits, Bool.and_eq_true, beq_iff_eq, bne_iff_ne, and_assoc]

theorem labelConflict_iff (s : State) (c : Fin 64) (label : Nat) : s.labelConflict c label = true ↔ label ≠ 0
    ∧ ∃ d, d ≠ c ∧ (s.circuit d).entry.inLabel = label := by
  simp only [State.labelConflict, any_allCircuits, Bool.and_eq_true, beq_iff_eq, bne_iff_ne]

/-- What a circuit write leaves alone but for the entry, the late run, the lock and the active path (R42, R43). -/
theorem written_kept (k : Circuit) (e : CircuitEntry) : (k.written e).entry = e
    ∧ (k.written e).control.state = k.control.state ∧ (k.written e).control.reserved = k.control.reserved
    ∧ (k.written e).packetizer = k.packetizer ∧ (k.written e).merge.up = k.merge.up ∧ (k.written e).buffer = k.buffer
    ∧ (k.written e).counters = k.counters ∧ (k.written e).flags = k.flags := by
  rw [written_eq]
  refine ⟨rfl, rfl, rfl, rfl, ?_, rfl, rfl, rfl⟩
  dsimp only
  split <;> rfl

theorem written_recovery (k : Circuit) (e : CircuitEntry) : k.recovery.Keeps (k.written e).recovery := by
  rw [written_eq]
  dsimp only
  split
  · exact Recovery.keeps_unlock k.recovery
  · exact .of_eq rfl rfl rfl rfl rfl id

/-- A DISABLED circuit has no lock, path or late run that a write could touch. -/
theorem written_bare {k : Circuit} (disabled : k.control.state = .disabled) (bare : k = k.disabledForm) (e : CircuitEntry) :
    k.written e = (k.written e).disabledForm := by
  have idle : ¬k.engaged = true := by simp [Circuit.engaged, disabled]
  have control : k.control = {} := (bare_blocks bare).2.1
  rw [written_eq]
  simp only [idle, control, ite_self]
  rw [bare]
  rfl

end Sys2Proof.Machine

/-! PROOFS. A circuit write, ENGAGE and RELEASE, and the requests on counters, flags and events keep every law of the device. -/

namespace Sys2Proof.Machine

variable {s : State} {c : Fin 64}

/-! ### Circuit writes -/

/-- What an accepted circuit write has been judged for (R38 to R40). -/
structure WriteJudged (s : State) (c : Fin 64) (e : CircuitEntry) : Prop where
  range    : (s.circuit c).entry.inRange → e.inRange
  engaged  : (s.circuit c).engaged = true → e.tributary = (s.circuit c).entry.tributary
               ∧ e.slotSet = (s.circuit c).entry.slotSet ∧ e.frames = (s.circuit c).entry.frames
               ∧ e.depth = (s.circuit c).entry.depth
  slots    : (e.tributary = (s.circuit c).entry.tributary ∧ e.slotSet = (s.circuit c).entry.slotSet)
               ∨ s.slotConflict c e = false
  label    : e.inLabel = (s.circuit c).entry.inLabel ∨ s.labelConflict c e.inLabel = false

theorem WriteJudged.lawful {e : CircuitEntry} (h : WriteJudged s c e) :
    Lawful s (s.onCircuit c (fun k => k.written e)) := by
  obtain ⟨entry, state, reserved, packetizer, up, buffer, counters, flags⟩ := written_kept (s.circuit c) e
  have recovery := written_recovery (s.circuit c) e
  have engagedSame : ((s.circuit c).written e).engaged = (s.circuit c).engaged := by rw [Circuit.engaged, state]; rfl
  have each {P : Fin 64 → Circuit → Prop} (old : ∀ d, P d (s.circuit d)) (new : P c ((s.circuit c).written e)) (d : Fin 64) :
      P d ((s.onCircuit c (fun k => k.written e)).circuit d) := by
    by_cases same : d = c
    · subst same; rw [circuit_onCircuit_self]; exact new
    · rw [circuit_onCircuit_of_ne _ _ same]; exact old d
  have engagedEntry : ∀ d, ((s.onCircuit c (fun k => k.written e)).circuit d).engaged = (s.circuit d).engaged
      ∧ ((s.circuit d).engaged = true →
        ((s.onCircuit c (fun k => k.written e)).circuit d).entry.tributary = (s.circuit d).entry.tributary) :=
    each (P := fun d k => k.engaged = (s.circuit d).engaged
        ∧ ((s.circuit d).engaged = true → k.entry.tributary = (s.circuit d).entry.tributary))
      (fun d => ⟨rfl, fun _ => rfl⟩) ⟨engagedSame, fun g => by rw [entry]; exact (h.engaged g).1⟩
  have disabled (b : disabledLaw s) : disabledLaw (s.onCircuit c (fun k => k.written e)) :=
    each (P := fun _ k => if k.control.state = .disabled then k = k.disabledForm else k.packetizer.phase ≠ .idle) b (by
      have old := b c
      rw [state]
      split at old
      · next off => rw [if_pos off]; exact written_bare off old e
      · next on => rw [if_neg on, packetizer]; exact old)
  have tables (b : tablesLaw s) : tablesLaw (s.onCircuit c (fun k => k.written e)) :=
    ⟨each (P := fun _ k => k.entry.inRange) b.1 (by rw [entry]; exact h.range (b.1 c)), b.2⟩
  refine
    { queues := id
      counters := fun b => ⟨each (P := fun _ k => ∀ i, k.counters.get i ≤ 4294967295) b.1 (by rw [counters]; exact b.1 c), b.2⟩
      memory := fun b => by
        rw [memoryLaw, totalReserved_congr (s := s) (fun d => (engagedEntry d).1) (fun d _ =>
          each (P := fun d k => k.control.reserved = (s.circuit d).control.reserved) (fun _ => rfl) reserved d)]
        exact b
      reservation := fun b d => ?reservation
      range := fun b => ⟨each (P := fun _ k => k.recovery.inRange) b.1 (recovery.range (b.1 c)), b.2⟩
      lock := fun b => each (P := fun _ k => k.recovery.locked = true → k.control.state = .playing) b
        (fun l => by rw [state]; exact b c (recovery.locked l))
      clock := fun b t => ⟨fun adaptive => ?clock, (b t).2⟩
      history := fun _ b => ⟨each (P := fun _ k => k.recovery.locked = true → k.recovery.history ≠ []) b.1
          (fun l => by rw [recovery.history]; exact b.1 c (recovery.locked l)),
        fun t adaptive => ⟨each (P := fun d k => (s.circuit d).recovery.history ≠ [] → k.recovery.history ≠ []) (fun _ => id)
          (by rw [recovery.history]; exact id) _ (b.2 t adaptive).1, (b.2 t adaptive).2⟩⟩
      disabled := disabled
      paths := fun b => each (P := fun _ k => ∀ p, k.merge.up.get p = .up → k.control.state ≠ .disabled ∧ (s.port p).link = .up) b
        (by rw [up, state]; exact b c)
      tables := tables
      conflicts := fun b => ?conflicts
      unframed := fun b d t engaged named => ?unframed
      buffers := fun b => ⟨tables b.1, disabled b.2.1, each (P := fun _ k => k.bufferLaw) b.2.2 ?buffers⟩ }
  case reservation =>
    refine each (P := fun d k => k.engaged = true → k.control.reserved = reservationSize (s.framingOf k.entry) k.entry) b ?_ d
    intro engaged
    rw [engagedSame] at engaged
    obtain ⟨tributary, slotSet, frames, depth⟩ := h.engaged engaged
    have size := b c engaged
    simp only [reservationSize, octetsPerFrame, State.framingOf] at size ⊢
    rw [entry, reserved, tributary, slotSet, frames, depth]
    exact size
  case clock =>
    obtain ⟨inForce, named, playing⟩ := (b t).1 adaptive
    refine ⟨inForce, ?_, ?_⟩
    · exact ((engagedEntry _).2 ((engaged_iff _).mpr (fun off => absurd (playing.symm.trans off) (by decide)))).trans named
    · exact (each (P := fun d k => k.control.state = (s.circuit d).control.state) (fun _ => rfl) state _).trans playing
  case conflicts =>
    have against : ∀ d, d ≠ c → (e.inLabel ≠ 0 → e.inLabel ≠ (s.circuit d).entry.inLabel)
        ∧ ∀ t, e.tributary = some t → (s.circuit d).entry.tributary = some t → (s.tributary t).entry.framing = .framed →
          sharesSlot e.slotSet (s.circuit d).entry.slotSet = false := by
      intro d other
      refine ⟨fun given shared => ?_, fun t named named' framed => ?_⟩
      · rcases h.label with held | free
        · exact (b c d (Ne.symm other)).1 (held ▸ given) (held ▸ shared)
        · rw [(labelConflict_iff s c _).mpr ⟨given, d, other, shared.symm⟩] at free
          cases free
      · rcases h.slots with ⟨held, slots⟩ | free
        · rw [slots]
          exact (b c d (Ne.symm other)).2 t (held ▸ named) named' framed
        · cases shares : sharesSlot e.slotSet (s.circuit d).entry.slotSet with
          | false => rfl
          | true =>
            rw [(slotConflict_iff s c e).mpr ⟨by rw [State.framingOf, named]; exact framed, d, other,
              named'.trans named.symm, by rw [sharesSlot_comm]; exact shares⟩] at free
            cases free
    intro d f other
    by_cases same : d = c
    · subst same
      rw [circuit_onCircuit_self, circuit_onCircuit_of_ne _ _ (Ne.symm other), entry]
      exact against f (Ne.symm other)
    · rw [circuit_onCircuit_of_ne _ _ same]
      by_cases same' : f = c
      · subst same'
        rw [circuit_onCircuit_self, entry]
        refine ⟨fun given shared => (against d same).1 (shared ▸ given) shared.symm, fun t named named' framed => ?_⟩
        rw [sharesSlot_comm]
        exact (against d same).2 t named' named framed
      · rw [circuit_onCircuit_of_ne _ _ same']
        exact b d f other
  case unframed =>
    rw [(engagedEntry d).1] at engaged
    rw [(engagedEntry d).2 engaged] at named
    refine ⟨(b d t engaged named).1, fun unframed f other engaged' => ?_⟩
    rw [(engagedEntry f).1] at engaged'
    rw [(engagedEntry f).2 engaged']
    exact (b d t engaged named).2 unframed f other engaged'
  case buffers =>
    intro i x held
    rw [buffer] at held ⊢
    rw [entry]
    have old := b.2.1 c
    split at old
    · rw [old] at held
      simp [Circuit.disabledForm] at held
    · next on =>
      rw [(h.engaged ((engaged_iff _).mpr on)).2.2.2]
      exact b.2.2 c i x held

theorem writeCircuit_lawful (kind index : Byte) (items : List FieldItem) :
    Lawful s (s.writeCircuit kind index c items).1 := by
  simp only [State.writeCircuit]
  split
  · exact .refl s
  · next fields read =>
    split
    · exact .refl s
    · next active =>
      split
      · exact .refl s
      · next slots =>
        split
        · exact .refl s
        · next label =>
          refine WriteJudged.lawful ⟨fun h => effectiveEntry_inRange h read, fun engaged => ?_, ?_, ?_⟩
          · exact effectiveEntry_of_not_structural (by simpa [engaged] using active)
          · cases given : fields.any CircuitField.placesSlots with
            | false => exact .inl (effectiveEntry_of_not_placesSlots given)
            | true => exact .inr (by simpa [given] using slots)
          · cases given : fields.any CircuitField.isLabel with
            | false => exact .inl (effectiveEntry_of_not_isLabel given)
            | true => exact .inr (by simpa [given] using label)

theorem tableWrite_lawful (kind index : Byte) (items : List FieldItem) : Lawful s (s.tableWrite kind index items).1 := by
  unfold State.tableWrite
  split
  · split
    · exact .refl s
    · exact writeCircuit_lawful kind index items
  · split
    · exact .refl s
    · exact writeTributary_lawful kind index _ items
  · split
    · exact .refl s
    · exact writePort_lawful kind index _ items
  · exact .refl s

/-! ### ENGAGE and RELEASE (R54 to R56) -/

/-- What ENGAGE has been judged for (R54). -/
theorem judgeEngage_ok (h : s.judgeEngage c = .ok) :
    (s.circuit c).control.state = .disabled ∧ s.framingOf (s.circuit c).entry ≠ .off
    ∧ (s.framingOf (s.circuit c).entry = .unframed → ∀ d, d ≠ c → (s.circuit d).engaged = true →
        (s.circuit d).entry.tributary ≠ (s.circuit c).entry.tributary)
    ∧ s.totalReserved + reservationSize (s.framingOf (s.circuit c).entry) (s.circuit c).entry ≤ 2097152 := by
  unfold State.judgeEngage at h
  dsimp only at h
  split at h
  · cases h
  · next off =>
    split at h
    · cases h
    · next ready =>
      split at h
      · cases h
      · next alone =>
        split at h
        · cases h
        · next room =>
          rw [engaged_iff, not_not] at off
          refine ⟨off, fun e => ready (.inl e), fun unframed d other engaged named => alone ⟨unframed, ?_⟩,
            Nat.le_of_not_lt room⟩
          rw [any_allCircuits]
          exact ⟨d, by simp [other, engaged, named]⟩

/-- A circuit as ENGAGE starts it (R55). -/
def Circuit.started (k : Circuit) (size : Nat) (lt : Ticks) : Circuit :=
  { k.disabledForm with
    control := { state := .awaiting, reserved := size
                 engageTimer := some (expiryAfter lt (secondsToTicks k.entry.engageTimeout)) }
    packetizer := { phase := .armed } }

theorem circuit_engage (s : State) (c : Fin 64) : (s.engage c).circuit c
    = ((s.circuit c).started (reservationSize (s.framingOf (s.circuit c).entry) (s.circuit c).entry) s.lt).raised .stateChanged
      (.circuitState .awaiting) := by
  unfold State.engage
  rw [circuit_enter]
  simp [State.startEngageTimer, Circuit.started, Circuit.disabledForm]

theorem engage_tributaries (s : State) (c : Fin 64) : (s.engage c).tributaries = s.tributaries := by
  unfold State.engage
  rw [tributaries_enter]
  simp [State.startEngageTimer]

/-- A sum over the circuits in which one term changes. -/
theorem sum_allCircuits_update (f g : Fin 64 → Nat) (c : Fin 64) (other : ∀ d, d ≠ c → g d = f d) :
    (allCircuits.map g).sum + f c = (allCircuits.map f).sum + g c := by
  have sum (h : Fin 64 → Nat) : (allCircuits.map h).sum = ∑ d, h d := by
    rw [allCircuits, ← List.ofFn_eq_map, List.sum_ofFn]
  have rest : ∑ d ∈ Finset.univ.erase c, g d = ∑ d ∈ Finset.univ.erase c, f d :=
    Finset.sum_congr rfl (fun d hd => other d (Finset.ne_of_mem_erase hd))
  rw [sum, sum, ← Finset.add_sum_erase _ g (Finset.mem_univ c), ← Finset.add_sum_erase _ f (Finset.mem_univ c), rest]
  omega

theorem totalReserved_engage (off : (s.circuit c).control.state = .disabled) : (s.engage c).totalReserved
    = s.totalReserved + reservationSize (s.framingOf (s.circuit c).entry) (s.circuit c).entry := by
  have update := sum_allCircuits_update
    (fun d => if (s.circuit d).engaged then (s.circuit d).control.reserved else 0)
    (fun d => if ((s.engage c).circuit d).engaged then ((s.engage c).circuit d).control.reserved else 0) c
    (fun d other => by rw [(engage_only s c).others d other])
  have before : (s.circuit c).engaged = false := by simp [Circuit.engaged, off]
  have after : ((s.engage c).circuit c).engaged = true := by rw [circuit_engage]; rfl
  have size : ((s.engage c).circuit c).control.reserved
      = reservationSize (s.framingOf (s.circuit c).entry) (s.circuit c).entry := by rw [circuit_engage]; rfl
  simp only [before, after, size, if_true, Bool.false_eq_true, if_false, Nat.add_zero] at update
  exact update

theorem EventsGrow.queues {u : State} (events : EventsGrow s u) (ports : u.ports = s.ports) (b : queuesBounded s) :
    queuesBounded u := ⟨events.le b.1, fun p => by rw [State.port_congr ports p]; exact b.2 p⟩

theorem inRange_default : ({} : Recovery).inRange := by
  refine ⟨?_, ?_, ?_, nofun, by decide, nofun⟩ <;> exact ⟨by decide, by decide⟩

theorem bufferLaw_of_bare {k : Circuit} (h : k.buffer = {}) : k.bufferLaw := by
  intro i e held
  rw [h] at held
  simp at held

theorem engage_lawful (ok : s.judgeEngage c = .ok) : Lawful s (s.engage c) := by
  obtain ⟨off, framing, alone, room⟩ := judgeEngage_ok ok
  have only := engage_only s c
  have started := circuit_engage s c
  have tributary (t : Fin 16) : (s.engage c).tributary t = s.tributary t := State.tributary_congr (engage_tributaries s c) t
  have port (p : Port) : (s.engage c).port p = s.port p := State.port_congr only.ports p
  have entry (d : Fin 64) : ((s.engage c).circuit d).entry = (s.circuit d).entry := by
    by_cases same : d = c
    · subst same; exact only.entry
    · rw [only.others d same]
  have plays (d : Fin 64) (playing : (s.circuit d).control.state = .playing) : (s.engage c).circuit d = s.circuit d :=
    only.others d (fun same => by subst same; rw [off] at playing; cases playing)
  have disabled (b : disabledLaw s) : disabledLaw (s.engage c) :=
    only.forall_of_kept (P := fun k => if k.control.state = .disabled then k = k.disabledForm else k.packetizer.phase ≠ .idle)
      (fun _ => by rw [started]; exact Phase.noConfusion) b
  have tables : tablesLaw s → tablesLaw (s.engage c) := tablesLaw_congr entry (fun p => by rw [port])
  refine
    { queues := only.events.queues only.ports
      counters := fun b => ⟨only.forall_of_kept (P := fun k => ∀ i, k.counters.get i ≤ 4294967295)
        (fun h => by rw [started]; exact h) b.1, fun p i => by rw [port]; exact b.2 p i⟩
      memory := fun _ => by rw [memoryLaw, totalReserved_engage off]; exact room
      reservation := fun b d engaged => ?reservation
      range := fun b => ⟨only.forall_of_kept (P := fun k => k.recovery.inRange) (fun _ => by rw [started]; exact inRange_default) b.1,
        fun t => by rw [tributary]; exact b.2 t⟩
      lock := only.forall_of_kept (P := fun k => k.recovery.locked = true → k.control.state = .playing)
        (fun _ l => by rw [started] at l; cases l)
      clock := fun b t => ?clock
      history := fun b h => ⟨only.forall_of_kept (P := fun k => k.recovery.locked = true → k.recovery.history ≠ [])
        (fun _ l => by rw [started] at l; cases l) h.1, fun t adaptive => ?history⟩
      disabled := disabled
      paths := fun b d p up => ?paths
      tables := tables
      conflicts := conflictLaw_congr entry (fun t => by rw [tributary])
      unframed := fun b d t engaged named => ?unframed
      buffers := fun b => ⟨tables b.1, disabled b.2.1, only.forall_of_kept (P := Circuit.bufferLaw)
        (fun _ => bufferLaw_of_bare (by rw [started]; rfl)) b.2.2⟩ }
  case reservation =>
    rw [entry, framingOf_congr (s := s) (fun t => by rw [tributary])]
    by_cases same : d = c
    · subst same; rw [started]; rfl
    · rw [only.others d same] at engaged ⊢
      exact b d engaged
  case clock =>
    rw [tributary, entry]
    refine ⟨fun adaptive => ?_, (b t).2⟩
    obtain ⟨inForce, named, playing⟩ := (b t).1 adaptive
    exact ⟨inForce, named, by rw [plays _ playing]; exact playing⟩
  case history =>
    rw [tributary] at adaptive ⊢
    rw [plays _ ((b t).1 adaptive).2.2]
    exact h.2 t adaptive
  case paths =>
    rw [port]
    by_cases same : d = c
    · subst same
      rw [started] at up
      cases p <;> cases up
    · rw [only.others d same] at up ⊢
      exact b d p up
  case unframed =>
    have whole (f : Fin 64) (other : f ≠ c) : (s.engage c).circuit f = s.circuit f := only.others f other
    rw [entry] at named
    simp only [tributary, entry]
    have joined (f : Fin 64) (other : f ≠ c) (running : (s.circuit f).engaged = true) (t : Fin 16)
        (unframed : (s.tributary t).entry.framing = .unframed) (named : (s.circuit c).entry.tributary = some t) :
        (s.circuit f).entry.tributary ≠ some t := fun e =>
      alone (by rw [State.framingOf, named]; exact unframed) f other running (e.trans named.symm)
    by_cases same : d = c
    · subst same
      refine ⟨fun h => framing (by rw [State.framingOf, named]; exact h), fun unframed f other running => ?_⟩
      rw [whole f other] at running
      exact joined f other running t unframed named
    · rw [whole d same] at engaged
      refine ⟨(b d t engaged named).1, fun unframed f other running => ?_⟩
      by_cases same' : f = c
      · subst same'
        exact fun named' => joined d same engaged t unframed named' named
      · rw [whole f same'] at running
        exact (b d t engaged named).2 unframed f other running

end Sys2Proof.Machine

/-! PROOFS. RELEASE, the requests on counters, flags and events, RESTART and POWER_ON keep every law of the device. -/

namespace Sys2Proof.Machine

variable {s : State} {c : Fin 64}

/-! ### RELEASE (R56) -/

theorem removeCopies_quiet (s : State) (c : Fin 64) : Quiet s (s.removeCopies c) := by
  have strip (u : State) (p : Port) :
      Quiet u (u.onPort p (fun k => { k with circuitQueue := k.circuitQueue.filter (fun x => x.circuit != c) })) :=
    .onPort u p _ { PortKept.refl _ with copies := fun b => (List.length_filter_le _ _).trans b } rfl
  exact (strip s .A).trans (strip _ .B)

/-- A circuit after its release, with STATE_CHANGED when the release is flagged (R52, R56). -/
theorem circuit_releaseEngaged (s : State) (c : Fin 64) (flagged : Bool) : (s.releaseEngaged c flagged).circuit c
    = (s.circuit c).disabledForm.raisedIf flagged .stateChanged (.circuitState .disabled) := by
  simp only [State.releaseEngaged, raiseCircuit_eq]
  rw [circuit_leavesPlaying, circuit_raise_ite, circuit_onCircuit_self, State.circuit_congr (removeCopies_circuits s c)]

/-- The state of a release before the clocking change of R153. -/
def State.unloaded (s : State) (c : Fin 64) (flagged : Bool) : State :=
  if flagged then ((s.removeCopies c).onCircuit c Circuit.disabledForm).raiseCircuit c .stateChanged (.circuitState .disabled)
  else (s.removeCopies c).onCircuit c Circuit.disabledForm

theorem releaseEngaged_eq (s : State) (c : Fin 64) (flagged : Bool) : s.releaseEngaged c flagged
    = (s.unloaded c flagged).leavesPlaying c (s.circuit c).control.state (s.circuit c).recovery.mean := rfl

theorem unloaded_only (s : State) (c : Fin 64) (flagged : Bool) : OnlyCircuit (s.removeCopies c) (s.unloaded c flagged) c := by
  have bare : OnlyCircuit (s.removeCopies c) ((s.removeCopies c).onCircuit c Circuit.disabledForm) c := .onCircuit _ c _ rfl
  unfold State.unloaded
  split
  · exact bare.thenFlag _ _
  · exact bare

theorem releaseEngaged_only (s : State) (c : Fin 64) (flagged : Bool) :
    OnlyCircuit (s.removeCopies c) (s.releaseEngaged c flagged) c :=
  (unloaded_only s c flagged).trans (leavesPlaying_only _ c _ _)

/-- What a release does to each tributary (R153). -/
theorem tributary_releaseEngaged (s : State) (c : Fin 64) (flagged : Bool) (t : Fin 16) :
    ((s.circuit c).control.state = .playing ∧ s.times c t
      ∧ (s.releaseEngaged c flagged).tributary t = (s.tributary t).untimed (s.circuit c).recovery.mean)
    ∨ (¬((s.circuit c).control.state = .playing ∧ s.times c t)
      ∧ (s.releaseEngaged c flagged).tributary t = s.tributary t) := by
  classical
  have tributaries : (s.unloaded c flagged).tributaries = s.tributaries := by
    unfold State.unloaded
    split <;> simp
  have tributary := State.tributary_congr tributaries t
  have times : (s.unloaded c flagged).times c t ↔ s.times c t := by
    simp only [State.times, (unloaded_only s c flagged).entry, tributary, State.circuit_congr (removeCopies_circuits s c)]
  rw [releaseEngaged_eq, State.leavesPlaying]
  by_cases playing : (s.circuit c).control.state = .playing
  · rw [if_pos playing, tributary_timingLeavesPlaying, tributary]
    by_cases timed : s.times c t
    · rw [if_pos (times.mpr timed)]
      exact .inl ⟨playing, timed, rfl⟩
    · rw [if_neg (fun h => timed (times.mp h))]
      exact .inr ⟨fun h => timed h.2, rfl⟩
  · rw [if_neg playing]
    exact .inr ⟨fun h => playing h.1, tributary⟩

theorem totalReserved_release_le (s : State) (c : Fin 64) (flagged : Bool) :
    (s.releaseEngaged c flagged).totalReserved ≤ s.totalReserved := by
  have update := sum_allCircuits_update
    (fun d => if (s.circuit d).engaged then (s.circuit d).control.reserved else 0)
    (fun d => if ((s.releaseEngaged c flagged).circuit d).engaged then
      ((s.releaseEngaged c flagged).circuit d).control.reserved else 0) c
    (fun d other => by
      rw [(releaseEngaged_only s c flagged).others d other, State.circuit_congr (removeCopies_circuits s c)])
  have after : ((s.releaseEngaged c flagged).circuit c).engaged = false := by rw [circuit_releaseEngaged]; rfl
  simp only [after, Bool.false_eq_true, if_false] at update
  unfold State.totalReserved
  omega

theorem releaseEngaged_lawful (s : State) (c : Fin 64) (flagged : Bool) : Lawful s (s.releaseEngaged c flagged) := by
  have quiet := removeCopies_quiet s c
  have only := releaseEngaged_only s c flagged
  have bare := circuit_releaseEngaged s c flagged
  have removed (d : Fin 64) : (s.removeCopies c).circuit d = s.circuit d := State.circuit_congr (removeCopies_circuits s c) d
  have others (d : Fin 64) (other : d ≠ c) : (s.releaseEngaged c flagged).circuit d = s.circuit d :=
    (only.others d other).trans (removed d)
  have entry (d : Fin 64) : ((s.releaseEngaged c flagged).circuit d).entry = (s.circuit d).entry := by
    by_cases same : d = c
    · subst same; rw [only.entry, removed]
    · rw [others d same]
  have tributaryEntry (t : Fin 16) : ((s.releaseEngaged c flagged).tributary t).entry = (s.tributary t).entry :=
    (only.lines t).1.trans (quiet.tributaryEntry t)
  have port (p : Port) : ((s.releaseEngaged c flagged).port p) = (s.removeCopies c).port p := State.port_congr only.ports p
  have portEntry (p : Port) : ((s.releaseEngaged c flagged).port p).entry = (s.port p).entry := by
    rw [port, quiet.portEntry]
  have engaged (d : Fin 64) (h : ((s.releaseEngaged c flagged).circuit d).engaged = true) :
      d ≠ c ∧ (s.circuit d).engaged = true := by
    by_cases same : d = c
    · subst same; rw [bare] at h; cases h
    · exact ⟨same, by rw [← others d same]; exact h⟩
  have forall_of_bare {P : Circuit → Prop}
      (new : P (s.circuit c) → P ((s.circuit c).disabledForm.raisedIf flagged .stateChanged (.circuitState .disabled)))
      (old : ∀ d, P (s.circuit d)) (d : Fin 64) : P ((s.releaseEngaged c flagged).circuit d) := by
    by_cases same : d = c
    · subst same; rw [bare]; exact new (old d)
    · rw [others d same]; exact old d
  have disabled : disabledLaw s → disabledLaw (s.releaseEngaged c flagged) :=
    forall_of_bare (P := fun k => if k.control.state = .disabled then k = k.disabledForm else k.packetizer.phase ≠ .idle)
      (fun _ => (if_pos rfl).mpr rfl)
  have tables : tablesLaw s → tablesLaw (s.releaseEngaged c flagged) := tablesLaw_congr entry portEntry
  have adaptive (b : clockLaw s) (t : Fin 16) (h : ((s.releaseEngaged c flagged).tributary t).clocking.actual = .adaptive) :
      (s.releaseEngaged c flagged).tributary t = s.tributary t ∧ (s.tributary t).clocking.actual = .adaptive
        ∧ (s.tributary t).clocking.timing ≠ c := by
    rcases tributary_releaseEngaged s c flagged t with ⟨_, _, e⟩ | ⟨untimed, e⟩
    · rw [e] at h; exact absurd h (untimed_actual _ _).1
    · rw [e] at h
      refine ⟨e, h, fun timing => untimed ?_⟩
      obtain ⟨_, named, playing⟩ := (b t).1 h
      rw [timing] at named playing
      exact ⟨playing, named, timing, h⟩
  refine
    { queues := fun b => only.events.queues only.ports (quiet.queues b)
      counters := fun b => ⟨forall_of_bare (P := fun k => ∀ i, k.counters.get i ≤ 4294967295) (fun h => h) b.1,
        fun p i => by rw [port]; exact (quiet.bounded b).2 p i⟩
      memory := fun b => (totalReserved_release_le s c flagged).trans b
      reservation := fun b d on => ?reservation
      range := fun b => ⟨forall_of_bare (P := fun k => k.recovery.inRange) (fun _ => inRange_default) b.1, fun t => ?range⟩
      lock := forall_of_bare (P := fun k => k.recovery.locked = true → k.control.state = .playing) (fun _ => nofun)
      clock := fun b t => ⟨fun h => ?clock, fun h => ?loop⟩
      history := fun b h => ⟨forall_of_bare (P := fun k => k.recovery.locked = true → k.recovery.history ≠ [])
        (fun _ => nofun) h.1, fun t on => ?history⟩
      disabled := disabled
      paths := fun b d p up => ?paths
      tables := tables
      conflicts := conflictLaw_congr entry (fun t => by rw [tributaryEntry])
      unframed := unframedLaw_congr (fun d h => (engaged d h).2) entry (fun t => by rw [tributaryEntry])
      buffers := fun b => ⟨tables b.1, disabled b.2.1,
        forall_of_bare (P := Circuit.bufferLaw) (fun _ => bufferLaw_of_bare rfl) b.2.2⟩ }
  case reservation =>
    obtain ⟨other, was⟩ := engaged d on
    rw [framingOf_congr (s := s) (fun t => by rw [tributaryEntry]), others d other]
    exact b d was
  case range =>
    rw [(only.lines t).2.2]
    refine ⟨?_, (b.2 t).2⟩
    rcases tributary_releaseEngaged s c flagged t with ⟨_, _, e⟩ | ⟨_, e⟩ <;> rw [e]
    · cases mean : (s.circuit c).recovery.mean with
      | none => exact (b.2 t).1
      | some m => exact Recovery.mean_inRange (b.1 c) mean
    · exact (b.2 t).1
  case clock =>
    obtain ⟨e, on, other⟩ := adaptive b t h
    rw [e, others _ other]
    exact (b t).1 on
  case loop =>
    rcases tributary_releaseEngaged s c flagged t with ⟨_, _, e⟩ | ⟨_, e⟩ <;> rw [e] at h ⊢
    · exact absurd h (untimed_actual _ _).2
    · exact (b t).2 h
  case history =>
    obtain ⟨e, on, other⟩ := adaptive b t on
    rw [e, others _ other]
    exact h.2 t on
  case paths =>
    by_cases same : d = c
    · subst same
      rw [bare] at up
      cases p <;> cases up
    · rw [others d same] at up ⊢
      rw [port, removeCopies_port]
      exact b d p up

theorem release_lawful (s : State) (c : Fin 64) : Lawful s (s.release c) := by
  unfold State.release
  split
  · exact releaseEngaged_lawful s c true
  · exact .refl s

/-! ### The requests of a management frame -/

theorem Alike.ofCircuit (f : Circuit → Circuit)
    (same : ∀ k, f k = { k with counters := (f k).counters, flags := (f k).flags })
    (bounded : ∀ k i, k.counters.get i ≤ 4294967295 → (f k).counters.get i ≤ 4294967295) : Alike s (s.onCircuit c f) where
  circuits d := by
    rw [circuit_onCircuit]
    split
    · next e => subst e; exact same _
    · rfl
  tributaries _ := rfl
  link _ := rfl
  frameType b := b
  queues b := b
  counters b := ⟨fun d i => by
    rw [circuit_onCircuit]
    split
    · next e => subst e; exact bounded _ i (b.1 d i)
    · exact b.1 d i, b.2⟩

theorem get_replicate_zero_le {n : Nat} (i : Fin n) : (Vector.replicate n 0).get i ≤ 4294967295 := by
  simp [Vector.get_eq_getElem]

theorem countersRead_lawful (kind index clear : Byte) : Lawful s (s.countersRead kind index clear).1 := by
  unfold State.countersRead
  split
  · split
    · exact .refl s
    · split
      · exact .refl s
      · dsimp only
        split
        · exact (Alike.ofCircuit _ (fun _ => rfl) (fun _ i _ => get_replicate_zero_le i)).lawful
        · exact .refl s
  · split
    · exact .refl s
    · next p _ =>
      split
      · exact .refl s
      · dsimp only
        split
        · refine Alike.lawful ⟨fun _ => rfl, fun _ => rfl, fun q => ?_, fun low q => ?_, fun b => ⟨b.1, fun q => ?_⟩,
            fun b => ⟨b.1, fun q i => ?_⟩⟩ <;> (rw [port_onPort]; split)
          · next e => rw [e]
          · rfl
          · exact low p
          · exact low q
          · exact b.2 p
          · exact b.2 q
          · exact get_replicate_zero_le i
          · exact b.2 q i
        · exact .refl s
  · exact .refl s

theorem flagsClear_lawful (kind index : Byte) (mask : BitVec 32) : Lawful s (s.flagsClear kind index mask).1 := by
  unfold State.flagsClear
  split
  · split
    · exact .refl s
    · split
      · dsimp only
        refine Alike.lawful ?_
        exact .ofCircuit _ (fun _ => rfl) (fun _ _ => id)
      · exact .refl s
  · split
    · exact .refl s
    · split
      · refine Alike.lawful ⟨fun _ => rfl, fun v => ?_, fun _ => rfl, id, id, id⟩
        rw [tributary_onTributary]
        split
        · next e => rw [e]
        · rfl
      · exact .refl s
  · split
    · exact .refl s
    · next p _ =>
      split
      · refine Alike.lawful ⟨fun _ => rfl, fun _ => rfl, fun q => ?_, fun low q => ?_, fun b => ⟨b.1, fun q => ?_⟩,
          fun b => ⟨b.1, fun q i => ?_⟩⟩ <;> (dsimp only; rw [port_onPort]; split)
        · next e => rw [e]
        · rfl
        · exact low p
        · exact low q
        · exact b.2 p
        · exact b.2 q
        · exact b.2 p i
        · exact b.2 q i
      · exact .refl s
  · exact .refl s

theorem eventsTake_lawful (kind index n : Byte) : Lawful s (s.eventsTake kind index n).1 := by
  unfold State.eventsTake
  split
  · split
    · exact .refl s
    · dsimp only
      refine Alike.lawful ?_
      exact .ofRun rfl rfl rfl (fun b => by simp only [List.length_drop]; omega)
  · exact .refl s

theorem circuitCommand_lawful (command path : Byte) : Lawful s (s.circuitCommand c command path).1 := by
  unfold State.circuitCommand
  split
  · split
    · next ok => exact engage_lawful ok
    · exact .refl s
  · exact release_lawful s c
  · split
    · next taken =>
      refine (reacquire_quiet (fun off => ?_)).lawful
      rw [off] at taken
      cases taken
    · exact .refl s
  · split
    · exact .refl s
    · split
      · next engaged => exact ((forcePath_runs s c _).quiet_of_engaged ((engaged_iff _).mp engaged)).lawful
      · exact .refl s
  · exact .refl s

theorem command_lawful (kind index command path : Byte) : Lawful s (s.command kind index command path).1 := by
  unfold State.command
  split
  · split
    · exact .refl s
    · exact circuitCommand_lawful command path
  · exact .refl s

end Sys2Proof.Machine

/-! PROOFS. RESTART, POWER_ON, the execution of a management frame and a step with no command waiting keep every law of the
device; with them every step does. -/

namespace Sys2Proof.Machine

variable {s : State}

/-! ### RESTART (R183) -/

/-- The engaged circuits of a list released, without their flag. -/
def State.releaseList (l : List (Fin 64)) (s : State) : State :=
  forEach l (fun c s => if (s.circuit c).engaged then s.releaseEngaged c false else s) s

theorem releaseAll_eq (s : State) : s.releaseAll = State.releaseList allCircuits s := rfl

theorem releaseList_lawful (l : List (Fin 64)) (s : State) : Lawful s (State.releaseList l s) :=
  forEach_relation Lawful .refl .trans _ (fun c s => by
    split
    · exact releaseEngaged_lawful s c false
    · exact .refl s) l s

/-- R183 steps 2 and 4 but for the tributaries: circuit queues, counters, flags of circuits and ports, and the event queue. -/
def State.emptied (s : State) : State :=
  { s with
    circuits := s.circuits.map Circuit.cleared
    ports := ⟨s.ports.a.cleared, s.ports.b.cleared⟩
    events := []
    overflow := false }

/-- R183 steps 3 and 4 for the tributaries: the clock modes recomputed (R159) and the flags CLEAR. -/
def State.recomputed (s : State) : State :=
  { s with tributaries := s.tributaries.map (fun k => { k.recomputed with flags := Vector.replicate 5 none }) }

theorem restart_eq (s : State) : s.restart = s.releaseAll.emptied.recomputed := by
  unfold State.restart
  generalize s.releaseAll = v
  rfl

@[simp] theorem circuit_emptied (s : State) (c : Fin 64) : s.emptied.circuit c = (s.circuit c).cleared := by
  simp [State.emptied, State.circuit]

@[simp] theorem port_emptied (s : State) (p : Port) : s.emptied.port p = (s.port p).cleared := by cases p <;> rfl

@[simp] theorem tributary_recomputed (s : State) (t : Fin 16) :
    s.recomputed.tributary t = { (s.tributary t).recomputed with flags := Vector.replicate 5 none } := by
  simp [State.recomputed, State.tributary]

theorem emptied_lawful (s : State) : Lawful s s.emptied := by
  refine Alike.lawful ⟨fun c => ?_, fun _ => rfl, fun p => ?_, fun low p => ?_, fun b => ⟨by simp [State.emptied], fun p => ?_⟩,
    fun b => ⟨fun c i => ?_, fun p i => ?_⟩⟩
  · rw [circuit_emptied]; rfl
  · rw [port_emptied]; rfl
  · rw [port_emptied]; exact low p
  · rw [port_emptied]; exact ⟨by simp [PortState.cleared], (b.2 p).2⟩
  · rw [circuit_emptied]; exact get_replicate_zero_le i
  · rw [port_emptied]; exact get_replicate_zero_le i

/-- R159: the mode recomputed is never ADAPTIVE, and LOOP only with a signal. -/
theorem recomputed_actual (k : Tributary) : k.recomputed.clocking.actual ≠ .adaptive
    ∧ (k.recomputed.clocking.actual = .loop → k.entry.clockMode = .loop ∧ k.line.signal = .present) := by
  simp only [Tributary.recomputed, changeMode_clocking]
  cases k.entry.clockMode <;> dsimp only
  case free => exact ⟨ClockMode.noConfusion, ClockMode.noConfusion⟩
  case loop =>
    split
    · next present => exact ⟨ClockMode.noConfusion, fun _ => ⟨rfl, present⟩⟩
    · exact ⟨ClockMode.noConfusion, ClockMode.noConfusion⟩
  all_goals split <;> exact ⟨ClockMode.noConfusion, ClockMode.noConfusion⟩

theorem recomputed_kept (k : Tributary) : k.recomputed.entry = k.entry ∧ k.recomputed.line = k.line
    ∧ k.recomputed.clocking.holdover = k.clocking.holdover ∧ k.recomputed.clocking.inForce = k.entry.clockMode
    ∧ k.recomputed.transmit.tickRate = k.transmit.tickRate := by
  refine ⟨rfl, rfl, rfl, rfl, ?_⟩
  rw [Tributary.recomputed, changeMode_tickRate]

theorem recomputed_lawful (s : State) : Lawful s s.recomputed := by
  have entry (t : Fin 16) : (s.recomputed.tributary t).entry = (s.tributary t).entry := by rw [tributary_recomputed]; rfl
  exact
    { queues := id
      counters := id
      memory := id
      reservation := reservationLaw_congr (fun _ => rfl) (fun _ => rfl) (fun _ => rfl) (fun t => by rw [entry])
      range := fun b => ⟨b.1, fun t => by
        obtain ⟨_, _, holdover, _, rate⟩ := recomputed_kept (s.tributary t)
        rw [tributary_recomputed, holdover, rate]
        exact b.2 t⟩
      lock := id
      clock := fun b t => by
        obtain ⟨never, loop⟩ := recomputed_actual (s.tributary t)
        obtain ⟨_, line, _, force, _⟩ := recomputed_kept (s.tributary t)
        rw [tributary_recomputed]
        refine ⟨fun h => absurd h never, fun h => ?_⟩
        rw [force, line]
        exact loop h
      history := fun _ b => ⟨b.1, fun t h => by
        rw [tributary_recomputed] at h
        exact absurd h (recomputed_actual _).1⟩
      disabled := id
      paths := id
      tables := id
      conflicts := conflictLaw_congr (fun _ => rfl) (fun t => by rw [entry])
      unframed := unframedLaw_congr (fun _ => id) (fun _ => rfl) (fun t => by rw [entry])
      buffers := id }

theorem restart_lawful (s : State) : Lawful s s.restart := by
  rw [restart_eq, releaseAll_eq]
  exact ((releaseList_lawful allCircuits s).trans (emptied_lawful _)).trans (recomputed_lawful _)

/-! ### POWER_ON (R184) -/

/-- The part as POWER_ON leaves it, with the commands that wait and the count of free choices kept. -/
def State.powered (s : State) (unit : BitVec 16) : State := { powerOnState unit with draws := s.draws, pending := s.pending }

@[simp] theorem circuit_powered (unit : BitVec 16) (c : Fin 64) : (s.powered unit).circuit c = {} := by
  simp [State.powered, powerOnState, State.circuit]

@[simp] theorem tributary_powered (unit : BitVec 16) (t : Fin 16) : (s.powered unit).tributary t = {} := by
  simp [State.powered, powerOnState, State.tributary]

@[simp] theorem port_powered (unit : BitVec 16) (p : Port) : (s.powered unit).port p = powerOnPort unit p := by
  cases p <;> rfl

/-- An entry of the circuit table at power-on lies in its ranges (R30). -/
theorem inRange_defaultEntry : ({} : CircuitEntry).inRange := by
  refine ⟨⟨by decide, by decide⟩, by decide, by decide, ⟨by decide, by decide⟩, by decide, by decide, ⟨by decide, by decide⟩,
    ⟨by decide, by decide⟩, ⟨by decide, by decide⟩, by decide, ⟨by decide, by decide⟩, ⟨by decide, by decide⟩,
    ⟨by decide, by decide⟩, by decide, by decide, by decide, by decide, fun p r h => ?_⟩
  cases p <;> cases h

theorem frameType_powerOn : 0x0600 ≤ (0xB7A4 : BitVec 16).toNat := by decide

theorem totalReserved_eq_zero (h : ∀ c, (s.circuit c).engaged = false) : s.totalReserved = 0 := by
  unfold State.totalReserved
  rw [List.sum_eq_zero]
  intro x hx
  obtain ⟨c, _, rfl⟩ := List.mem_map.mp hx
  rw [h]
  rfl

/-- What every state after a power-on meets. -/
theorem powered_laws (s : State) (unit : BitVec 16) :
    queuesBounded (s.powered unit) ∧ countersLaw (s.powered unit) ∧ memoryLaw (s.powered unit)
    ∧ reservationLaw (s.powered unit) ∧ recoveryRangeLaw (s.powered unit) ∧ lockLaw (s.powered unit)
    ∧ historyLaw (s.powered unit) ∧ disabledLaw (s.powered unit) ∧ pathLaw (s.powered unit) ∧ clockLaw (s.powered unit)
    ∧ conflictLaw (s.powered unit) ∧ unframedLaw (s.powered unit) ∧ tablesLaw (s.powered unit)
    ∧ bufferLaw (s.powered unit) := by
  have idle (c : Fin 64) : ((s.powered unit).circuit c).engaged = false := by rw [circuit_powered]; rfl
  have disabled : disabledLaw (s.powered unit) := fun c => by rw [circuit_powered]; exact (if_pos rfl).mpr rfl
  have tables : tablesLaw (s.powered unit) := ⟨fun c => by rw [circuit_powered]; exact inRange_defaultEntry,
    fun p => by rw [port_powered]; exact frameType_powerOn⟩
  refine ⟨⟨Nat.zero_le _, fun p => ?_⟩, ⟨fun c i => ?_, fun p i => ?_⟩, ?_, fun c on => ?_, ⟨fun c => ?_, fun t => ?_⟩, fun c on => ?_,
    ⟨fun c on => ?_, fun t on => ?_⟩, disabled, fun c p up => ?_, fun t => ⟨fun on => ?_, fun on => ?_⟩, fun c d _ => ⟨fun on => ?_,
    fun t on => ?_⟩, fun c t on => ?_, tables, tables, disabled, fun c => ?_⟩
  · rw [port_powered]; exact ⟨Nat.zero_le _, Nat.zero_le _⟩
  · rw [circuit_powered]; exact get_replicate_zero_le i
  · rw [port_powered]; exact get_replicate_zero_le i
  · rw [memoryLaw, totalReserved_eq_zero idle]; decide
  · rw [idle] at on; cases on
  · rw [circuit_powered]; exact inRange_default
  · rw [tributary_powered]; exact ⟨⟨by decide, by decide⟩, by decide, by decide⟩
  · rw [circuit_powered] at on; cases on
  · rw [circuit_powered] at on; cases on
  · rw [tributary_powered] at on; cases on
  · rw [circuit_powered] at up; cases p <;> cases up
  · rw [tributary_powered] at on; cases on
  · rw [tributary_powered] at on; cases on
  · rw [circuit_powered] at on; exact absurd rfl on
  · rw [circuit_powered] at on; cases on
  · rw [idle] at on; cases on
  · rw [circuit_powered]; exact bufferLaw_of_bare rfl

theorem powered_lawful (s : State) (unit : BitVec 16) : Lawful s (s.powered unit) := by
  obtain ⟨queues, counters, memory, reservation, range, lock, history, disabled, paths, clock, conflicts, unframed, tables,
    buffers⟩ := powered_laws s unit
  exact ⟨fun _ => queues, fun _ => counters, fun _ => memory, fun _ => reservation, fun _ => range, fun _ => lock,
    fun _ => clock, fun _ _ => history, fun _ => disabled, fun _ => paths, fun _ => tables, fun _ => conflicts,
    fun _ => unframed, fun _ => buffers⟩

end Sys2Proof.Machine

/-! PROOFS. Every step keeps every law of the device (the statements of section "laws kept by every step"). -/

namespace Sys2Proof.Machine

variable {s u : State}

/-! ### What requests leave of LT and the ports -/

/-- LT is kept, and of every port the link, the responses, the frame being sent and the accepted frames. -/
structure Serves (s u : State) : Prop where
  lt        : u.lt = s.lt
  link      : ∀ p, (u.port p).link = (s.port p).link
  responses : ∀ p, (u.port p).responseQueue = (s.port p).responseQueue
  sending   : ∀ p, (u.port p).sending = (s.port p).sending
  waiting   : ∀ p, (u.port p).waiting = (s.port p).waiting

theorem Serves.refl (s : State) : Serves s s := ⟨rfl, fun _ => rfl, fun _ => rfl, fun _ => rfl, fun _ => rfl⟩

theorem Serves.trans {w : State} (h : Serves s u) (l : Serves u w) : Serves s w where
  lt := l.lt.trans h.lt
  link p := (l.link p).trans (h.link p)
  responses p := (l.responses p).trans (h.responses p)
  sending p := (l.sending p).trans (h.sending p)
  waiting p := (l.waiting p).trans (h.waiting p)

theorem Serves.ofPorts (lt : u.lt = s.lt) (ports : u.ports = s.ports) : Serves s u := by
  have port := State.port_congr ports
  exact ⟨lt, fun p => by rw [port], fun p => by rw [port], fun p => by rw [port], fun p => by rw [port]⟩

theorem Serves.ofPort {lt : u.lt = s.lt} (h : ∀ p, (u.port p).link = (s.port p).link
    ∧ (u.port p).responseQueue = (s.port p).responseQueue ∧ (u.port p).sending = (s.port p).sending
    ∧ (u.port p).waiting = (s.port p).waiting) : Serves s u :=
  ⟨lt, fun p => (h p).1, fun p => (h p).2.1, fun p => (h p).2.2.1, fun p => (h p).2.2.2⟩

theorem Serves.onPort (s : State) (p : Port) (f : PortState → PortState) (h : ∀ k, (f k).link = k.link
    ∧ (f k).responseQueue = k.responseQueue ∧ (f k).sending = k.sending ∧ (f k).waiting = k.waiting) :
    Serves s (s.onPort p f) := by
  refine .ofPort (lt := rfl) (fun q => ?_)
  rw [port_onPort]
  split
  · next e => subst e; exact h _
  · exact ⟨rfl, rfl, rfl, rfl⟩

theorem releaseEngaged_serves (s : State) (c : Fin 64) (flagged : Bool) : Serves s (s.releaseEngaged c flagged) := by
  have only := releaseEngaged_only s c flagged
  refine .ofPort (lt := only.run.lt) (fun p => ?_)
  rw [State.port_congr only.ports p, removeCopies_port]
  exact ⟨rfl, rfl, rfl, rfl⟩

theorem restart_serves (s : State) : Serves s s.restart := by
  have released : Serves s s.releaseAll := by
    rw [releaseAll_eq]
    exact forEach_relation Serves .refl .trans _ (fun c s => by
      split
      · exact releaseEngaged_serves s c false
      · exact .refl s) allCircuits s
  rw [restart_eq]
  generalize s.releaseAll = v at released
  refine released.trans (.ofPort (lt := rfl) (fun p => ?_))
  have port : (v.emptied.recomputed).port p = (v.port p).cleared := port_emptied v p
  rw [port]
  exact ⟨rfl, rfl, rfl, rfl⟩

theorem tableWrite_serves (kind index : Byte) (items : List FieldItem) : Serves s (s.tableWrite kind index items).1 := by
  unfold State.tableWrite
  split
  · split
    · exact .refl s
    · simp only [State.writeCircuit]
      split
      · exact .refl s
      · split
        · exact .refl s
        · split
          · exact .refl s
          · split
            · exact .refl s
            · exact .ofPorts rfl rfl
  · split
    · exact .refl s
    · simp only [State.writeTributary]
      split
      · exact .refl s
      · split
        · have stored := storeTributary_stored s
          exact .ofPorts (stored _ _ _).run.lt (stored _ _ _).ports
        · exact .refl s
  · split
    · exact .refl s
    · simp only [State.writePort]
      split
      · exact .refl s
      · dsimp only
        exact .onPort s _ _ (fun _ => ⟨rfl, rfl, rfl, rfl⟩)
  · exact .refl s

theorem circuitCommand_serves {c : Fin 64} (command path : Byte) : Serves s (s.circuitCommand c command path).1 := by
  unfold State.circuitCommand
  split
  · split
    · exact .ofPorts (engage_only s c).run.lt (engage_only s c).ports
    · exact .refl s
  · unfold State.release
    dsimp only
    split
    · exact releaseEngaged_serves s c true
    · exact .refl s
  · split
    · exact .ofPorts (reacquire_only s c).run.lt (reacquire_only s c).ports
    · exact .refl s
  · split
    · exact .refl s
    · split
      · exact .ofPorts rfl rfl
      · exact .refl s
  · exact .refl s

theorem command_serves (kind index command path : Byte) : Serves s (s.command kind index command path).1 := by
  unfold State.command
  split
  · split
    · exact .refl s
    · exact circuitCommand_serves command path
  · exact .refl s

theorem countersRead_serves (kind index clear : Byte) : Serves s (s.countersRead kind index clear).1 := by
  unfold State.countersRead
  split
  · split
    · exact .refl s
    · split
      · exact .refl s
      · dsimp only
        split
        · exact .ofPorts rfl rfl
        · exact .refl s
  · split
    · exact .refl s
    · split
      · exact .refl s
      · dsimp only
        split
        · exact .onPort s _ _ (fun _ => ⟨rfl, rfl, rfl, rfl⟩)
        · exact .refl s
  · exact .refl s

theorem flagsClear_serves (kind index : Byte) (mask : BitVec 32) : Serves s (s.flagsClear kind index mask).1 := by
  unfold State.flagsClear
  split
  · split
    · exact .refl s
    · split
      · exact .ofPorts rfl rfl
      · exact .refl s
  · split
    · exact .refl s
    · split
      · exact .ofPorts rfl rfl
      · exact .refl s
  · split
    · exact .refl s
    · split
      · dsimp only
        exact .onPort s _ _ (fun _ => ⟨rfl, rfl, rfl, rfl⟩)
      · exact .refl s
  · exact .refl s

theorem eventsTake_serves (kind index n : Byte) : Serves s (s.eventsTake kind index n).1 := by
  unfold State.eventsTake
  split
  · split
    · exact .refl s
    · exact .ofPorts rfl rfl
  · exact .refl s

theorem restartRequest_serves (kind index : Byte) : Serves s (s.restartRequest kind index).1 := by
  unfold State.restartRequest
  split
  · split
    · exact .refl s
    · exact restart_serves s
  · exact .refl s

theorem Serves.answered (h : Serves s u) (r : Result) : Serves s (u.answered r) := h.trans (.ofPorts rfl rfl)

theorem execute_serves (r : Request) : Serves s (s.execute r).1 := by
  cases r with
  | tableRead kind index count => exact .refl s
  | tableWrite kind index items => exact tableWrite_serves kind index items
  | circuitCommand kind index command path => exact command_serves kind index command path
  | statusRead kind index => exact .refl s
  | countersRead kind index clear => exact countersRead_serves kind index clear
  | flagsClear kind index mask => exact flagsClear_serves kind index mask
  | eventsTake kind index n => exact eventsTake_serves kind index n
  | restart kind index => exact restartRequest_serves kind index
  | unknown verb kind index => exact .refl s

theorem executeRequests_serves (n : Nat) (o : Option (List Byte)) (full : Bool) (used : Nat) (s : State) :
    Serves s (executeRequests n o full used s).1 :=
  executeRequests_induction (Serves s) (fun r _ h => (h.trans (execute_serves r)).answered _) n o full used s (.refl s)

/-! ### A management frame -/

theorem restartRequest_lawful (kind index : Byte) : Lawful s (s.restartRequest kind index).1 := by
  unfold State.restartRequest
  split
  · split
    · exact .refl s
    · exact restart_lawful s
  · exact .refl s

theorem Lawful.answered (h : Lawful s u) (r : Result) : Lawful s (u.answered r) := h.trans (Alike.answered u r).lawful

theorem execRestart_lawful (h : execRestart s = .next u) : Lawful s u := by
  simp only [execRestart, Host.Outcome.next.injEq] at h
  rw [← h]
  exact (restartRequest_lawful 7 0).answered _

theorem execute_lawful (r : Request) : Lawful s (s.execute r).1 := by
  cases r with
  | tableRead kind index count => exact .refl s
  | tableWrite kind index items => exact tableWrite_lawful kind index items
  | circuitCommand kind index command path => exact command_lawful kind index command path
  | statusRead kind index => exact .refl s
  | countersRead kind index clear => exact countersRead_lawful kind index clear
  | flagsClear kind index mask => exact flagsClear_lawful kind index mask
  | eventsTake kind index n => exact eventsTake_lawful kind index n
  | restart kind index => exact restartRequest_lawful kind index
  | unknown verb kind index => exact .refl s

theorem executeRequests_lawful (n : Nat) (o : Option (List Byte)) (full : Bool) (used : Nat) (s : State) :
    Lawful s (executeRequests n o full used s).1 :=
  executeRequests_induction (Lawful s) (fun r _ h => (h.trans (execute_lawful r)).answered _) n o full used s (.refl s)

/-- A response placed in a queue that has room for it (R170, R174). -/
theorem placeResponse_lawful (s : State) (p : Port) (x : Response) (room : (s.port p).responseQueue.length < 4) :
    Lawful s (s.placeResponse p x) := by
  unfold State.placeResponse
  split
  · refine Alike.lawful ⟨fun _ => rfl, fun _ => rfl, fun q => ?_, fun low q => ?_, fun b => ⟨b.1, fun q => ?_⟩,
      fun b => ⟨b.1, fun q => ?_⟩⟩ <;> (rw [port_onPort]; split)
    · next e => rw [e]
    · rfl
    · exact low p
    · exact low q
    · exact ⟨(b.2 p).1, by simpa using room⟩
    · exact b.2 q
    · exact b.2 p
    · exact b.2 q
  · exact .refl s

theorem runFrame_lawful (s : State) (p : Port) (f : AcceptedFrame) : Lawful s (s.runFrame p f) := by
  unfold State.runFrame
  split
  · next runs =>
    have served := executeRequests_serves f.count (some f.records) false 9 s
    have room : (s.port p).responseQueue.length < 4 := by
      simp only [State.frameRuns, Bool.and_eq_true, decide_eq_true_eq] at runs
      exact runs.1.1
    exact (executeRequests_lawful f.count (some f.records) false 9 s).trans
      (placeResponse_lawful _ p _ (by rw [served.responses]; exact room))
  · exact ((Quiet.countPort s p _).trans (.raise _ _ _)).lawful

theorem execManagementFrame_lawful {p : Port} (h : execManagementFrame p s = .next u) : Lawful s u := by
  simp only [execManagementFrame, Host.Outcome.next.injEq] at h
  subst h
  split
  · exact .refl s
  · next f rest _ =>
    exact (Quiet.onPort s p (fun k => { k with waiting := rest }) { PortKept.refl _ with } rfl).lawful.trans
      (runFrame_lawful _ p f)

/-! ### The part's own clock -/

@[simp] theorem circuit_tick (s : State) (c : Fin 64) :
    s.tick.circuit c = { s.circuit c with recovery := (s.circuit c).recovery.tick } := by
  simp [State.tick, State.circuit]

@[simp] theorem tributary_tick (s : State) (t : Fin 16) :
    s.tick.tributary t = { s.tributary t with transmit := (s.tributary t).transmit.tick (s.rateOffset t) } := by
  simp [State.tick, State.tributary]

@[simp] theorem port_tick (s : State) (p : Port) : s.tick.port p = (s.port p).tick (s.lt + 1) := by cases p <;> rfl

theorem rateOffset_range (law : recoveryRangeLaw s) (t : Fin 16) (x : Int) (h : s.rateOffset t = some x) : inFreqRange x := by
  unfold State.rateOffset at h
  split at h <;> cases h
  · exact ⟨by decide, by decide⟩
  · exact (law.1 _).1
  · exact (law.2 t).1

theorem tick_tickRate_range (x : Transmit) (offset : Option Int) (h : ∀ y, offset = some y → inFreqRange y) :
    inFreqRange ((x.tick offset).tickRate - 2 ^ 27) := by
  cases offset with
  | none => exact fineRate_sub 0 ⟨by decide, by decide⟩
  | some y =>
    have range := fineRate_sub y (h y rfl)
    simp only [Transmit.tick]
    split <;> exact range

theorem tick_lawful (s : State) : Lawful s s.tick := by
  have keeps (c : Fin 64) := Recovery.keeps_tick (s.circuit c).recovery
  have disabled (b : disabledLaw s) : disabledLaw s.tick := by
    intro c
    have old := b c
    rw [circuit_tick]
    split at old
    · next off =>
      rw [if_pos off]
      rw [old]
      rfl
    · next on => rw [if_neg on]; exact old
  have tables (b : tablesLaw s) : tablesLaw s.tick :=
    tablesLaw_congr (fun c => by rw [circuit_tick]) (fun p => by rw [port_tick]; rfl) b
  exact
    { queues := fun b => ⟨b.1, fun p => by rw [port_tick]; exact b.2 p⟩
      counters := fun b => ⟨fun c => by rw [circuit_tick]; exact b.1 c, fun p => by rw [port_tick]; exact b.2 p⟩
      memory := fun b => by
        rw [memoryLaw, totalReserved_congr (s := s) (fun c => by rw [circuit_tick]; rfl) (fun c _ => by rw [circuit_tick])]
        exact b
      reservation := reservationLaw_congr (fun c => by rw [circuit_tick]; rfl) (fun c => by rw [circuit_tick])
        (fun c => by rw [circuit_tick]) (fun t => by rw [tributary_tick])
      range := fun b => ⟨fun c => by rw [circuit_tick]; exact (keeps c).range (b.1 c), fun t => by
        rw [tributary_tick]
        exact ⟨(b.2 t).1, tick_tickRate_range _ _ (rateOffset_range b t)⟩⟩
      lock := fun b c => by rw [circuit_tick]; exact b c
      clock := fun b t => by simp only [tributary_tick, circuit_tick]; exact b t
      history := fun _ b => ⟨fun c => by rw [circuit_tick]; exact b.1 c, fun t => by
        simp only [tributary_tick, circuit_tick]; exact b.2 t⟩
      disabled := disabled
      paths := fun b c p => by rw [circuit_tick, port_tick]; exact b c p
      tables := tables
      conflicts := conflictLaw_congr (fun c => by rw [circuit_tick]) (fun t => by rw [tributary_tick])
      unframed := unframedLaw_congr (fun c => by rw [circuit_tick]; exact id) (fun c => by rw [circuit_tick])
        (fun t => by rw [tributary_tick])
      buffers := fun b => ⟨tables b.1, disabled b.2.1, fun c => by rw [circuit_tick]; exact b.2.2 c⟩ }

theorem idle_lawful (s : State) : Lawful s s.idle := by
  unfold State.idle
  split
  · exact tick_lawful s
  · refine Alike.lawful ?_
    exact .ofRun rfl rfl rfl id

/-! ### Every command and every step -/

theorem exec_lawful {i : Instr} (h : exec i s = .next u) : Lawful s u := by
  have line {bits : List Bool} {t : Fin 16} (e : u = s.receiveBits t bits) : Lawful s u := e ▸ (receiveBits_quiet s t bits).lawful
  cases i with
  | powerOn unit => cases h; exact powered_lawful s unit
  | lossOfSignalDeclared t bits => cases h; exact line rfl
  | lossOfSignalCleared t bits => cases h; exact line rfl
  | aisBlockEnd t bits => cases h; exact line rfl
  | alignmentDeclared t bits => cases h; exact line rfl
  | alignmentLost t bits => cases h; exact line rfl
  | remoteAlarmStateChange t bits => cases h; exact line rfl
  | receiveFrameEvent t bits => cases h; exact line rfl
  | generatedFrameEvent t => exact (execGeneratedFrameEvent_quiet h).lawful
  | transmitFrameStart t => exact (execTransmitFrameStart_quiet h).lawful
  | linkUp p => exact (execLinkUp_quiet h).lawful
  | linkDown p => exact (execLinkDown_calm h).1.lawful (execLinkDown_paths h)
  | frameArrival p age o => exact (execFrameArrival_quiet h).lawful
  | copyDeparture p => exact (execCopyDeparture_quiet h).lawful
  | responseDeparture p => exact (execResponseDeparture_quiet h).lawful
  | engageTimerExpiry c => exact (execEngageTimerExpiry_quiet h).lawful
  | starvationTimerExpiry c => exact (execStarvationTimerExpiry_quiet h).lawful
  | pathTimerExpiry c p => exact (execPathTimerExpiry_quiet h).lawful
  | restoreHoldOffExpiry c => exact (execRestoreHoldOffExpiry_quiet h).lawful
  | managementFrame p => exact execManagementFrame_lawful h
  | tableRead kind index count => cases h; exact (Lawful.refl s).answered _
  | tableWrite kind index items => cases h; exact (tableWrite_lawful kind index items).answered _
  | engage index => cases h; exact (command_lawful 4 index 1 0).answered _
  | release index => cases h; exact (command_lawful 4 index 2 0).answered _
  | reacquire index => cases h; exact (command_lawful 4 index 3 0).answered _
  | forcePath index path => cases h; exact (command_lawful 4 index 4 path).answered _
  | statusRead kind index => cases h; exact (Lawful.refl s).answered _
  | countersRead kind index clear => cases h; exact (countersRead_lawful kind index clear).answered _
  | flagsClear kind index mask => cases h; exact (flagsClear_lawful kind index mask).answered _
  | eventsTake n => cases h; exact (eventsTake_lawful 7 0 n).answered _
  | restart => exact execRestart_lawful h
  | lastOctetSent p => exact (execLastOctetSent_quiet h).lawful

/-- Every step keeps every law of the device. -/
theorem step_lawful (h : step s = .next u) : Lawful s u := by
  unfold step at h
  split at h
  · rw [Host.Outcome.next.injEq] at h
    rw [← h]
    exact idle_lawful s
  · next i rest _ =>
    have taken : Alike s { s with pending := rest } := .ofRun rfl rfl rfl id
    exact taken.lawful.trans (exec_lawful h)

/-- Settles O54, from the laws every step keeps. -/
theorem stepsKeepQueuesCountersAndMemoryBounded : Obligations.StepsKeepQueuesCountersAndMemoryBounded :=
  ⟨fun _ _ law h => (step_lawful h).queues law, fun _ _ law h => (step_lawful h).counters law,
    fun _ _ law h => (step_lawful h).memory law, fun _ _ law h => (step_lawful h).reservation law⟩

/-- Settles O56, from the laws every step keeps. -/
theorem stepsKeepTheRecoveryLaws : Obligations.StepsKeepTheRecoveryLaws :=
  ⟨fun _ _ law h => (step_lawful h).range law, fun _ _ law h => (step_lawful h).lock law⟩

/-- Settles O57, from the laws every step keeps. -/
theorem stepsKeepTheDisabledAndPathLaws : Obligations.StepsKeepTheDisabledAndPathLaws :=
  ⟨fun _ _ law h => (step_lawful h).disabled law, fun _ _ law h => (step_lawful h).paths law⟩

/-- Settles O58, from the laws every step keeps. -/
theorem stepsKeepTheClockLaw : Obligations.StepsKeepTheClockLaw :=
  ⟨fun _ _ law h => (step_lawful h).clock law, fun _ _ clock law h => (step_lawful h).history clock law⟩

/-- Settles O59, from the laws every step keeps. -/
theorem stepsKeepTheTablesInRangeAndFreeOfConflicts : Obligations.StepsKeepTheTablesInRangeAndFreeOfConflicts :=
  ⟨fun _ _ law h => (step_lawful h).tables law, fun _ _ law h => (step_lawful h).conflicts law,
    fun _ _ law h => (step_lawful h).unframed law⟩

/-- Settles O60, from the laws every step keeps. -/
theorem stepsKeepThePlayoutBufferLaw : Obligations.StepsKeepThePlayoutBufferLaw :=
  fun _ _ law h => (step_lawful h).buffers law

/-- Settles O4: the state after reset is a state after power-on. -/
theorem resetMeetsEveryLaw : Obligations.ResetMeetsEveryLaw := powered_laws State.reset 0

end Sys2Proof.Machine

/-! PROOFS. Only their own requests lower counters, clear flags, change entries or take event records (R19, R50, R180, R182). -/

namespace Sys2Proof.Machine

variable {s u : State}

/-- No counter has been lowered (R182). -/
def CountsGrow (s u : State) : Prop :=
  (∀ c i, (s.circuit c).counters.get i ≤ (u.circuit c).counters.get i)
  ∧ ∀ p i, (s.port p).counters.get i ≤ (u.port p).counters.get i

/-- No SET flag has been cleared or has changed its detail (R180). -/
def FlagsStay (s u : State) : Prop := ∀ r d, s.flag r = some d → u.flag r = some d

/-- No table entry has changed (R50). -/
def EntriesStay (s u : State) : Prop :=
  (∀ c, (u.circuit c).entry = (s.circuit c).entry) ∧ (∀ t, (u.tributary t).entry = (s.tributary t).entry)
  ∧ ∀ p, (u.port p).entry = (s.port p).entry

/-- LT, counters, flags, entries and event records are as the rules of a command that is none of the four requests leave them. -/
structure Undoes (s u : State) : Prop where
  lt      : u.lt = s.lt
  counts  : CountsGrow s u
  flags   : FlagsStay s u
  entries : EntriesStay s u
  events  : EventsGrow s u

theorem Calm.undoes (h : Calm s u) (lt : u.lt = s.lt) : Undoes s u :=
  ⟨lt, h.counts, h.flags, ⟨h.circuitEntry, h.tributaryEntry, h.portEntry⟩, h.events⟩

theorem Quiet.undoes (h : Quiet s u) : Undoes s u := h.toCalm.undoes h.lt

theorem Undoes.refl (s : State) : Undoes s s := (Quiet.refl s).undoes

theorem Undoes.trans {w : State} (h : Undoes s u) (l : Undoes u w) : Undoes s w where
  lt := l.lt.trans h.lt
  counts := ⟨fun c i => (h.counts.1 c i).trans (l.counts.1 c i), fun p i => (h.counts.2 p i).trans (l.counts.2 p i)⟩
  flags r d e := l.flags r d (h.flags r d e)
  entries := ⟨fun c => (l.entries.1 c).trans (h.entries.1 c), fun t => (l.entries.2.1 t).trans (h.entries.2.1 t),
    fun p => (l.entries.2.2 p).trans (h.entries.2.2 p)⟩
  events := h.events.trans l.events

/-! ### Rows alone -/

theorem countsGrow_of_eq (circuit : ∀ c, (u.circuit c).counters = (s.circuit c).counters)
    (port : ∀ p, (u.port p).counters = (s.port p).counters) : CountsGrow s u :=
  ⟨fun c i => by rw [circuit], fun p i => by rw [port]⟩

theorem flagsStay_of_eq (circuit : ∀ c, (u.circuit c).flags = (s.circuit c).flags)
    (tributary : ∀ t, (u.tributary t).flags = (s.tributary t).flags) (port : ∀ p, (u.port p).flags = (s.port p).flags) :
    FlagsStay s u := by
  intro r d h
  cases r with
  | circuit c f => simpa only [State.flag, circuit] using h
  | tributary t f => simpa only [State.flag, tributary] using h
  | port p f => simpa only [State.flag, port] using h

theorem flagsStay_of_rows (h : (∀ c i d, (s.circuit c).flags.get i = some d → (u.circuit c).flags.get i = some d)
    ∧ (∀ t i d, (s.tributary t).flags.get i = some d → (u.tributary t).flags.get i = some d)
    ∧ ∀ p i d, (s.port p).flags.get i = some d → (u.port p).flags.get i = some d) : FlagsStay s u := by
  obtain ⟨circuit, tributary, port⟩ := h
  intro r d h
  cases r with
  | circuit c f => exact circuit c _ d h
  | tributary t f => exact tributary t _ d h
  | port p f => exact port p _ d h

theorem Undoes.answered (h : Undoes s u) (r : Result) : Undoes s (u.answered r) :=
  h.trans ⟨rfl, countsGrow_of_eq (fun _ => rfl) (fun _ => rfl), flagsStay_of_eq (fun _ => rfl) (fun _ => rfl) (fun _ => rfl),
    ⟨fun _ => rfl, fun _ => rfl, fun _ => rfl⟩, .refl u⟩

/-! ### The circuit commands -/

theorem flag_congr (circuit : ∀ c, (u.circuit c).flags = (s.circuit c).flags)
    (tributary : ∀ t, (u.tributary t).flags = (s.tributary t).flags) (port : ∀ p, (u.port p).flags = (s.port p).flags)
    (r : FlagRef) : u.flag r = s.flag r := by
  cases r with
  | circuit c f => simp only [State.flag, circuit]
  | tributary t f => simp only [State.flag, tributary]
  | port p f => simp only [State.flag, port]

/-- An operation on one circuit that keeps its counters and SET flags, and of the tributaries no flag. -/
theorem OnlyCircuit.undoes {c : Fin 64} (only : OnlyCircuit s u c) (counters : (u.circuit c).counters = (s.circuit c).counters)
    (flags : FlagsStay s u) : Undoes s u where
  lt := only.run.lt
  counts := countsGrow_of_eq (only.forall_of_refl (P := fun k v => v.counters = k.counters) (fun _ => rfl) counters)
    (fun p => by rw [State.port_congr only.ports])
  flags := flags
  entries := ⟨only.forall_of_refl (P := fun k v => v.entry = k.entry) (fun _ => rfl) only.entry,
    fun t => (only.lines t).1, fun p => by rw [State.port_congr only.ports]⟩
  events := only.events

theorem engage_undoes (s : State) (c : Fin 64) : Undoes s (s.engage c) := by
  have only := engage_only s c
  refine only.undoes (by rw [circuit_engage]; rfl) ?_
  apply flagsStay_of_rows
  refine ⟨only.forall_of_refl (P := fun k v => ∀ i d, k.flags.get i = some d → v.flags.get i = some d) (fun _ _ _ => id)
      (fun i d h => ?_), fun t i d h => by rw [State.tributary_congr (engage_tributaries s c)]; exact h,
    fun p i d h => by rw [State.port_congr only.ports]; exact h⟩
  rw [circuit_engage]
  exact raisedRow_keeps _ _ i _ d h

theorem raisedIf_flags_keep (k : Circuit) (b : Bool) (f : CircuitFlag) (x : Detail) (i : Fin 14) (d : Detail)
    (h : k.flags.get i = some d) : (k.raisedIf b f x).flags.get i = some d := by
  cases b
  · exact h
  · exact raisedRow_keeps _ _ i _ d h

theorem releaseEngaged_undoes (s : State) (c : Fin 64) (flagged : Bool) : Undoes s (s.releaseEngaged c flagged) := by
  have removed := removeCopies_quiet s c
  have only := releaseEngaged_only s c flagged
  have circuit (d : Fin 64) : (s.removeCopies c).circuit d = s.circuit d := State.circuit_congr (removeCopies_circuits s c) d
  refine removed.undoes.trans (only.undoes (by rw [circuit_releaseEngaged, circuit]; rfl) ?_)
  apply flagsStay_of_rows
  refine ⟨only.forall_of_refl (P := fun k v => ∀ i d, k.flags.get i = some d → v.flags.get i = some d) (fun _ _ _ => id)
      (fun i d h => ?_), fun t i d h => ?_, fun p i d h => by rw [State.port_congr only.ports]; exact h⟩
  · rw [circuit_releaseEngaged]
    rw [circuit] at h
    exact raisedIf_flags_keep _ _ _ _ i d h
  · rw [State.tributary_congr (removeCopies_tributaries s c)] at h
    rcases tributary_releaseEngaged s c flagged t with ⟨_, _, e⟩ | ⟨_, e⟩ <;> rw [e]
    · exact untimed_flags _ _ i d h
    · exact h

theorem circuitCommand_undoes {c : Fin 64} (command path : Byte) : Undoes s (s.circuitCommand c command path).1 := by
  unfold State.circuitCommand
  split
  · split
    · exact engage_undoes s c
    · exact .refl s
  · unfold State.release
    dsimp only
    split
    · exact releaseEngaged_undoes s c true
    · exact .refl s
  · split
    · next taken =>
      refine (reacquire_quiet (fun off => ?_)).undoes
      rw [off] at taken
      cases taken
    · exact .refl s
  · split
    · exact .refl s
    · split
      · next engaged => exact ((forcePath_runs s c _).quiet_of_engaged ((engaged_iff _).mp engaged)).undoes
      · exact .refl s
  · exact .refl s

theorem command_undoes (kind index command path : Byte) : Undoes s (s.command kind index command path).1 := by
  unfold State.command
  split
  · split
    · exact .refl s
    · exact circuitCommand_undoes command path
  · exact .refl s

/-! ### The four requests that undo -/

/-- A table write changes entries alone of these (R31). -/
structure Writes (s u : State) : Prop where
  lt     : u.lt = s.lt
  counts : CountsGrow s u
  flags  : FlagsStay s u
  events : EventsGrow s u

theorem Undoes.writes (h : Undoes s u) : Writes s u := ⟨h.lt, h.counts, h.flags, h.events⟩

theorem storeTributary_flags (s : State) (t : Fin 16) (e : TributaryEntry) (fields : List TributaryField) (i : Fin 5) (d : Detail)
    (h : (s.tributary t).flags.get i = some d) : ((s.storeTributary t e fields).tributary t).flags.get i = some d := by
  have stored : ((s.entryStored t e (modeGiven fields)).tributary t).flags = (s.tributary t).flags := by
    simp [State.entryStored]
  have raised (k : Tributary) (b : Bool) (f : TributaryFlag) (x : Detail) (h : k.flags.get i = some d) :
      (k.raisedIf b f x).flags.get i = some d := by
    cases b
    · exact h
    · exact raisedRow_keeps _ _ i _ d h
  rw [storeTributary_eq]
  cases framingGiven fields with
  | none =>
    rw [← stored] at h
    exact h
  | some v =>
    rw [← stored] at h
    simp only [State.restartedFor, tributary_restartFraming]
    exact raised _ _ _ _ (raised _ _ _ _ h)

theorem tableWrite_writes (kind index : Byte) (items : List FieldItem) : Writes s (s.tableWrite kind index items).1 := by
  have unchanged := (Undoes.refl s).writes
  unfold State.tableWrite
  split
  · split
    · exact unchanged
    · next c _ =>
      simp only [State.writeCircuit]
      split
      · exact unchanged
      · next fields _ =>
        split
        · exact unchanged
        · split
          · exact unchanged
          · split
            · exact unchanged
            · obtain ⟨_, _, _, _, _, _, counters, flags⟩ :=
                written_kept (s.circuit c) (effectiveEntry (s.circuit c).entry fields)
              refine ⟨rfl, countsGrow_of_eq (fun d => ?_) (fun _ => rfl),
                flagsStay_of_eq (fun d => ?_) (fun _ => rfl) (fun _ => rfl), .refl s⟩ <;> (rw [circuit_onCircuit]; split)
              · next e => rw [e, counters]
              · rfl
              · next e => rw [e, flags]
              · rfl
  · split
    · exact unchanged
    · next t _ =>
      simp only [State.writeTributary]
      split
      · exact unchanged
      · next fields _ =>
        split
        · have stored := storeTributary_stored s t
            (fields.foldl (TributaryField.store (s.tributary t).entry.clockMode) (s.tributary t).entry) fields
          have circuit := State.circuit_congr stored.circuits
          have port := State.port_congr stored.ports
          refine ⟨stored.run.lt, countsGrow_of_eq (fun c => by rw [circuit]) (fun p => by rw [port]), ?_, stored.events⟩
          apply flagsStay_of_rows
          refine ⟨fun c i d h => by rw [circuit]; exact h, fun v i d h => ?_, fun p i d h => by rw [port]; exact h⟩
          by_cases same : v = t
          · subst same; exact storeTributary_flags s v _ fields i d h
          · rw [stored.others v same]; exact h
        · exact unchanged
  · split
    · exact unchanged
    · next p _ =>
      simp only [State.writePort]
      split
      · exact unchanged
      · refine ⟨rfl, countsGrow_of_eq (fun _ => rfl) (fun q => ?_),
          flagsStay_of_eq (fun _ => rfl) (fun _ => rfl) (fun q => ?_), .refl s⟩ <;> (rw [port_onPort]; split)
        · next e => rw [e]; rfl
        · rfl
        · next e => rw [e]; rfl
        · rfl
  · exact unchanged

/-- COUNTERS_READ changes counters alone of these (R177). -/
theorem countersRead_keeps (kind index clear : Byte) : FlagsStay s (s.countersRead kind index clear).1
    ∧ EntriesStay s (s.countersRead kind index clear).1 ∧ EventsGrow s (s.countersRead kind index clear).1 := by
  have unchanged := Undoes.refl s
  unfold State.countersRead
  split
  · split
    · exact ⟨unchanged.flags, unchanged.entries, unchanged.events⟩
    · split
      · exact ⟨unchanged.flags, unchanged.entries, unchanged.events⟩
      · dsimp only
        split
        · refine ⟨flagsStay_of_eq (fun d => ?_) (fun _ => rfl) (fun _ => rfl),
            ⟨fun d => ?_, fun _ => rfl, fun _ => rfl⟩, .refl s⟩ <;> (rw [circuit_onCircuit]; split)
          · next e => rw [e]
          · rfl
          · next e => rw [e]
          · rfl
        · exact ⟨unchanged.flags, unchanged.entries, unchanged.events⟩
  · split
    · exact ⟨unchanged.flags, unchanged.entries, unchanged.events⟩
    · split
      · exact ⟨unchanged.flags, unchanged.entries, unchanged.events⟩
      · dsimp only
        split
        · refine ⟨flagsStay_of_eq (fun _ => rfl) (fun _ => rfl) (fun q => ?_),
            ⟨fun _ => rfl, fun _ => rfl, fun q => ?_⟩, .refl s⟩ <;> (rw [port_onPort]; split)
          · next e => rw [e]
          · rfl
          · next e => rw [e]
          · rfl
        · exact ⟨unchanged.flags, unchanged.entries, unchanged.events⟩
  · exact ⟨unchanged.flags, unchanged.entries, unchanged.events⟩

/-- FLAGS_CLEAR changes flags alone of these (R178). -/
theorem flagsClear_keeps (kind index : Byte) (mask : BitVec 32) : CountsGrow s (s.flagsClear kind index mask).1
    ∧ EntriesStay s (s.flagsClear kind index mask).1 ∧ EventsGrow s (s.flagsClear kind index mask).1 := by
  have unchanged := Undoes.refl s
  unfold State.flagsClear
  split
  · split
    · exact ⟨unchanged.counts, unchanged.entries, unchanged.events⟩
    · split
      · dsimp only
        refine ⟨countsGrow_of_eq (fun d => ?_) (fun _ => rfl), ⟨fun d => ?_, fun _ => rfl, fun _ => rfl⟩, .refl s⟩ <;>
          (rw [circuit_onCircuit]; split)
        · next e => rw [e]
        · rfl
        · next e => rw [e]
        · rfl
      · exact ⟨unchanged.counts, unchanged.entries, unchanged.events⟩
  · split
    · exact ⟨unchanged.counts, unchanged.entries, unchanged.events⟩
    · split
      · dsimp only
        refine ⟨countsGrow_of_eq (fun _ => rfl) (fun _ => rfl), ⟨fun _ => rfl, fun v => ?_, fun _ => rfl⟩, .refl s⟩
        rw [tributary_onTributary]
        split
        · next e => rw [e]
        · rfl
      · exact ⟨unchanged.counts, unchanged.entries, unchanged.events⟩
  · split
    · exact ⟨unchanged.counts, unchanged.entries, unchanged.events⟩
    · split
      · dsimp only
        refine ⟨countsGrow_of_eq (fun _ => rfl) (fun q => ?_), ⟨fun _ => rfl, fun _ => rfl, fun q => ?_⟩, .refl s⟩ <;>
          (rw [port_onPort]; split)
        · next e => rw [e]
        · rfl
        · next e => rw [e]
        · rfl
      · exact ⟨unchanged.counts, unchanged.entries, unchanged.events⟩
  · exact ⟨unchanged.counts, unchanged.entries, unchanged.events⟩

/-- EVENTS_TAKE changes event records and the overflow indicator alone of these (R179). -/
theorem eventsTake_keeps (kind index n : Byte) : CountsGrow s (s.eventsTake kind index n).1
    ∧ FlagsStay s (s.eventsTake kind index n).1 ∧ EntriesStay s (s.eventsTake kind index n).1 := by
  have unchanged := Undoes.refl s
  unfold State.eventsTake
  split
  · split
    · exact ⟨unchanged.counts, unchanged.flags, unchanged.entries⟩
    · exact ⟨countsGrow_of_eq (fun _ => rfl) (fun _ => rfl), flagsStay_of_eq (fun _ => rfl) (fun _ => rfl) (fun _ => rfl),
        ⟨fun _ => rfl, fun _ => rfl, fun _ => rfl⟩⟩
  · exact ⟨unchanged.counts, unchanged.flags, unchanged.entries⟩

/-- Settles O55, command by command. -/
theorem onlyTheirRequestsUndoCountsFlagsAndEntries : Obligations.OnlyTheirRequestsUndoCountsFlagsAndEntries := by
  intro i s u h notPower notRestart notFrame
  have whole (h : Undoes s u) : u.lt = s.lt
      ∧ ((∀ kind index clear, i ≠ .countersRead kind index clear) → CountsGrow s u)
      ∧ ((∀ kind index mask, i ≠ .flagsClear kind index mask) → FlagsStay s u)
      ∧ ((∀ kind index items, i ≠ .tableWrite kind index items) → EntriesStay s u)
      ∧ ((∀ n, i ≠ .eventsTake n) → EventsGrow s u) :=
    ⟨h.lt, fun _ => h.counts, fun _ => h.flags, fun _ => h.entries, fun _ => h.events⟩
  have line {bits : List Bool} {t : Fin 16} (e : u = s.receiveBits t bits) : Undoes s u := e ▸ (receiveBits_quiet s t bits).undoes
  cases i with
  | powerOn unit => exact absurd rfl (notPower unit)
  | lossOfSignalDeclared t bits => cases h; exact whole (line rfl)
  | lossOfSignalCleared t bits => cases h; exact whole (line rfl)
  | aisBlockEnd t bits => cases h; exact whole (line rfl)
  | alignmentDeclared t bits => cases h; exact whole (line rfl)
  | alignmentLost t bits => cases h; exact whole (line rfl)
  | remoteAlarmStateChange t bits => cases h; exact whole (line rfl)
  | receiveFrameEvent t bits => cases h; exact whole (line rfl)
  | generatedFrameEvent t => exact whole (execGeneratedFrameEvent_quiet h).undoes
  | transmitFrameStart t => exact whole (execTransmitFrameStart_quiet h).undoes
  | linkUp p => exact whole (execLinkUp_quiet h).undoes
  | linkDown p => exact whole ((execLinkDown_calm h).1.undoes (execLinkDown_calm h).2)
  | frameArrival p age o => exact whole (execFrameArrival_quiet h).undoes
  | copyDeparture p => exact whole (execCopyDeparture_quiet h).undoes
  | responseDeparture p => exact whole (execResponseDeparture_quiet h).undoes
  | engageTimerExpiry c => exact whole (execEngageTimerExpiry_quiet h).undoes
  | starvationTimerExpiry c => exact whole (execStarvationTimerExpiry_quiet h).undoes
  | pathTimerExpiry c p => exact whole (execPathTimerExpiry_quiet h).undoes
  | restoreHoldOffExpiry c => exact whole (execRestoreHoldOffExpiry_quiet h).undoes
  | managementFrame p => exact absurd rfl (notFrame p)
  | tableRead kind index count => cases h; exact whole ((Undoes.refl s).answered _)
  | tableWrite kind index items =>
    cases h
    have written := tableWrite_writes (s := s) kind index items
    exact ⟨written.lt, fun _ => written.counts, fun _ => written.flags, fun other => absurd rfl (other kind index items),
      fun _ => written.events⟩
  | engage index => cases h; exact whole ((command_undoes 4 index 1 0).answered _)
  | release index => cases h; exact whole ((command_undoes 4 index 2 0).answered _)
  | reacquire index => cases h; exact whole ((command_undoes 4 index 3 0).answered _)
  | forcePath index path => cases h; exact whole ((command_undoes 4 index 4 path).answered _)
  | statusRead kind index => cases h; exact whole ((Undoes.refl s).answered _)
  | countersRead kind index clear =>
    cases h
    obtain ⟨flags, entries, events⟩ := countersRead_keeps (s := s) kind index clear
    exact ⟨(countersRead_serves kind index clear).lt, fun other => absurd rfl (other kind index clear), fun _ => flags,
      fun _ => entries, fun _ => events⟩
  | flagsClear kind index mask =>
    cases h
    obtain ⟨counts, entries, events⟩ := flagsClear_keeps (s := s) kind index mask
    exact ⟨(flagsClear_serves kind index mask).lt, fun _ => counts, fun other => absurd rfl (other kind index mask),
      fun _ => entries, fun _ => events⟩
  | eventsTake n =>
    cases h
    obtain ⟨counts, flags, entries⟩ := eventsTake_keeps (s := s) 7 0 n
    exact ⟨(eventsTake_serves 7 0 n).lt, fun _ => counts, fun _ => flags, fun _ => entries, fun other => absurd rfl (other n)⟩
  | restart => exact absurd rfl notRestart
  | lastOctetSent p => exact whole (execLastOctetSent_quiet h).undoes

end Sys2Proof.Machine

/-! PROOFS. Steps, power-on and events that are not due. -/

namespace Sys2Proof.Machine

/-! ### The answer of a request -/

@[simp] theorem circuit_answered (s : State) (r : Result) (c : Fin 64) : (s.answered r).circuit c = s.circuit c := rfl
@[simp] theorem tributary_answered (s : State) (r : Result) (t : Fin 16) : (s.answered r).tributary t = s.tributary t := rfl
@[simp] theorem port_answered (s : State) (r : Result) (p : Port) : (s.answered r).port p = s.port p := rfl
@[simp] theorem lt_answered (s : State) (r : Result) : (s.answered r).lt = s.lt := rfl
@[simp] theorem answer_answered (s : State) (r : Result) : (s.answered r).answer = some r := rfl
@[simp] theorem flag_answered (s : State) (r : Result) (f : FlagRef) : (s.answered r).flag f = s.flag f := by cases f <;> rfl

/-! ### Steps, power-on and events that are not due -/

/-- Settles O1: a step on a queue with a command at its front is the command's meaning. -/
theorem stepTakesTheFrontCommand : Obligations.StepTakesTheFrontCommand := fun _ _ _ => rfl

/-- Settles O3, each block of the state after power-on by its default values. -/
theorem powerOnSetsEveryPowerOnValue : Obligations.PowerOnSetsEveryPowerOnValue := by
  intro unit s
  refine ⟨s.powered unit, rfl, rfl, rfl, rfl, rfl, rfl, rfl, fun c => ?_, fun t => ?_, fun p => ?_⟩
  · rw [circuit_powered]
    exact ⟨rfl, rfl, rfl, rfl, rfl, rfl, rfl, fun p => by cases p <;> rfl, rfl⟩
  · rw [tributary_powered]
    exact ⟨rfl, rfl, rfl, rfl, rfl⟩
  · rw [port_powered]
    cases p <;> rfl

/-- A timer that is stopped or has not expired (R27). -/
theorem expired_eq_false {lt : Ticks} {timer : Option Ticks} (h : ∀ e, timer = some e → signed32 lt e < 0) :
    expired lt timer = false := by
  cases timer with
  | none => rfl
  | some e =>
    simp only [expired, reached, decide_eq_false_iff_not, not_le]
    exact h e rfl

theorem ready_eq_false {k : PortState} (h : k.link = .down ∨ k.sending ≠ none) : k.ready = false := by
  rcases h with h | h
  · simp [PortState.ready, h]
  · cases e : k.sending with
    | none => exact absurd e h
    | some x => simp [PortState.ready, e]

/-- Settles O5, condition by condition. -/
theorem eventsNotDueChangeNothing : Obligations.EventsNotDueChangeNothing := by
  intro s
  refine ⟨fun t h => ?_, fun t h => ?_, fun p h => ?_, fun p h => ?_, fun p age o h => ?_, fun p h => ?_, fun p h => ?_,
    fun c h => ?_, fun c h => ?_, fun c p h => ?_, fun c h => ?_, fun p h => ?_⟩
  · have early : s.generatedDue t = false := by
      rcases h with h | h
      · simp [State.generatedDue, h]
      · simp only [State.generatedDue, Bool.and_eq_false_iff]
        exact .inr (decide_eq_false (not_le.mpr h))
    simp [exec, execGeneratedFrameEvent, early]
  · have early : s.frameStartDue t = false := by simpa [State.frameStartDue] using h
    simp [exec, execTransmitFrameStart, early]
  · simp [exec, execLinkUp, h]
  · simp [exec, execLinkDown, h]
  · simp [exec, execFrameArrival, h]
  · rcases or_assoc.mpr h with h | h
    · simp [exec, execCopyDeparture, ready_eq_false h]
    · simp [exec, execCopyDeparture, h]
  · rcases or_assoc.mpr h with h | h | h
    · simp [exec, execResponseDeparture, ready_eq_false h]
    · obtain ⟨x, l, e⟩ := List.exists_cons_of_ne_nil h
      simp [exec, execResponseDeparture, e]
    · simp [exec, execResponseDeparture, h]
  · simp [exec, execEngageTimerExpiry, expired_eq_false h]
  · simp [exec, execStarvationTimerExpiry, expired_eq_false h]
  · simp [exec, execPathTimerExpiry, expired_eq_false h]
  · simp [exec, execRestoreHoldOffExpiry, expired_eq_false h]
  · simp [exec, execManagementFrame, h]

end Sys2Proof.Machine

/-! PROOFS. Flags and event records, counters, and the refusals of their requests (section 11.2 to 11.4). -/

namespace Sys2Proof.Machine

variable {s : State}

/-! ### Setting a flag (R180, R181) -/

/-- Settles O51, from the three ways a flag is set. -/
theorem settingAFlagQueuesOneRecord : Obligations.SettingAFlagQueuesOneRecord := by
  intro s r d
  refine ⟨flag_raise_self s r d, fun q h => flag_raise_of_ne s d h, ?_⟩
  have run : SameRun s (s.raise r d) := ⟨lt_raise s r d, answer_raise s r d, draws_raise s r d, pending_raise s r d⟩
  rcases raise_cases s r d with ⟨isSet, e⟩ | ⟨unset, off, e⟩ | ⟨unset, on, e⟩
  · have never (unset : s.flag r = none) : False := by
      rw [unset] at isSet
      cases isSet
    exact ⟨fun _ => e, fun unset => (never unset).elim, fun unset => (never unset).elim, fun unset => (never unset).elim, run⟩
  · refine ⟨fun isSet => absurd unset isSet, fun _ _ => ?_, fun _ on => ?_, fun _ on => ?_, run⟩
    · rw [e]; exact ⟨events_withFlag s r _, overflow_withFlag s r _⟩
    · rw [on] at off; cases off
    · rw [on] at off; cases off
  · refine ⟨fun isSet => absurd unset isSet, fun _ off => ?_, fun _ _ room => ?_, fun _ _ full => ?_, run⟩
    · rw [on] at off; cases off
    · rw [e]
      rcases queueRecord_cases (s.withFlag r (some d)) ⟨r, s.lt, d⟩ with ⟨_, q⟩ | ⟨full, _⟩
      · rw [q]; exact ⟨by rw [events_withFlag], overflow_withFlag s r _⟩
      · rw [events_withFlag] at full; exact absurd room (not_lt.mpr full)
    · rw [e]
      rcases queueRecord_cases (s.withFlag r (some d)) ⟨r, s.lt, d⟩ with ⟨room, _⟩ | ⟨_, q⟩
      · rw [events_withFlag] at room; exact absurd room (not_lt.mpr full)
      · rw [q]; exact ⟨events_withFlag s r _, rfl⟩

/-! ### EVENTS_TAKE (R179) -/

theorem length_eventOctets (r : EventRecord) : r.octets.length = 8 := by
  cases h : r.flag <;> simp [EventRecord.octets, h, FlagRef.octets]

theorem length_flatten_of_length {α β : Type} {f : α → List β} {n : Nat} {l : List α} (h : ∀ x ∈ l, (f x).length = n) :
    (l.map f).flatten.length = n * l.length := by
  rw [List.length_flatten, List.map_map, List.map_congr_left (f := List.length ∘ f) (g := fun _ => n) h]
  simp [mul_comm]

theorem clampCount_eq (n : Byte) : clampCount n = max 1 (min 16 n.toNat) := clampNat_eq (by decide) _

theorem number_octets_of_lt {n v : Nat} (h : v < 256 ^ n) : number (octets n v) = v := by
  rw [number_octets, Nat.mod_eq_of_lt h]

/-- Settles O49: the records taken are the front of the queue. -/
theorem eventsTakeRemovesTheOldest : Obligations.EventsTakeRemovesTheOldest := by
  intro n s count
  have counted : clampCount n = count := clampCount_eq n
  have small : min count s.events.length < 256 ^ 1 := by simp only [count]; omega
  have kept : (if (s.events.take count).isEmpty then s.overflow else false) = if s.events = [] then s.overflow else false := by
    have positive : count ≠ 0 := by simp only [count]; omega
    cases s.events <;> simp [positive]
  refine ⟨resultOf 7 7 0 .ok (n.toNat != count) (octets 1 (s.events.take count).length
    ++ octets 1 (s.events.drop count).length ++ ((s.events.take count).map EventRecord.octets).flatten), ?_, rfl, rfl, ?_, ?_, ?_,
    ?_, ?_⟩
  · rw [← kept, ← counted]
    rfl
  · simp [resultOf]
  · have front := numberAt_append (front := []) (n := 1) (v := (s.events.take count).length)
      (back := octets 1 (s.events.drop count).length ++ ((s.events.take count).map EventRecord.octets).flatten) (offset := 0) rfl
    rw [List.nil_append, ← List.append_assoc] at front
    refine front.trans ?_
    rw [List.length_take, Nat.mod_eq_of_lt small]
  · intro bounded
    refine (numberAt_append (length_octets 1 _)).trans ?_
    rw [List.length_drop, Nat.mod_eq_of_lt (by omega)]
  · rw [resultOf, List.append_assoc, ← List.append_assoc, List.drop_left' (by simp)]
    rfl
  · simp only [resultOf, List.length_append, length_octets]
    rw [length_flatten_of_length (fun x _ => length_eventOctets x), List.length_take]

end Sys2Proof.Machine

/-! PROOFS. COUNTERS_READ, FLAGS_CLEAR and the refusals of R173 (R177, R178). -/

namespace Sys2Proof.Machine

variable {s : State}

/-! ### Updates that agree -/

theorem onCircuit_congr (s : State) (c : Fin 64) {f g : Circuit → Circuit} (h : f (s.circuit c) = g (s.circuit c)) :
    s.onCircuit c f = s.onCircuit c g := by simp only [State.onCircuit, h]

theorem onCircuit_self (s : State) (c : Fin 64) {f : Circuit → Circuit} (h : f (s.circuit c) = s.circuit c) :
    s.onCircuit c f = s := by
  rw [State.onCircuit, h]
  simp only [State.circuit, Vector.set_getElem_self]

theorem onTributary_congr (s : State) (t : Fin 16) {f g : Tributary → Tributary} (h : f (s.tributary t) = g (s.tributary t)) :
    s.onTributary t f = s.onTributary t g := by simp only [State.onTributary, h]

theorem onPort_congr (s : State) (p : Port) {f g : PortState → PortState} (h : f (s.port p) = g (s.port p)) :
    s.onPort p f = s.onPort p g := by simp only [State.onPort, h]

theorem onPort_self (s : State) (p : Port) {f : PortState → PortState} (h : f (s.port p) = s.port p) : s.onPort p f = s := by
  have same : s.ports.set p (s.port p) = s.ports := by cases p <;> rfl
  simp only [State.onPort, h, same]

/-! ### The data of a counters read -/

theorem take_drop_flatten {α : Type} {n : Nat} : ∀ {l : List (List α)}, (∀ x ∈ l, x.length = n) → ∀ {i : Nat} (h : i < l.length),
    (l.flatten.drop (n * i)).take n = l[i]
  | [], _, i, h => absurd h (Nat.not_lt_zero i)
  | x :: l, each, 0, _ => by
    rw [Nat.mul_zero, List.drop_zero, List.flatten_cons, List.take_left' (each x List.mem_cons_self)]
    rfl
  | x :: l, each, i + 1, h => by
    have rest := take_drop_flatten (l := l) (fun y hy => each y (.tail x hy)) (Nat.lt_of_succ_lt_succ h)
    rw [Nat.mul_succ, Nat.add_comm, ← List.drop_drop, List.flatten_cons, List.drop_left' (each x List.mem_cons_self), rest]
    rfl

theorem length_counterOctets {n : Nat} (v : Vector Nat n) : (counterOctets v).length = 4 * n := by
  rw [counterOctets, length_flatten_of_length (fun x _ => length_octets 4 x), Vector.length_toList]

theorem numberAt_counterOctets {n : Nat} (v : Vector Nat n) (i : Fin n) (h : v.get i ≤ 4294967295) :
    numberAt (counterOctets v) (4 * i.val) 4 = v.get i := by
  have each : ∀ x ∈ v.toList.map (octets 4), x.length = 4 := by
    intro x hx
    obtain ⟨y, _, rfl⟩ := List.mem_map.mp hx
    exact length_octets 4 y
  rw [numberAt, counterOctets, take_drop_flatten each (i := i.val) (by simp)]
  simp only [List.getElem_map, Vector.getElem_toList]
  exact number_octets_of_lt (Nat.lt_succ_of_le h)

theorem getElem_clearMasked {n : Nat} (mask : BitVec 32) (v : Vector (Option Detail) n) (i : Nat) (h : i < n) :
    (clearMasked mask v)[i] = if mask.getLsbD i then none else v[i] := by simp [clearMasked]

/-! ### Index octets -/

theorem readCircuit_eq_none (b : Byte) : readCircuit b = none ↔ 64 ≤ b.toNat := by simp [readCircuit]

theorem readTributary_eq_none (b : Byte) : readTributary b = none ↔ 16 ≤ b.toNat := by simp [readTributary]

theorem readPort_eq_none (b : Byte) : readPort b = none ↔ 2 ≤ b.toNat := by
  unfold readPort
  split
  · next h => simp [h]
  · next h => simp [h]
  · next zero one => exact ⟨fun _ => Nat.lt_of_le_of_ne (Nat.pos_of_ne_zero zero) (Ne.symm one), fun _ => rfl⟩

theorem toNat_eq_iff {b : Byte} {n : Nat} (h : n < 256) : b.toNat = n ↔ b = BitVec.ofNat 8 n :=
  ⟨byte_eq_of_toNat, fun e => by rw [e, BitVec.toNat_ofNat, Nat.mod_eq_of_lt h]⟩

/-! ### The refusals -/

/-- A request on an object kind with the given number of objects is refused for a kind it does not accept, and for an index beyond
the kind (R173). -/
def RefusedBeyond (s : State) (index : Byte) (run : State × Result) (verb kind : Byte) (size : Nat) : Prop :=
  (size = 0 → run = (s, resultOf verb kind index .badObject))
  ∧ (0 < size → size ≤ index.toNat → run = (s, resultOf verb kind index .badIndex))

theorem countersRead_refused (s : State) (index kind clear : Byte) :
    RefusedBeyond s index (s.countersRead kind index clear) 5 kind (if kind = 4 then 64 else if kind = 6 then 2 else 0) := by
  by_cases four : kind = 4
  · subst four
    refine ⟨nofun, fun _ beyond => ?_⟩
    rw [if_pos rfl] at beyond
    simp only [State.countersRead, BitVec.reduceToNat, (readCircuit_eq_none index).mpr beyond]
  by_cases six : kind = 6
  · subst six
    refine ⟨nofun, fun _ beyond => ?_⟩
    rw [if_neg (by decide), if_pos rfl] at beyond
    simp only [State.countersRead, BitVec.reduceToNat, (readPort_eq_none index).mpr beyond]
  rw [if_neg four, if_neg six]
  refine ⟨fun _ => ?_, nofun⟩
  unfold State.countersRead
  split
  · next h => exact absurd (byte_eq_of_toNat h) four
  · next h => exact absurd (byte_eq_of_toNat h) six
  · rfl

theorem flagsClear_refused (s : State) (index kind : Byte) (mask : BitVec 32) :
    RefusedBeyond s index (s.flagsClear kind index mask) 6 kind
      (if kind = 4 then 64 else if kind = 5 then 16 else if kind = 6 then 2 else 0) := by
  by_cases four : kind = 4
  · subst four
    refine ⟨nofun, fun _ beyond => ?_⟩
    rw [if_pos rfl] at beyond
    simp only [State.flagsClear, BitVec.reduceToNat, (readCircuit_eq_none index).mpr beyond]
  by_cases five : kind = 5
  · subst five
    refine ⟨nofun, fun _ beyond => ?_⟩
    rw [if_neg (by decide), if_pos rfl] at beyond
    simp only [State.flagsClear, BitVec.reduceToNat, (readTributary_eq_none index).mpr beyond]
  by_cases six : kind = 6
  · subst six
    refine ⟨nofun, fun _ beyond => ?_⟩
    rw [if_neg (by decide), if_neg (by decide), if_pos rfl] at beyond
    simp only [State.flagsClear, BitVec.reduceToNat, (readPort_eq_none index).mpr beyond]
  rw [if_neg four, if_neg five, if_neg six]
  refine ⟨fun _ => ?_, nofun⟩
  unfold State.flagsClear
  split
  · next h => exact absurd (byte_eq_of_toNat h) four
  · next h => exact absurd (byte_eq_of_toNat h) five
  · next h => exact absurd (byte_eq_of_toNat h) six
  · rfl

theorem tableWrite_refused (s : State) (index kind : Byte) (items : List FieldItem) :
    RefusedBeyond s index (s.tableWrite kind index items) 2 kind
      (if kind = 1 then 64 else if kind = 2 then 16 else if kind = 3 then 2 else 0) := by
  by_cases one : kind = 1
  · subst one
    refine ⟨nofun, fun _ beyond => ?_⟩
    rw [if_pos rfl] at beyond
    simp only [State.tableWrite, BitVec.reduceToNat, (readCircuit_eq_none index).mpr beyond]
  by_cases two : kind = 2
  · subst two
    refine ⟨nofun, fun _ beyond => ?_⟩
    rw [if_neg (by decide), if_pos rfl] at beyond
    simp only [State.tableWrite, BitVec.reduceToNat, (readTributary_eq_none index).mpr beyond]
  by_cases three : kind = 3
  · subst three
    refine ⟨nofun, fun _ beyond => ?_⟩
    rw [if_neg (by decide), if_neg (by decide), if_pos rfl] at beyond
    simp only [State.tableWrite, BitVec.reduceToNat, (readPort_eq_none index).mpr beyond]
  rw [if_neg one, if_neg two, if_neg three]
  refine ⟨fun _ => ?_, nofun⟩
  unfold State.tableWrite
  split
  · next h => exact absurd (byte_eq_of_toNat h) one
  · next h => exact absurd (byte_eq_of_toNat h) two
  · next h => exact absurd (byte_eq_of_toNat h) three
  · rfl

/-- A refused request answers its code and changes nothing else (R173). -/
theorem RefusedBeyond.answers {index verb kind : Byte} {run : State × Result} {size : Nat}
    (h : RefusedBeyond s index run verb kind size) {i : Instr} (row : exec i s = .next (run.1.answered run.2)) :
    (size = 0 → exec i s = .next { s with answer := some ⟨verb, kind, index, .badObject, false, []⟩ })
    ∧ (0 < size → size ≤ index.toNat → exec i s = .next { s with answer := some ⟨verb, kind, index, .badIndex, false, []⟩ }) :=
  ⟨fun none => by rw [row, h.1 none]; rfl, fun some beyond => by rw [row, h.2 some beyond]; rfl⟩

/-! ### The requests on one object -/

theorem countersRead_circuit {index clear : Byte} {c : Fin 64} (h : readCircuit index = some c) (low : clear.toNat ≤ 1) :
    s.countersRead 4 index clear = (s.onCircuit c (fun k =>
        { k with counters := (if clear = 1 then Vector.replicate 16 0 else k.counters) }),
      resultOf 5 4 index .ok false (counterOctets (s.circuit c).counters)) := by
  simp only [State.countersRead, BitVec.reduceToNat, h, if_neg (not_lt.mpr low)]
  by_cases cleared : clear = 1
  · simp only [if_pos cleared]
  · simp only [if_neg cleared]
    rw [onCircuit_self s c rfl]

theorem countersRead_port {index clear : Byte} {p : Port} (h : readPort index = some p) (low : clear.toNat ≤ 1) :
    s.countersRead 6 index clear = (s.onPort p (fun k =>
        { k with counters := (if clear = 1 then Vector.replicate 6 0 else k.counters) }),
      resultOf 5 6 index .ok false (counterOctets (s.port p).counters)) := by
  simp only [State.countersRead, BitVec.reduceToNat, h, if_neg (not_lt.mpr low)]
  by_cases cleared : clear = 1
  · simp only [if_pos cleared]
  · simp only [if_neg cleared]
    rw [onPort_self s p rfl]

theorem maskFits_iff (n : Nat) (mask : BitVec 32) : maskFits n mask = true ↔ mask.toNat < 2 ^ n := decide_eq_true_iff

theorem flagsClear_fits {index : Byte} {mask : BitVec 32} :
    (∀ c, readCircuit index = some c → mask.toNat < 2 ^ 14 → ∃ data, s.flagsClear 4 index mask
      = (s.onCircuit c (fun k => { k with flags := clearMasked mask k.flags }), resultOf 6 4 index .ok false data))
    ∧ (∀ t, readTributary index = some t → mask.toNat < 2 ^ 5 → ∃ data, s.flagsClear 5 index mask
      = (s.onTributary t (fun k => { k with flags := clearMasked mask k.flags }), resultOf 6 5 index .ok false data))
    ∧ (∀ p, readPort index = some p → mask.toNat < 2 ^ 3 → ∃ data, s.flagsClear 6 index mask
      = (s.onPort p (fun k => { k with flags := clearMasked mask k.flags }), resultOf 6 6 index .ok false data)) := by
  refine ⟨fun c h fits => ?_, fun t h fits => ?_, fun p h fits => ?_⟩ <;>
    simp only [State.flagsClear, BitVec.reduceToNat, h, (maskFits_iff _ mask).mpr fits, if_true] <;>
    exact ⟨_, rfl⟩

theorem flagsClear_misfits {index : Byte} {mask : BitVec 32} :
    (∀ c, readCircuit index = some c → 2 ^ 14 ≤ mask.toNat → s.flagsClear 4 index mask = (s, resultOf 6 4 index .badValue))
    ∧ (∀ t, readTributary index = some t → 2 ^ 5 ≤ mask.toNat → s.flagsClear 5 index mask = (s, resultOf 6 5 index .badValue))
    ∧ (∀ p, readPort index = some p → 2 ^ 3 ≤ mask.toNat → s.flagsClear 6 index mask = (s, resultOf 6 6 index .badValue)) := by
  have beyond {n : Nat} (h : 2 ^ n ≤ mask.toNat) : ¬maskFits n mask = true := fun f =>
    absurd ((maskFits_iff n mask).mp f) (not_lt.mpr h)
  refine ⟨fun c h m => ?_, fun t h m => ?_, fun p h m => ?_⟩ <;>
    simp only [State.flagsClear, BitVec.reduceToNat, h, if_neg (beyond m)]

theorem flag_clearMasked (mask : BitVec 32) :
    (∀ c f, (s.onCircuit c (fun k => { k with flags := clearMasked mask k.flags })).flag (.circuit c f)
      = if mask.getLsbD f.code.val then none else s.flag (.circuit c f))
    ∧ (∀ t f, (s.onTributary t (fun k => { k with flags := clearMasked mask k.flags })).flag (.tributary t f)
      = if mask.getLsbD f.code.val then none else s.flag (.tributary t f))
    ∧ (∀ p f, (s.onPort p (fun k => { k with flags := clearMasked mask k.flags })).flag (.port p f)
      = if mask.getLsbD f.code.val then none else s.flag (.port p f)) := by
  refine ⟨fun c f => ?_, fun t f => ?_, fun p f => ?_⟩
  · simp only [State.flag, circuit_onCircuit_self, getElem_clearMasked]
  · simp only [State.flag, tributary_onTributary_self, getElem_clearMasked]
  · simp only [State.flag, port_onPort_self, getElem_clearMasked]

/-- Settles O48, object by object. -/
theorem countersReadFlagsClearAndRefusals : Obligations.CountersReadFlagsClearAndRefusals := by
  intro index s answering
  have counters (kind clear : Byte) : exec (.countersRead kind index clear) s
      = .next ((s.countersRead kind index clear).1.answered (s.countersRead kind index clear).2) := rfl
  have flags (kind : Byte) (mask : BitVec 32) : exec (.flagsClear kind index mask) s
      = .next ((s.flagsClear kind index mask).1.answered (s.flagsClear kind index mask).2) := rfl
  refine ⟨fun c h => ⟨fun clear low => ?_, fun clear high => ?_, fun mask fits => ?_, fun mask beyond => ?_⟩,
    fun t h => ⟨fun mask fits => ?_, fun mask beyond => ?_⟩,
    fun p h => ⟨fun clear low => ?_, fun clear high => ?_, fun mask fits => ?_, fun mask beyond => ?_⟩,
    fun kind => ⟨fun clear => ?_, fun mask => ?_, fun items => ?_⟩⟩
  · exact ⟨_, by rw [counters, countersRead_circuit h low]; rfl, length_counterOctets _, fun i => numberAt_counterOctets _ i⟩
  · rw [counters]
    simp only [State.countersRead, BitVec.reduceToNat, h, if_pos high]
    rfl
  · obtain ⟨data, e⟩ := (flagsClear_fits (s := s)).1 c h fits
    refine ⟨(s.onCircuit c (fun k => { k with flags := clearMasked mask k.flags })).answered (resultOf 6 4 index .ok false data), data,
      by rw [flags, e], ?_, (flag_clearMasked mask).1 c⟩
    have row : (((s.onCircuit c (fun k => { k with flags := clearMasked mask k.flags })).answered
        (resultOf 6 4 index .ok false data)).circuit c).flags = clearMasked mask (s.circuit c).flags := by
      rw [circuit_answered, circuit_onCircuit_self]
    rw [row]
    exact congrArg (fun v => answering v 6 4 .ok data) (onCircuit_congr s c rfl)
  · rw [flags, flagsClear_misfits.1 c h beyond]
    rfl
  · obtain ⟨data, e⟩ := (flagsClear_fits (s := s)).2.1 t h fits
    refine ⟨(s.onTributary t (fun k => { k with flags := clearMasked mask k.flags })).answered (resultOf 6 5 index .ok false data), data,
      by rw [flags, e], ?_, (flag_clearMasked mask).2.1 t⟩
    have row : (((s.onTributary t (fun k => { k with flags := clearMasked mask k.flags })).answered
        (resultOf 6 5 index .ok false data)).tributary t).flags = clearMasked mask (s.tributary t).flags := by
      rw [tributary_answered, tributary_onTributary_self]
    rw [row]
    exact congrArg (fun v => answering v 6 5 .ok data) (onTributary_congr s t rfl)
  · rw [flags, flagsClear_misfits.2.1 t h beyond]
    rfl
  · exact ⟨_, by rw [counters, countersRead_port h low]; rfl, length_counterOctets _, fun i => numberAt_counterOctets _ i⟩
  · rw [counters]
    simp only [State.countersRead, BitVec.reduceToNat, h, if_pos high]
    rfl
  · obtain ⟨data, e⟩ := (flagsClear_fits (s := s)).2.2 p h fits
    refine ⟨(s.onPort p (fun k => { k with flags := clearMasked mask k.flags })).answered (resultOf 6 6 index .ok false data), data,
      by rw [flags, e], ?_, (flag_clearMasked mask).2.2 p⟩
    have row : (((s.onPort p (fun k => { k with flags := clearMasked mask k.flags })).answered
        (resultOf 6 6 index .ok false data)).port p).flags = clearMasked mask (s.port p).flags := by
      rw [port_answered, port_onPort_self]
    rw [row]
    exact congrArg (fun v => answering v 6 6 .ok data) (onPort_congr s p rfl)
  · rw [flags, flagsClear_misfits.2.2 p h beyond]
    rfl
  · exact (countersRead_refused s index kind clear).answers rfl
  · exact (flagsClear_refused s index kind mask).answers rfl
  · exact (tableWrite_refused s index kind items).answers rfl

end Sys2Proof.Machine

/-! PROOFS. The circuit commands (R53 to R58). -/

namespace Sys2Proof.Machine

variable {s : State} {c : Fin 64}

/-! ### Flags of an object in which a rule has set one -/

theorem getElem_raisedRow {n : Nat} (v : Vector (Option Detail) n) (i j : Fin n) (d : Detail) :
    (raisedRow v i d)[j.val] = if j = i then some ((v[j.val]).getD d) else v[j.val] := by
  split
  · next e => subst e; simp [raisedRow]
  · next e =>
    have : i.val ≠ j.val := fun h => e (Fin.ext h.symm)
    simp [raisedRow, Vector.getElem_set_ne, this]

theorem raisedRow_circuitFlag (v : Vector (Option Detail) 14) (f g : CircuitFlag) (d : Detail) :
    (raisedRow v f.code d)[g.code.val] = if g = f then some ((v[g.code.val]).getD d) else v[g.code.val] := by
  have same : g.code = f.code ↔ g = f := ⟨CircuitFlag.code_injective, fun e => by rw [e]⟩
  rw [getElem_raisedRow]
  simp only [same]

theorem flag_circuit_of_raised {u : State} {k : Circuit} {f : CircuitFlag} {d : Detail} (h : u.circuit c = k.raised f d)
    (flags : k.flags = (s.circuit c).flags) (g : CircuitFlag) :
    u.flag (.circuit c g) = if g = f then s.flagAfter (.circuit c f) d else s.flag (.circuit c g) := by
  simp only [State.flag, State.flagAfter, h, Circuit.raised, raisedRow_circuitFlag, flags]
  split
  · next e => rw [e]
  · rfl

theorem flag_circuit_of_raisedIf {u : State} {k : Circuit} {b : Bool} {f : CircuitFlag} {d : Detail}
    (h : u.circuit c = k.raisedIf b f d) (flags : k.flags = (s.circuit c).flags) (g : CircuitFlag) :
    u.flag (.circuit c g) = if b = true ∧ g = f then s.flagAfter (.circuit c f) d else s.flag (.circuit c g) := by
  cases b with
  | false => simp [State.flag, h, Circuit.raisedIf_false, flags]
  | true =>
    rw [Circuit.raisedIf_true] at h
    simp only [flag_circuit_of_raised h flags, true_and]

theorem flag_tributary_of_raised {u : State} {t : Fin 16} {k : Tributary} {f : TributaryFlag} {d : Detail}
    (h : u.tributary t = k.raised f d) (flags : k.flags = (s.tributary t).flags) (g : TributaryFlag) :
    u.flag (.tributary t g) = if g = f then s.flagAfter (.tributary t f) d else s.flag (.tributary t g) := by
  have same : g.code = f.code ↔ g = f := ⟨TributaryFlag.code_injective, fun e => by rw [e]⟩
  simp only [State.flag, State.flagAfter, h, Tributary.raised, getElem_raisedRow, flags, same]
  split
  · next e => rw [e]
  · rfl

/-- R153, from what has become of each tributary. -/
theorem timingLeft_of {u : State} (h : ∀ t, (s.times c t ∧ u.tributary t = (s.tributary t).untimed (s.circuit c).recovery.mean)
    ∨ (¬s.times c t ∧ u.tributary t = s.tributary t)) : TimingLeft s u c := by
  unfold State.times at h
  intro t
  rcases h t with ⟨timed, e⟩ | ⟨other, e⟩
  · rw [if_pos timed]
    cases mean : meanTowardZero (s.circuit c).recovery.history with
    | none =>
      rw [Recovery.mean, mean] at e
      exact ⟨by rw [e]; rfl, by
        rw [flag_tributary_of_raised (s := s) e rfl, if_pos rfl]⟩
    | some m =>
      rw [Recovery.mean, mean] at e
      exact ⟨by rw [e]; rfl, by
        rw [flag_tributary_of_raised (s := s) e rfl, if_pos rfl]⟩
  · rw [if_neg other]
    exact e

theorem timingLeft_of_leavesPlaying {w : State} (entry : (w.circuit c).entry = (s.circuit c).entry)
    (tributaries : w.tributaries = s.tributaries) (playing : (s.circuit c).control.state = .playing) :
    TimingLeft s (w.leavesPlaying c (s.circuit c).control.state (s.circuit c).recovery.mean) c := by
  classical
  have tributary := State.tributary_congr tributaries
  have times (t : Fin 16) : w.times c t ↔ s.times c t := by simp only [State.times, entry, tributary]
  refine timingLeft_of (fun t => ?_)
  rw [State.leavesPlaying, if_pos playing, tributary_timingLeavesPlaying, tributary]
  by_cases timed : s.times c t
  · rw [if_pos ((times t).mpr timed)]; exact .inl ⟨timed, rfl⟩
  · rw [if_neg (fun h => timed ((times t).mp h))]; exact .inr ⟨timed, rfl⟩

theorem tributaries_leavesPlaying_of_ne {w : State} {was : CircuitState} (h : was ≠ .playing) (mean : Option Int) :
    w.leavesPlaying c was mean = w := if_neg h

/-! ### What RELEASE and REACQUIRE make of a circuit, of its ports and of its tributary -/

theorem port_releaseEngaged (s : State) (c : Fin 64) (flagged : Bool) (p : Port) : (s.releaseEngaged c flagged).port p
    = { s.port p with circuitQueue := (s.port p).circuitQueue.filter (fun x => x.circuit != c) } := by
  rw [State.port_congr (releaseEngaged_only s c flagged).ports, removeCopies_port]

@[simp] theorem lt_loseLock (s : State) (c : Fin 64) : (s.loseLock c).lt = s.lt := (loseLock_only s c).run.lt

/-- A circuit after REACQUIRE, before the flags it sets (R57). -/
def Circuit.reacquired (k : Circuit) (lt : Ticks) : Circuit :=
  { k with
    control := { k.control with
      state := .awaiting, mismatchRun := 0, lateRun := 0, starvationTimer := none
      engageTimer := some (lt + BitVec.ofNat 32 (k.entry.engageTimeout * 8192000)) }
    buffer := { k.buffer.flush with pointer := none }
    recovery := { k.recovery.unlock with rt := none, window := none }
    merge := { k.merge with holdOff := none, active := freshActive k.entry.policy k.merge.up } }

theorem circuit_reacquire (s : State) (c : Fin 64) : (s.reacquire c).circuit c
    = (((s.circuit c).reacquired s.lt).raisedIf (s.circuit c).recovery.locked .lockLost .none).raised .stateChanged
      (.circuitState .awaiting) := by
  unfold State.reacquire
  rw [circuit_leavesPlaying, circuit_enter]
  simp [State.refreshActive, State.startEngageTimer, circuit_loseLock, Circuit.reacquired, Circuit.raisedIf, Recovery.unlock,
    expiryAfter, secondsToTicks]

/-! ### The commands as requests -/

theorem commandRow_eq {index : Byte} (h : readCircuit index = some c) (command path : Byte) :
    s.commandRow index command path = (s.circuitCommand c command path).1.answered
      (resultOf 3 4 index (s.circuitCommand c command path).2 false ((s.circuitCommand c command path).1.circuitData c)) := by
  simp only [State.commandRow, State.command, BitVec.reduceToNat, h]

theorem commandRow_badIndex {index : Byte} (h : 64 ≤ index.toNat) (command path : Byte) :
    s.commandRow index command path = s.answered (resultOf 3 4 index .badIndex) := by
  simp only [State.commandRow, State.command, BitVec.reduceToNat, (readCircuit_eq_none index).mpr h]

theorem circuitCommand_engage (path : Byte) (h : s.judgeEngage c = .ok) : s.circuitCommand c 1 path = (s.engage c, .ok) := by
  simp only [State.circuitCommand, BitVec.reduceToNat, h]

theorem circuitCommand_engage_refused (path : Byte) {code : Code} (other : code ≠ .ok) (h : s.judgeEngage c = code) :
    s.circuitCommand c 1 path = (s, code) := by
  subst h
  simp only [State.circuitCommand, BitVec.reduceToNat]

theorem circuitCommand_release (path : Byte) : s.circuitCommand c 2 path = (s.release c, .ok) := by
  simp only [State.circuitCommand, BitVec.reduceToNat]

theorem circuitCommand_reacquire (path : Byte) : s.circuitCommand c 3 path
    = if (s.circuit c).control.state.reacquirable then (s.reacquire c, .ok) else (s, .wrongState) := by
  simp only [State.circuitCommand, BitVec.reduceToNat]

/-! ### ENGAGE (R54, R55) -/

theorem framingOf_some {e : CircuitEntry} {t : Fin 16} (h : e.tributary = some t) :
    s.framingOf e = (s.tributary t).entry.framing := by simp only [State.framingOf, h]

/-- The judgement of ENGAGE, step by step (R54). -/
theorem judgeEngage_eq (s : State) (c : Fin 64) : s.judgeEngage c =
    if (s.circuit c).engaged = true then .wrongState
    else if s.framingOf (s.circuit c).entry = .off
        ∨ (s.framingOf (s.circuit c).entry = .framed ∧ (s.circuit c).entry.slotSet = 0) ∨ (s.circuit c).entry.inLabel = 0
        ∨ ((s.circuit c).entry.paths.a = none ∧ (s.circuit c).entry.paths.b = none) then .notReady
    else if s.framingOf (s.circuit c).entry = .unframed ∧ allCircuits.any (fun d => d != c && (s.circuit d).engaged
        && (s.circuit d).entry.tributary == (s.circuit c).entry.tributary) = true then .slotConflict
    else if packetMemory < s.totalReserved + reservationSize (s.framingOf (s.circuit c).entry) (s.circuit c).entry then .noMemory
    else .ok := rfl

theorem judgeEngage_of_steps {t : Fin 16} {framing : Framing} (off : (s.circuit c).control.state = .disabled)
    (framingEq : s.framingOf (s.circuit c).entry = framing) (named : (s.circuit c).entry.tributary = some t) (notOff : framing ≠ .off)
    (slots : framing = .framed → (s.circuit c).entry.slotSet ≠ 0) (label : (s.circuit c).entry.inLabel ≠ 0)
    (paths : (s.circuit c).entry.paths.a ≠ none ∨ (s.circuit c).entry.paths.b ≠ none)
    (alone : framing = .unframed → ∀ d, d ≠ c → (s.circuit d).engaged = true → (s.circuit d).entry.tributary ≠ some t)
    (room : s.totalReserved + reservationSize framing (s.circuit c).entry ≤ packetMemory) : s.judgeEngage c = .ok := by
  rw [judgeEngage_eq, framingEq, if_neg (by rw [engaged_iff, not_not]; exact off), if_neg, if_neg, if_neg (not_lt.mpr room)]
  · rw [any_allCircuits]
    rintro ⟨unframed, d, joined⟩
    simp only [Bool.and_eq_true, bne_iff_ne, beq_iff_eq] at joined
    exact alone unframed d joined.1.1 joined.1.2 (joined.2.trans named)
  · rintro (h | ⟨h, h'⟩ | h | ⟨h, h'⟩)
    · exact notOff h
    · exact slots h h'
    · exact label h
    · exact paths.elim (· h) (· h')

/-- Settles O44, from the circuit ENGAGE starts. -/
theorem engageStartsTheCircuit : Obligations.EngageStartsTheCircuit := by
  intro index c t s read k framing size off named notOff slots label paths alone room
  have framingEq : s.framingOf (s.circuit c).entry = framing := framingOf_some named
  have ok : s.judgeEngage c = .ok := judgeEngage_of_steps off framingEq named notOff slots label paths alone room
  have row : exec (.engage index) s = .next ((s.engage c).answered (resultOf 3 4 index .ok false ((s.engage c).circuitData c))) := by
    show Host.Outcome.next (s.commandRow index 1 0) = _
    rw [commandRow_eq read, circuitCommand_engage 0 ok]
  have started := circuit_engage s c
  have only := engage_only s c
  have same := engage_tributaries s c
  have total := totalReserved_engage (s := s) (c := c) off
  rw [framingEq] at started total
  refine ⟨_, row, ?_⟩
  generalize s.engage c = u at started only same total
  have data : u.circuitData c = [1, 0] := by
    simp only [State.circuitData, started]
    rfl
  rw [data]
  exact ⟨⟨⟨only.run.lt, rfl, only.run.draws, only.run.pending⟩, only.events, only.ports, only.others, only.entry,
    only.lines, only.tributaries⟩, same, by rw [circuit_answered, started]; rfl,
    by rw [flag_answered, flag_circuit_of_raised started rfl, if_pos rfl], total, rfl⟩

/-! ### RELEASE and REACQUIRE (R56, R57) -/

theorem flag_releaseEngaged (s : State) (c : Fin 64) (f : CircuitFlag) : (s.releaseEngaged c true).flag (.circuit c f)
    = if f = .stateChanged then s.flagAfter (.circuit c .stateChanged) (.circuitState .disabled) else s.flag (.circuit c f) := by
  simp only [flag_circuit_of_raisedIf (circuit_releaseEngaged s c true) rfl, true_and]

theorem timingLeft_release (s : State) (c : Fin 64) (playing : (s.circuit c).control.state = .playing) :
    TimingLeft s (s.releaseEngaged c true) c := by
  refine timingLeft_of (fun t => ?_)
  rcases tributary_releaseEngaged s c true t with ⟨-, timed, e⟩ | ⟨other, e⟩
  · exact .inl ⟨timed, e⟩
  · exact .inr ⟨fun timed => other ⟨playing, timed⟩, e⟩

theorem tributaries_release (s : State) (c : Fin 64) (other : (s.circuit c).control.state ≠ .playing) :
    (s.releaseEngaged c true).tributaries = s.tributaries := by
  refine State.tributaries_ext (fun t => ?_)
  rcases tributary_releaseEngaged s c true t with ⟨playing, -, -⟩ | ⟨-, e⟩
  · exact absurd playing other
  · exact e

/-- Settles O45, from what a release makes of the circuit, of each port and of each tributary. -/
theorem releaseReturnsToDisabled : Obligations.ReleaseReturnsToDisabled := by
  intro index c s read
  have row : exec (.release index) s = .next ((s.release c).answered (resultOf 3 4 index .ok false ((s.release c).circuitData c))) := by
    show Host.Outcome.next (s.commandRow index 2 0) = _
    rw [commandRow_eq read, circuitCommand_release]
  rw [row]
  refine ⟨fun engaged => ?_, fun free => ?_⟩
  · have released : s.release c = s.releaseEngaged c true := if_pos engaged
    rw [released]
    have bare := circuit_releaseEngaged s c true
    have flags := flag_releaseEngaged s c
    have only := releaseEngaged_only s c true
    have ports := port_releaseEngaged s c true
    have left := timingLeft_release s c
    have kept := tributaries_release s c
    generalize s.releaseEngaged c true = u at bare flags only ports left kept
    have data : u.circuitData c = [0, 0] := by
      simp only [State.circuitData, bare]
      rfl
    rw [data]
    refine ⟨_, rfl, ?_, ?_, fun f other => ?_, only.events, fun d other => ?_, ports, left, kept, only.run.lt, rfl⟩
    · rw [circuit_answered, bare]
      rfl
    · rw [flag_answered, flags, if_pos rfl]
    · rw [flag_answered, flags, if_neg other]
    · rw [circuit_answered, only.others d other, State.circuit_congr (removeCopies_circuits s c)]
  · have same : s.release c = s := if_neg (by rw [free]; decide)
    rw [same]
    exact ⟨_, rfl⟩

/-- REACQUIRE is a change of the circuit alone, but for what leaving PLAYING does to the tributary it times. -/
theorem reacquire_eq (s : State) (c : Fin 64) : ∃ w, OnlyCircuit s w c ∧ w.tributaries = s.tributaries
    ∧ s.reacquire c = w.leavesPlaying c (s.circuit c).control.state (s.circuit c).recovery.mean := by
  refine ⟨_, ?_, ?_, rfl⟩
  · exact (((((OnlyCircuit.onCircuit s c _ rfl).trans (loseLock_only _ c)).thenControl _).trans (startEngageTimer_only _ c)).trans
      (refreshActive_only _ c)).trans (enter_only _ c .awaiting)
  · rw [tributaries_enter]
    exact (loseLock_runs _ c).tributaries

theorem timingLeft_reacquire (s : State) (c : Fin 64) (playing : (s.circuit c).control.state = .playing) :
    TimingLeft s (s.reacquire c) c := by
  obtain ⟨w, only, tributaries, e⟩ := reacquire_eq s c
  rw [e]
  exact timingLeft_of_leavesPlaying only.entry tributaries playing

theorem tributaries_reacquire (s : State) (c : Fin 64) (other : (s.circuit c).control.state ≠ .playing) :
    (s.reacquire c).tributaries = s.tributaries := by
  obtain ⟨w, -, tributaries, e⟩ := reacquire_eq s c
  rw [e, tributaries_leavesPlaying_of_ne other, tributaries]

theorem flag_reacquire (s : State) (c : Fin 64) :
    (s.reacquire c).flag (.circuit c .stateChanged) = s.flagAfter (.circuit c .stateChanged) (.circuitState .awaiting)
    ∧ (s.reacquire c).flag (.circuit c .lockLost) = (if (s.circuit c).recovery.locked then s.flagAfter (.circuit c .lockLost) .none
      else s.flag (.circuit c .lockLost)) := by
  simp only [State.flag, State.flagAfter, circuit_reacquire, Circuit.raised, Circuit.raisedIf, Circuit.reacquired]
  constructor
  · split <;> simp [raisedRow_circuitFlag]
  · split <;> simp [raisedRow_circuitFlag]

/-- Settles O46, from the circuit REACQUIRE leaves. -/
theorem reacquireReturnsToAwaiting : Obligations.ReacquireReturnsToAwaiting := by
  intro index c s read k states
  have taken : (s.circuit c).control.state.reacquirable = true := by
    rcases states with h | h | h <;> (show k.control.state.reacquirable = true; rw [h]; rfl)
  have row : exec (.reacquire index) s
      = .next ((s.reacquire c).answered (resultOf 3 4 index .ok false ((s.reacquire c).circuitData c))) := by
    show Host.Outcome.next (s.commandRow index 3 0) = _
    rw [commandRow_eq read, circuitCommand_reacquire, if_pos taken]
  have engaged : (s.circuit c).control.state ≠ .disabled := by
    rcases states with h | h | h <;> (show k.control.state ≠ .disabled; rw [h]; decide)
  have left (playing : k.control.state = .playing) : TimingLeft s (s.reacquire c) c := timingLeft_reacquire s c playing
  have kept (other : k.control.state ≠ .playing) : (s.reacquire c).tributaries = s.tributaries := tributaries_reacquire s c other
  have again := circuit_reacquire s c
  have lock := flag_reacquire s c
  have only := reacquire_only s c
  rw [row]
  refine ⟨_, rfl, ?_⟩
  generalize s.reacquire c = u at again lock only left kept
  exact ⟨⟨⟨only.run.lt, rfl, only.run.draws, only.run.pending⟩, only.events, only.ports, only.others, only.entry,
    only.lines, only.tributaries⟩, by rw [circuit_answered, again]; exact ⟨rfl, rfl, rfl, rfl, rfl, rfl, rfl⟩,
    lock.1, lock.2, left, kept, _, rfl⟩

/-! ### FORCE_PATH and the refusals (R53, R54, R57, R58) -/

theorem circuitCommand_forcePath {path : Byte} {p : Option Port} (h : readPath path = some p) (engaged : (s.circuit c).engaged = true) :
    s.circuitCommand c 4 path = (s.forcePath c p, .ok) := by
  simp only [State.circuitCommand, BitVec.reduceToNat, h, if_pos engaged]

theorem readPath_eq_none {path : Byte} (h : 2 < path.toNat) : readPath path = none := by
  unfold readPath
  generalize path.toNat = n at h ⊢
  match n, h with
  | _ + 3, _ => rfl

theorem readPath_isSome {path : Byte} (h : path.toNat ≤ 2) : ∃ p, readPath path = some p := by
  unfold readPath
  generalize path.toNat = n at h ⊢
  match n, h with
  | 0, _ => exact ⟨_, rfl⟩
  | 1, _ => exact ⟨_, rfl⟩
  | 2, _ => exact ⟨_, rfl⟩

theorem circuitCommand_forcePath_badValue {path : Byte} (h : 2 < path.toNat) : s.circuitCommand c 4 path = (s, .badValue) := by
  simp only [State.circuitCommand, BitVec.reduceToNat, readPath_eq_none h]

theorem circuitCommand_forcePath_wrongState {path : Byte} (h : path.toNat ≤ 2) (free : (s.circuit c).engaged = false) :
    s.circuitCommand c 4 path = (s, .wrongState) := by
  obtain ⟨p, read⟩ := readPath_isSome h
  simp only [State.circuitCommand, BitVec.reduceToNat, read, free, Bool.false_eq_true, if_false]

/-- A circuit command that is refused changes nothing but the answer. -/
theorem commandRow_refused {index : Byte} (h : readCircuit index = some c) {command path : Byte} {code : Code}
    (refused : s.circuitCommand c command path = (s, code)) : s.commandRow index command path
      = s.answered ⟨3, 4, index, code, false,
          [BitVec.ofNat 8 (s.circuit c).control.state.code, BitVec.ofNat 8 (pathCode (s.circuit c).merge.forced)]⟩ := by
  rw [commandRow_eq h, refused]
  rfl

/-- Settles O47, from the judgement of each command. -/
theorem forcePathAndCommandRefusals : Obligations.ForcePathAndCommandRefusals := by
  intro index s
  refine ⟨fun c path p read given engaged => ?_, fun i far listed => ?_, fun far path => ?_, fun c read => ?_⟩
  · have row : exec (.forcePath index path) s = .next ((s.forcePath c p).answered
        (resultOf 3 4 index .ok false ((s.forcePath c p).circuitData c))) := by
      show Host.Outcome.next (s.commandRow index 4 path) = _
      rw [commandRow_eq read, circuitCommand_forcePath given engaged]
    exact ⟨_, row⟩
  · simp only [List.mem_cons, List.not_mem_nil, or_false] at listed
    rcases listed with e | e | e <;> subst e
    · exact congrArg Host.Outcome.next (commandRow_badIndex far 1 0)
    · exact congrArg Host.Outcome.next (commandRow_badIndex far 2 0)
    · exact congrArg Host.Outcome.next (commandRow_badIndex far 3 0)
  · exact congrArg Host.Outcome.next (commandRow_badIndex far 4 path)
  · intro k framing refused ready shared
    have engage {code : Code} (other : code ≠ .ok) (judged : s.judgeEngage c = code) : refused (.engage index) code :=
      congrArg Host.Outcome.next (commandRow_refused read (circuitCommand_engage_refused 0 other judged))
    have sharing : (framing = .unframed ∧ allCircuits.any (fun d => d != c && (s.circuit d).engaged
        && (s.circuit d).entry.tributary == k.entry.tributary) = true) ↔ shared := by
      rw [any_allCircuits]
      simp only [Bool.and_eq_true, bne_iff_ne, beq_iff_eq, and_assoc, shared]
    have readying : ¬(framing = .off ∨ (framing = .framed ∧ k.entry.slotSet = 0) ∨ k.entry.inLabel = 0
        ∨ (k.entry.paths.a = none ∧ k.entry.paths.b = none)) ↔ ready := by
      simp only [ready, not_or, ne_eq, ← not_and_or, not_and]
    have judge := judgeEngage_eq s c
    refine ⟨fun path big => ?_, fun path small free => ?_, fun states => ?_, fun engaged => ?_, fun free unready => ?_,
      fun free isReady isShared => ?_, fun free isReady alone full => ?_⟩
    · exact congrArg Host.Outcome.next (commandRow_refused read (circuitCommand_forcePath_badValue big))
    · exact congrArg Host.Outcome.next (commandRow_refused read (circuitCommand_forcePath_wrongState small free))
    · refine congrArg Host.Outcome.next (commandRow_refused read ((circuitCommand_reacquire 0).trans (if_neg ?_)))
      rcases states with h | h <;> (show ¬k.control.state.reacquirable = true; rw [h]; decide)
    · exact engage (by decide) (judge.trans (if_pos engaged))
    · rw [if_neg (by rw [free]; decide), if_pos (not_not.mp (fun h => unready (readying.mp h)))] at judge
      exact engage (by decide) judge
    · rw [if_neg (by rw [free]; decide), if_neg (readying.mpr isReady), if_pos (sharing.mpr isShared)] at judge
      exact engage (by decide) judge
    · rw [if_neg (by rw [free]; decide), if_neg (readying.mpr isReady), if_neg (fun h => alone (sharing.mp h)),
        if_pos (show packetMemory < _ from full)] at judge
      exact engage (by decide) judge

end Sys2Proof.Machine

/-! PROOFS. RESTART (R183, R159). -/

namespace Sys2Proof.Machine

variable {s : State} {c : Fin 64} {t : Fin 16}

/-- One engaged circuit released by RESTART, without its flag (R183 step 1). -/
def State.releaseOne (s : State) (c : Fin 64) : State := if (s.circuit c).engaged then s.releaseEngaged c false else s

theorem releaseList_cons (x : Fin 64) (l : List (Fin 64)) (s : State) :
    State.releaseList (x :: l) s = State.releaseList l (s.releaseOne x) := rfl

theorem circuit_releaseOne (s : State) (x c : Fin 64) : (s.releaseOne x).circuit c
    = if x = c ∧ (s.circuit c).engaged = true then (s.circuit c).disabledForm else s.circuit c := by
  unfold State.releaseOne
  by_cases engaged : (s.circuit x).engaged = true
  · rw [if_pos engaged]
    by_cases same : x = c
    · subst same
      rw [if_pos ⟨rfl, engaged⟩, circuit_releaseEngaged]
      rfl
    · rw [if_neg (fun h => same h.1), (releaseEngaged_only s x false).others c (fun e => same e.symm),
        State.circuit_congr (removeCopies_circuits s x)]
  · rw [if_neg engaged, if_neg]
    rintro ⟨rfl, h⟩
    exact engaged h

theorem disabledForm_engaged (k : Circuit) : k.disabledForm.engaged = false := rfl

theorem circuit_releaseList (l : List (Fin 64)) (s : State) (c : Fin 64) : (State.releaseList l s).circuit c
    = if c ∈ l ∧ (s.circuit c).engaged = true then (s.circuit c).disabledForm else s.circuit c := by
  induction l generalizing s with
  | nil => simp [State.releaseList, forEach]
  | cons x l ih =>
    rw [releaseList_cons, ih, circuit_releaseOne]
    by_cases same : x = c
    · subst same
      by_cases engaged : (s.circuit x).engaged = true
      · simp [engaged, disabledForm_engaged]
      · simp [engaged]
    · have other : c ≠ x := fun e => same e.symm
      simp [same, other]

/-- What a release of every circuit of a list leaves of a port: all but its circuit queue. -/
theorem port_releaseList (l : List (Fin 64)) (s : State) (p : Port) :
    ∃ q, (State.releaseList l s).port p = { s.port p with circuitQueue := q } := by
  refine forEach_relation (fun s u => ∃ q, u.port p = { s.port p with circuitQueue := q }) (fun s => ⟨_, rfl⟩) ?_ _ (fun c s => ?_) l s
  · rintro s u w ⟨q, e⟩ ⟨r, e'⟩
    exact ⟨r, by rw [e', e]⟩
  · split
    · exact ⟨_, port_releaseEngaged s c false p⟩
    · exact ⟨_, rfl⟩

theorem run_releaseList (l : List (Fin 64)) (s : State) : SameRun s (State.releaseList l s) := by
  refine forEach_relation SameRun .refl .trans _ (fun c s => ?_) l s
  split
  · have removed : SameRun s (s.removeCopies c) := ⟨rfl, rfl, rfl, rfl⟩
    exact removed.trans (releaseEngaged_only s c false).run
  · exact .refl s

/-- R153 at a RESTART: a tributary whose timing circuit plays falls back on its history mean, and no other circuit's release
touches it. -/
theorem tributary_releaseOne (s : State) (x : Fin 64) (t : Fin 16) [Decidable (s.times x t)] : (s.releaseOne x).tributary t
    = if (s.circuit x).control.state = .playing ∧ s.times x t then (s.tributary t).untimed (s.circuit x).recovery.mean
      else s.tributary t := by
  unfold State.releaseOne
  split
  · rcases tributary_releaseEngaged s x false t with ⟨playing, timed, e⟩ | ⟨other, e⟩
    · rw [e, if_pos ⟨playing, timed⟩]
    · rw [e, if_neg other]
  · next idle =>
    rw [if_neg]
    rintro ⟨playing, -⟩
    exact idle (by rw [Circuit.engaged, playing]; rfl)

theorem untimed_timing (k : Tributary) (mean : Option Int) : (k.untimed mean).clocking.timing = k.clocking.timing := by
  cases mean <;> rfl

theorem tributary_releaseList (l : List (Fin 64)) (s : State) (t : Fin 16) {x : Fin 64}
    (timing : (s.tributary t).clocking.timing = x) [Decidable (s.times x t)] : (State.releaseList l s).tributary t
    = if x ∈ l ∧ (s.circuit x).control.state = .playing ∧ s.times x t then (s.tributary t).untimed (s.circuit x).recovery.mean
      else s.tributary t := by
  classical
  induction l generalizing s with
  | nil => simp [State.releaseList, forEach]
  | cons y l ih =>
    have still : ((s.releaseOne y).tributary t).clocking.timing = x := by
      rw [tributary_releaseOne]
      split
      · rw [untimed_timing, timing]
      · exact timing
    rw [releaseList_cons, ih _ still]
    by_cases same : y = x
    · subst same
      have released : ((s.releaseOne y).circuit y).control.state ≠ .playing := by
        rw [circuit_releaseOne]
        split
        · exact CircuitState.noConfusion
        · next idle => exact fun playing => idle ⟨rfl, by rw [Circuit.engaged, playing]; rfl⟩
      rw [if_neg (fun h => released h.2.1), tributary_releaseOne]
      simp only [List.mem_cons, true_or, true_and]
    · have circuit : (s.releaseOne y).circuit x = s.circuit x := by rw [circuit_releaseOne, if_neg (fun h => same h.1)]
      have tributary : (s.releaseOne y).tributary t = s.tributary t := by
        rw [tributary_releaseOne, if_neg (fun h => same (h.2.2.1.symm.trans timing))]
      have other : x ≠ y := fun e => same e.symm
      simp only [circuit, tributary, State.times, List.mem_cons, other, false_or]

/-! ### The clock modes recomputed (R159) -/

theorem changeMode_transmit_eq (k : Tributary) (m : ClockMode) : (k.changeMode m).transmit
    = if k.clocking.actual = .loop ∧ m ≠ .loop ∧ 2 ^ 29 ≤ k.transmit.bitTime then
        { k.transmit with bits := k.transmit.bits + 1, bitTime := 0 }
      else k.transmit := by
  simp only [Tributary.changeMode, Transmit.leaveLoop, bitFine]
  by_cases left : k.clocking.actual = .loop ∧ m ≠ .loop
  · simp only [left.1, left.2, ne_eq, not_false_eq_true, true_and, and_self, if_true]
    congr
  · rw [if_neg left, if_neg (fun h => left ⟨h.1, h.2.1⟩)]

theorem recomputed_transmit (k : Tributary) : k.recomputed.transmit
    = if k.clocking.actual = .loop ∧ k.recomputed.clocking.actual ≠ .loop ∧ 2 ^ 29 ≤ k.transmit.bitTime then
        { k.transmit with bits := k.transmit.bits + 1, bitTime := 0 }
      else k.transmit := changeMode_transmit_eq _ _

theorem mean_isSome {r : Recovery} (h : r.history ≠ []) : ∃ m, r.mean = some m := by
  simp [Recovery.mean, meanTowardZero, h]

theorem mean_eq_none {r : Recovery} (h : r.history = []) : r.mean = none := by
  simp [Recovery.mean, meanTowardZero, h]

theorem untimed_kept (k : Tributary) (mean : Option Int) :
    (k.untimed mean).entry = k.entry ∧ (k.untimed mean).line = k.line ∧ (k.untimed mean).transmit = k.transmit := by
  cases mean <;> exact ⟨rfl, rfl, rfl⟩

/-- What the recomputing makes of a tributary, from what it held (R159). -/
theorem recomputed_clocking (k : Tributary) : k.recomputed.clocking.actual = (match k.entry.clockMode with
    | .free => .free
    | .loop => if k.line.signal = .present then .loop else .free
    | .holdover => if k.clocking.valid then .holdover else .free
    | .adaptive => if k.clocking.valid then .holdover else .free) := by
  cases mode : k.entry.clockMode <;> simp only [Tributary.recomputed, changeMode_clocking, mode]

/-- Settles O50, from what the releases and the recomputing of the clock modes make of each part. -/
theorem restartKeepsTablesTimeAndLines : Obligations.RestartKeepsTablesTimeAndLines := by
  classical
  intro s
  have row : exec .restart s = .next (s.restart.answered (resultOf 8 7 0 .ok)) := by
    show Host.Outcome.next ((s.restartRequest 7 0).1.answered (s.restartRequest 7 0).2) = _
    simp only [State.restartRequest, BitVec.reduceToNat, ne_eq, not_true_eq_false, if_false]
  have run := run_releaseList allCircuits s
  have circuit := circuit_releaseList allCircuits s
  have port := port_releaseList allCircuits s
  have tributary (t : Fin 16) := tributary_releaseList allCircuits s t (x := (s.tributary t).clocking.timing) rfl
  rw [row, restart_eq, releaseAll_eq]
  simp only [mem_allCircuits, true_and] at circuit tributary
  generalize State.releaseList allCircuits s = v at run circuit port tributary
  refine ⟨_, rfl, run.lt, rfl, rfl, run.pending, run.draws, rfl, fun c on => ?_, fun c off => ?_, fun p => ?_, fun t => ?_⟩
  · rw [circuit_answered]
    show (v.emptied.circuit c) = _
    rw [circuit_emptied, circuit, if_pos on]
    rfl
  · rw [circuit_answered]
    show (v.emptied.circuit c) = _
    rw [circuit_emptied, circuit, if_neg (by rw [off]; decide)]
    rfl
  · obtain ⟨q, e⟩ := port p
    rw [port_answered]
    show (v.emptied.port p) = _
    rw [port_emptied, e]
    rfl
  · have final : ((v.emptied.recomputed.answered (resultOf 8 7 0 .ok)).tributary t)
        = { (v.tributary t).recomputed with flags := Vector.replicate 5 none } := by
      rw [tributary_answered, tributary_recomputed]
      rfl
    rw [final]
    obtain ⟨entry, line, transmit⟩ : (v.tributary t).entry = (s.tributary t).entry ∧ (v.tributary t).line = (s.tributary t).line
        ∧ (v.tributary t).transmit = (s.tributary t).transmit := by
      rw [tributary]
      split
      · exact untimed_kept _ _
      · exact ⟨rfl, rfl, rfl⟩
    have looping : (v.tributary t).clocking.actual = .loop ↔ (s.tributary t).clocking.actual = .loop := by
      rw [tributary]
      split
      · next fell => exact ⟨fun h => absurd h (untimed_actual _ _).2, fun h => by rw [fell.2.2.2] at h; cases h⟩
      · exact .rfl
    refine ⟨entry, line, rfl, ?_, congrArg (·.clockMode) entry, congrArg (·.timing) entry, rfl, ?_, ?_, ?_⟩
    · show (v.tributary t).recomputed.transmit = _
      rw [recomputed_transmit, transmit]
      simp only [looping]
    · rintro ⟨adaptive, named, playing, held⟩
      obtain ⟨m, mean⟩ := mean_isSome held
      have fallen := tributary t
      rw [if_pos ⟨playing, named, rfl, adaptive⟩, mean] at fallen
      exact ⟨congrArg (·.clocking.valid) fallen, (congrArg (some ·.clocking.holdover) fallen).trans mean.symm⟩
    · intro stays
      have kept : (v.tributary t).clocking.valid = (s.tributary t).clocking.valid
          ∧ (v.tributary t).clocking.holdover = (s.tributary t).clocking.holdover := by
        rw [tributary]
        split
        · next fell =>
          obtain ⟨playing, named, -, adaptive⟩ := fell
          rw [mean_eq_none (not_not.mp (fun held => stays ⟨adaptive, named, playing, held⟩))]
          exact ⟨rfl, rfl⟩
        · exact ⟨rfl, rfl⟩
      exact kept
    · show (v.tributary t).recomputed.clocking.actual = _
      rw [recomputed_clocking, entry, line]
      cases (s.tributary t).entry.clockMode <;> rfl

end Sys2Proof.Machine

/-! PROOFS. Circuit writes: what is refused, what is stored (R31, R32, R38 to R43), and the ranges (R34 to R37). -/

namespace Sys2Proof.Machine

variable {s : State} {c : Fin 64}

/-! ### The notes of a write (R31) -/

theorem getElem?_clampNotes {asked stored : List (List Byte)} (same : asked.length = stored.length) {i : Nat}
    (h : i < stored.length) : (clampNotes asked stored)[i]? = some (if asked[i]? = stored[i]? then 0 else 1) := by
  have h' : i < asked.length := by rw [same]; exact h
  have len : i < (clampNotes asked stored).length := by rw [clampNotes, List.length_zipWith, same, min_self]; exact h
  rw [List.getElem?_eq_getElem len, List.getElem?_eq_getElem h, List.getElem?_eq_getElem h']
  simp only [clampNotes, List.getElem_zipWith, Option.some.injEq]

theorem length_circuitValues (e : CircuitEntry) : e.values.length = 24 := rfl

/-! ### A circuit write, judged (R32, R38 to R40) -/

theorem tableWrite_circuit {index : Byte} (read : readCircuit index = some c) (items : List FieldItem) :
    exec (.tableWrite 1 index items) s
      = .next ((s.writeCircuit 1 index c items).1.answered (s.writeCircuit 1 index c items).2) := by
  show Host.Outcome.next ((s.tableWrite 1 index items).1.answered (s.tableWrite 1 index items).2) = _
  simp only [State.tableWrite, BitVec.reduceToNat, read]

theorem writeCircuit_unread {items : List FieldItem} (none : readFields readCircuitField items = none) (kind index : Byte) :
    s.writeCircuit kind index c items = (s, resultOf 2 kind index .badValue) := by
  simp only [State.writeCircuit, none]

theorem writeCircuit_read {items : List FieldItem} {fields : List CircuitField}
    (read : readFields readCircuitField items = some fields) (kind index : Byte) :
    s.writeCircuit kind index c items =
      if (s.circuit c).engaged && fields.any CircuitField.structural then (s, resultOf 2 kind index .circuitActive)
      else if fields.any CircuitField.placesSlots && s.slotConflict c (effectiveEntry (s.circuit c).entry fields) then
        (s, resultOf 2 kind index .slotConflict)
      else if fields.any CircuitField.isLabel && s.labelConflict c (effectiveEntry (s.circuit c).entry fields).inLabel then
        (s, resultOf 2 kind index .labelInUse)
      else (s.onCircuit c (fun k => k.written (effectiveEntry (s.circuit c).entry fields)), resultOf 2 kind index .ok false
        (entryOctets c.val (effectiveEntry (s.circuit c).entry fields).values
          (clampNotes (askedEntry (s.circuit c).entry fields).values (effectiveEntry (s.circuit c).entry fields).values))) := by
  simp only [State.writeCircuit, read]

/-- Settles O39, from the judgement of the write and the circuit it stores. -/
theorem circuitWriteIsJudgedAndStored : Obligations.CircuitWriteIsJudgedAndStored := by
  intro index c items s read k refused
  have row := tableWrite_circuit (s := s) read items
  refine ⟨fun none => ?_, fun fields given => ?_⟩
  · rw [writeCircuit_unread none] at row
    exact row
  · intro e clashes taken active
    rw [writeCircuit_read given] at row
    have activeIff : ((s.circuit c).engaged && fields.any CircuitField.structural) = true ↔ active := by
      rw [Bool.and_eq_true]
    have clashesIff : (fields.any CircuitField.placesSlots && s.slotConflict c (effectiveEntry (s.circuit c).entry fields)) = true
        ↔ clashes := by
      rw [Bool.and_eq_true, slotConflict_iff]
      simp only [sharesSlot_iff]
      exact .rfl
    have takenIff : (fields.any CircuitField.isLabel
        && s.labelConflict c (effectiveEntry (s.circuit c).entry fields).inLabel) = true ↔ taken := by
      rw [Bool.and_eq_true, labelConflict_iff]
    refine ⟨fun running => ?_, fun idle clash => ?_, fun idle apart label => ?_, fun idle apart free => ?_⟩
    · rw [if_pos (activeIff.mpr running)] at row
      exact row
    · rw [if_neg (fun h => idle (activeIff.mp h)), if_pos (clashesIff.mpr clash)] at row
      exact row
    · rw [if_neg (fun h => idle (activeIff.mp h)), if_neg (fun h => apart (clashesIff.mp h)), if_pos (takenIff.mpr label)] at row
      exact row
    · rw [if_neg (fun h => idle (activeIff.mp h)), if_neg (fun h => apart (clashesIff.mp h)),
        if_neg (fun h => free (takenIff.mp h))] at row
      refine ⟨_, row, ⟨_, ?_, fun i h => ?_, rfl⟩, ?_, ?_⟩
      · rw [clampNotes, List.length_zipWith]
        rfl
      · exact getElem?_clampNotes (asked := (askedEntry k.entry fields).values) (stored := e.values) rfl (show i < 24 from h)
      · rw [circuit_answered, circuit_onCircuit_self]
        exact congrArg (State.answered · _) (onCircuit_congr s c (f := fun k => k.written e) (g := fun _ => (s.circuit c).written e) rfl)
      · rw [circuit_answered, circuit_onCircuit_self, written_eq]

/-! ### The ranges (R34 to R37) -/

theorem powerOfTwo_eq {low v : Nat} (h : low = 8 ∨ low = 16) : ∃ n, powerOfTwo low v = 2 ^ n ∧ low ≤ 2 ^ n ∧ n ≤ 7
    ∧ (low ≤ v → 2 ^ n ≤ v) ∧ (n < 7 → v < 2 ^ (n + 1)) := by
  unfold powerOfTwo
  split
  · exact ⟨7, rfl, by omega, le_rfl, by omega, by omega⟩
  split
  · exact ⟨6, rfl, by omega, by omega, by omega, by omega⟩
  split
  · exact ⟨5, rfl, by omega, by omega, by omega, by omega⟩
  split
  · exact ⟨4, rfl, by omega, by omega, by omega, by omega⟩
  rcases h with rfl | rfl
  · exact ⟨3, rfl, by omega, by omega, by omega, by omega⟩
  · exact ⟨4, rfl, by omega, by omega, by omega, by omega⟩

/-- Settles O40, from the effective entry of a write to an entry in range. -/
theorem writtenFieldsAreClampedIntoRange : Obligations.WrittenFieldsAreClampedIntoRange := by
  refine ⟨fun e items fields range read => effectiveEntry_inRange range read, fun e v => ⟨?_, ?_, ?_, ?_, ?_, fun room => ?_⟩,
    fun v _ => ⟨?_, ?_⟩⟩
  · exact clampNat_eq (by decide) v
  · show clampNat 0 8 v = _
    rw [clampNat_eq (by decide) v, Nat.zero_max]
  · show max (clampNat 0 8 v) e.shiftB = _
    rw [clampNat_eq (by decide) v, Nat.zero_max]
  · exact clampNat_eq (by decide) v
  · show max (clampNat 1 255 v) e.unlockThreshold = _
    rw [clampNat_eq (by decide) v]
  · exact clampNat_eq room v
  · obtain ⟨n, power, low, high, below, next⟩ := powerOfTwo_eq (v := v) (.inl rfl : 8 = 8 ∨ 8 = 16)
    exact ⟨n, power, (Nat.pow_le_pow_iff_right (by decide)).mp (show 2 ^ 3 ≤ 2 ^ n from low), high, below, next⟩
  · obtain ⟨n, power, low, high, below, next⟩ := powerOfTwo_eq (v := v) (.inr rfl : 16 = 8 ∨ 16 = 16)
    exact ⟨n, power, (Nat.pow_le_pow_iff_right (by decide)).mp (show 2 ^ 4 ≤ 2 ^ n from low), high, below, next⟩

end Sys2Proof.Machine

/-! PROOFS. Tributary writes: what is refused, what is stored (R7, R31, R45, R46, R150). -/

namespace Sys2Proof.Machine

variable {s : State} {t : Fin 16}

/-! ### The flags of an object in which a rule may have set one -/

theorem Circuit.flags_raised (k : Circuit) (f g : CircuitFlag) (d : Detail) : (k.raised f d).flags[g.code.val]
    = if g = f then some ((k.flags[g.code.val]).getD d) else k.flags[g.code.val] := raisedRow_circuitFlag _ _ _ _

theorem Circuit.flags_raisedIf (k : Circuit) (b : Bool) (f g : CircuitFlag) (d : Detail) : (k.raisedIf b f d).flags[g.code.val]
    = if b = true ∧ g = f then some ((k.flags[g.code.val]).getD d) else k.flags[g.code.val] := by
  cases b with
  | false => simp [Circuit.raisedIf_false]
  | true => simp [Circuit.raisedIf_true, Circuit.flags_raised]

theorem Tributary.flags_raised (k : Tributary) (f g : TributaryFlag) (d : Detail) : (k.raised f d).flags[g.code.val]
    = if g = f then some ((k.flags[g.code.val]).getD d) else k.flags[g.code.val] := by
  have same : g.code = f.code ↔ g = f := ⟨TributaryFlag.code_injective, fun e => by rw [e]⟩
  simp only [Tributary.raised, getElem_raisedRow, same]

theorem Tributary.flags_raisedIf (k : Tributary) (b : Bool) (f g : TributaryFlag) (d : Detail) :
    (k.raisedIf b f d).flags[g.code.val]
      = if b = true ∧ g = f then some ((k.flags[g.code.val]).getD d) else k.flags[g.code.val] := by
  cases b with
  | false => simp [Tributary.raisedIf]
  | true => simpa [Tributary.raisedIf, Tributary.raised] using k.flags_raised f g d

/-! ### A tributary write, judged -/

theorem tableWrite_tributary {index : Byte} (read : readTributary index = some t) (items : List FieldItem) :
    exec (.tableWrite 2 index items) s
      = .next ((s.writeTributary 2 index t items).1.answered (s.writeTributary 2 index t items).2) := by
  show Host.Outcome.next ((s.tableWrite 2 index items).1.answered (s.tableWrite 2 index items).2) = _
  simp only [State.tableWrite, BitVec.reduceToNat, read]

theorem writeTributary_unread {items : List FieldItem} (none : readFields readTributaryField items = none) (kind index : Byte) :
    s.writeTributary kind index t items = (s, resultOf 2 kind index .badValue) := by
  simp only [State.writeTributary, none]

/-- The entry a tributary write stores (R31, R46). -/
def TributaryEntry.afterWrite (held : TributaryEntry) (fields : List TributaryField) : TributaryEntry :=
  fields.foldl (TributaryField.store held.clockMode) held

theorem writeTributary_ok {items : List FieldItem} {fields : List TributaryField}
    (read : readFields readTributaryField items = some fields) (kind index : Byte)
    (ok : s.judgeTributary t ((s.tributary t).entry.afterWrite fields) fields = .ok) :
    s.writeTributary kind index t items = (s.storeTributary t ((s.tributary t).entry.afterWrite fields) fields,
      resultOf 2 kind index .ok false (entryOctets t.val ((s.tributary t).entry.afterWrite fields).values
        (tributaryNotes (timingGiven fields && (s.tributary t).entry.clockMode == .adaptive)))) := by
  unfold TributaryEntry.afterWrite at *
  simp only [State.writeTributary, read, ok]

theorem writeTributary_refused {items : List FieldItem} {fields : List TributaryField}
    (read : readFields readTributaryField items = some fields) (kind index : Byte) {code : Code} (other : code ≠ .ok)
    (judged : s.judgeTributary t ((s.tributary t).entry.afterWrite fields) fields = code) :
    s.writeTributary kind index t items = (s, resultOf 2 kind index code) := by
  subst judged
  unfold TributaryEntry.afterWrite at *
  simp only [State.writeTributary, read]

theorem judgeTributary_eq (s : State) (t : Fin 16) (e : TributaryEntry) (fields : List TributaryField) :
    s.judgeTributary t e fields =
      if (framingGiven fields).isSome && allCircuits.any (fun c => (s.circuit c).engaged && (s.circuit c).names t) then
        .circuitActive
      else if framingGiven fields = some .framed ∧ s.slotsClash t then .slotConflict
      else (modeGiven fields).elim .ok (s.judgeMode t e) := by
  unfold State.judgeTributary
  cases modeGiven fields <;> rfl

/-- The conditions a tributary write is judged by, from the fields it gives (R45, R46). -/
theorem judgeTributary_conditions {items : List FieldItem} {fields : List TributaryField}
    (read : readFields readTributaryField items = some fields) :
    (((framingGiven fields).isSome && allCircuits.any (fun c => (s.circuit c).engaged && (s.circuit c).names t)) = true
      ↔ (∃ v, TributaryField.framing v ∈ fields) ∧ ∃ c, (s.circuit c).engaged = true ∧ (s.circuit c).names t = true)
    ∧ ((framingGiven fields = some .framed ∧ s.slotsClash t = true)
      ↔ TributaryField.framing .framed ∈ fields ∧ ∃ c d, c ≠ d ∧ (s.circuit c).names t = true
         ∧ (s.circuit d).names t = true ∧ (s.circuit c).entry.slotSet &&& (s.circuit d).entry.slotSet ≠ 0) := by
  constructor
  · rw [Bool.and_eq_true, any_allCircuits, Option.isSome_iff_exists]
    simp only [framingGiven_eq_some read, Bool.and_eq_true]
  · rw [framingGiven_eq_some read, slotsClash_iff]
    simp only [sharesSlot_iff]

/-- What the judgement of the clock mode gives, from the fields (R46 checks 2 and 3). -/
theorem judgeMode_given {items : List FieldItem} {fields : List TributaryField} (e : TributaryEntry)
    (read : readFields readTributaryField items = some fields) :
    let busy := (TributaryField.clockMode .loop ∈ fields ∨ TributaryField.clockMode .adaptive ∈ fields)
      ∧ ((s.tributary t).clocking.actual = .loop ∨ (s.tributary t).clocking.actual = .adaptive)
    let untimed := TributaryField.clockMode .adaptive ∈ fields ∧ (s.circuit e.timing).names t = false
    (busy → (modeGiven fields).elim .ok (s.judgeMode t e) = .modeSequence)
    ∧ (¬busy → untimed → (modeGiven fields).elim .ok (s.judgeMode t e) = .notReady)
    ∧ (¬busy → ¬untimed → (modeGiven fields).elim .ok (s.judgeMode t e) = .ok) := by
  intro busy untimed
  simp only [busy, untimed, ← modeGiven_eq_some read]
  cases modeGiven fields with
  | none => simp
  | some m =>
    cases m with
    | free => simp [State.judgeMode]
    | holdover => simp [State.judgeMode]
    | loop =>
      by_cases h : (s.tributary t).clocking.actual = .loop ∨ (s.tributary t).clocking.actual = .adaptive <;>
        simp [State.judgeMode, h]
    | adaptive =>
      by_cases h : (s.tributary t).clocking.actual = .loop ∨ (s.tributary t).clocking.actual = .adaptive <;>
        simp [State.judgeMode, h]

/-! ### A tributary write, stored -/

theorem timingGiven_iff (fields : List TributaryField) : timingGiven fields = true ↔ ∃ c, TributaryField.timing c ∈ fields := by
  rw [timingGiven, List.any_eq_true]
  constructor
  · rintro ⟨f, m, h⟩
    cases f with
    | timing c => exact ⟨c, m⟩
    | framing v => cases h
    | clockMode v => cases h
    | idle v => cases h
    | enables v => cases h
  · rintro ⟨c, m⟩
    exact ⟨_, m, rfl⟩

theorem restarted_unalarmed (u : LineUnit) (v : Framing) : (u.restarted v).unalarmed = { u with
    alignment := if v = .framed then .searching else .notFramed, remoteAlarm := .clear
    source := if v = .unframed ∧ u.signal = .present then .line else .generated
    search := if v = .framed ∧ u.signal = .present then .hunt else .idle
    searchBits := 0, erroredRun := 0, frameBits := 0, oddFrame := false, gathered := []
    lastIndicator := none, alarmRun := 0 } := by
  simp [LineUnit.restarted, LineUnit.unalarmed, Framing.restartAlignment]

/-- What a framing given does to the receive side of its tributary (R7). -/
theorem restarted_line (u : State) (t : Fin 16) {v : Framing} (framing : (u.tributary t).entry.framing = v) :
    let k := u.tributary t
    let w := u.restartFraming t
    (w.tributary t).line = (k.line.restarted v).unalarmed
    ∧ w.flag (.tributary t .alignChange) = (if k.line.alignment = .aligned then
        some ((u.flag (.tributary t .alignChange)).getD (.alignment v.restartAlignment)) else u.flag (.tributary t .alignChange))
    ∧ w.flag (.tributary t .remoteAlarmChange) = (if k.line.remoteAlarm = .seen then
        some ((u.flag (.tributary t .remoteAlarmChange)).getD (.seen .clear)) else u.flag (.tributary t .remoteAlarmChange))
    ∧ ∀ f ∈ [TributaryFlag.signalChange, .aisChange, .clockModeChange],
        w.flag (.tributary t f) = u.flag (.tributary t f) := by
  subst framing
  have flag (f : TributaryFlag) : (u.restartFraming t).flag (.tributary t f) = _ :=
    congrArg (fun k : Tributary => k.flags[f.code.val]) (tributary_restartFraming u t)
  simp only [Tributary.flags_raisedIf, decide_eq_true_eq] at flag
  refine ⟨by rw [tributary_restartFraming]; rfl, ?_, ?_, fun f listed => ?_⟩
  · rw [flag]
    simp [State.flag]
  · rw [flag]
    simp [State.flag]
  · rw [flag]
    simp only [List.mem_cons, List.not_mem_nil, or_false] at listed
    rcases listed with e | e | e <;> subst e <;> simp [State.flag]

theorem tributaryNotes_eq (b : Bool) {p : Prop} [Decidable p] (h : b = true ↔ p) :
    tributaryNotes b = [0, 0, if p then 2 else 0, 0, 0] := by
  simp only [tributaryNotes, h]

theorem TributaryStored.only {u : State} {e : TributaryEntry} {mode : Option ClockMode} (stored : TributaryStored s u t e mode)
    (r : Result) : OnlyTributary { s with answer := some r }
      ((u.answered r).onTributary t (fun x => { x with entry := (s.tributary t).entry })) t where
  run := ⟨stored.run.lt, rfl, stored.run.draws, stored.run.pending⟩
  events := stored.events
  circuits := stored.circuits
  ports := stored.ports
  others v h := (tributary_onTributary_of_ne _ _ h).trans (stored.others v h)
  entry := by
    rw [tributary_onTributary_self]
    rfl

theorem framingGiven_eq_none {items : List FieldItem} {fields : List TributaryField}
    (read : readFields readTributaryField items = some fields) (absent : ∀ v, TributaryField.framing v ∉ fields) :
    framingGiven fields = none :=
  Option.eq_none_iff_forall_ne_some.mpr (fun v h => absent v ((framingGiven_eq_some read v).mp h))

theorem modeGiven_eq_none {items : List FieldItem} {fields : List TributaryField}
    (read : readFields readTributaryField items = some fields) (absent : ∀ m, TributaryField.clockMode m ∉ fields) :
    modeGiven fields = none :=
  Option.eq_none_iff_forall_ne_some.mpr (fun m h => absent m ((modeGiven_eq_some read m).mp h))

/-- Settles O42, from the judgement of the write and what it stores. -/
theorem tributaryWriteIsJudgedAndStored : Obligations.TributaryWriteIsJudgedAndStored := by
  intro index t items s read k refused
  have row := tableWrite_tributary (s := s) read items
  refine ⟨fun none => ?_, fun fields given => ⟨k.entry.afterWrite fields, store_writtenBy k.entry given, ?_⟩⟩
  · rw [writeTributary_unread none] at row
    exact row
  · intro active clash busy untimed
    obtain ⟨activeIff, clashIff⟩ := judgeTributary_conditions (s := s) (t := t) given
    obtain ⟨whenBusy, whenUntimed, whenFree⟩ := judgeMode_given (s := s) (t := t) (k.entry.afterWrite fields) given
    have judge := judgeTributary_eq s t (k.entry.afterWrite fields) fields
    have refuse {code : Code} (other : code ≠ .ok) (judged : s.judgeTributary t (k.entry.afterWrite fields) fields = code) :
        refused code := by
      rw [writeTributary_refused given 2 index other judged] at row
      exact row
    refine ⟨fun running => ?_, fun idle clashes => ?_, fun idle apart modes => ?_, fun idle apart free late => ?_,
      fun idle apart free timed => ?_⟩
    · exact refuse (by decide) (judge.trans (if_pos (activeIff.mpr running)))
    · rw [if_neg (fun h => idle (activeIff.mp h)), if_pos (clashIff.mpr clashes)] at judge
      exact refuse (by decide) judge
    · rw [if_neg (fun h => idle (activeIff.mp h)), if_neg (fun h => apart (clashIff.mp h)), whenBusy modes] at judge
      exact refuse (by decide) judge
    · rw [if_neg (fun h => idle (activeIff.mp h)), if_neg (fun h => apart (clashIff.mp h)), whenUntimed free late] at judge
      exact refuse (by decide) judge
    · rw [if_neg (fun h => idle (activeIff.mp h)), if_neg (fun h => apart (clashIff.mp h)), whenFree free timed] at judge
      rw [writeTributary_ok given 2 index judge] at row
      have stored := storeTributary_stored s t (k.entry.afterWrite fields) fields
      have form := storeTributary_eq s t (k.entry.afterWrite fields) fields
      refine ⟨_, row, ?_⟩
      generalize s.storeTributary t (k.entry.afterWrite fields) fields = u at stored form
      refine ⟨?_, ?_, stored.entry, stored.transmit, fun m mem => ?_, fun absent => ?_, fun absent => ?_, fun v mem => ?_⟩
      · refine congrArg (fun notes => some (⟨2, 2, index, .ok, false, entryOctets t.val _ notes⟩ : Result)) ?_
        exact tributaryNotes_eq _ (by rw [Bool.and_eq_true, timingGiven_iff, beq_iff_eq])
      · exact stored.only _
      · refine stored.clocking.trans ?_
        rw [(modeGiven_eq_some given m).mpr mem]
        rfl
      · refine stored.clocking.trans ?_
        rw [modeGiven_eq_none given absent]
        rfl
      · rw [framingGiven_eq_none given absent] at form
        rw [form]
        refine ⟨?_, ?_, rfl, rfl⟩
        · rw [tributary_answered, State.restartedFor, State.entryStored, tributary_onTributary_self]
        · rw [tributary_answered, State.restartedFor, State.entryStored, tributary_onTributary_self]
      · rw [(framingGiven_eq_some given v).mpr mem] at form
        have before : (s.entryStored t (k.entry.afterWrite fields) (modeGiven fields)).tributary t
            = { k with entry := k.entry.afterWrite fields, clocking := k.clocking.asked (modeGiven fields) } := by
          rw [State.entryStored, tributary_onTributary_self]
        obtain ⟨line, align, alarm, others⟩ := restarted_line (s.entryStored t (k.entry.afterWrite fields) (modeGiven fields)) t
          (v := v) (by rw [before]; exact (store_writtenBy k.entry given).1.1 v mem)
        have flag (f : TributaryFlag) : (s.entryStored t (k.entry.afterWrite fields) (modeGiven fields)).flag (.tributary t f)
            = s.flag (.tributary t f) := flag_onTributary _ _ _ _ rfl
        rw [before] at line align alarm
        rw [restarted_unalarmed] at line
        simp only [flag] at align alarm others
        rw [State.restartedFor] at form
        rw [← form] at line align alarm others
        refine ⟨?_, ?_, ?_, fun f listed => ?_⟩
        · rw [tributary_answered]
          exact line
        · rw [flag_answered]
          exact align
        · rw [flag_answered]
          exact alarm
        · rw [flag_answered]
          exact others f listed

end Sys2Proof.Machine

/-! PROOFS. Port writes: what is refused, what is stored, and the values that frames already captured meet (R33, R34, R47, R48). -/

namespace Sys2Proof.Machine

variable {s : State} {p : Port}

/-! ### The fields of a port write -/

/-- The code of a port field (R190). -/
def PortField.code : PortField → Byte
  | .address _ => 1
  | .accept _ => 2
  | .frameType _ => 3
  | .enables _ => 4

theorem readPortField_code (i : FieldItem) (f : PortField) (h : readPortField i = some f) : i.code = f.code := by
  unfold readPortField at h
  dsimp only at h
  split at h
  case h_1 code =>
    obtain ⟨n, _, h⟩ := Option.bind_eq_some_iff.mp h
    split at h
    · cases h
    · cases h; exact byte_eq_of_toNat code
  case h_2 code =>
    obtain ⟨n, _, h⟩ := Option.bind_eq_some_iff.mp h
    split at h <;> cases h <;> exact byte_eq_of_toNat code
  case h_3 code =>
    obtain ⟨n, _, rfl⟩ := Option.map_eq_some_iff.mp h
    exact byte_eq_of_toNat code
  case h_4 code =>
    obtain ⟨n, _, rfl⟩ := Option.map_eq_some_iff.mp h
    exact byte_eq_of_toNat code
  case h_5 => cases h

theorem readNumber_lt {n v : Nat} {l : List Byte} (h : readNumber n l = some v) : v < 256 ^ n := by
  unfold readNumber at h
  split at h
  · next len => cases h; rw [← len]; exact number_lt l
  · cases h

theorem readPortField_frameType_lt {i : FieldItem} {v : Nat} (h : readPortField i = some (.frameType v)) : v < 65536 := by
  unfold readPortField at h
  dsimp only at h
  split at h
  case h_3 =>
    obtain ⟨n, read, e⟩ := Option.map_eq_some_iff.mp h
    cases e
    exact readNumber_lt read
  case h_1 =>
    obtain ⟨n, _, h⟩ := Option.bind_eq_some_iff.mp h
    split at h <;> cases h
  case h_2 =>
    obtain ⟨n, _, h⟩ := Option.bind_eq_some_iff.mp h
    split at h <;> cases h
  case h_4 =>
    obtain ⟨n, _, e⟩ := Option.map_eq_some_iff.mp h
    cases e
  case h_5 => cases h

namespace PortField

/-- The station address a field gives, if it is the station address. -/
def address? : PortField → Option Address
  | .address v => some v
  | _ => none

/-- The management accept a field gives, if it is the management accept. -/
def accept? : PortField → Option Bool
  | .accept v => some v
  | _ => none

/-- The frame type value a field gives, if it is the frame type value. -/
def frameType? : PortField → Option Nat
  | .frameType v => some v
  | _ => none

/-- The event enables a field gives, if it is the event enables. -/
def enables? : PortField → Option (BitVec 3)
  | .enables v => some v
  | _ => none

theorem address?_eq (f : PortField) (v : Address) : f.address? = some v ↔ f = .address v := by cases f <;> simp [address?]

theorem accept?_eq (f : PortField) (v : Bool) : f.accept? = some v ↔ f = .accept v := by cases f <;> simp [accept?]

theorem frameType?_eq (f : PortField) (v : Nat) : f.frameType? = some v ↔ f = .frameType v := by cases f <;> simp [frameType?]

theorem enables?_eq (f : PortField) (v : BitVec 3) : f.enables? = some v ↔ f = .enables v := by cases f <;> simp [enables?]

end PortField

/-- The entry a port write stores (R31, R34). -/
def PortEntry.afterWrite (held : PortEntry) (fields : List PortField) : PortEntry := fields.foldl PortField.store held

/-- The entry a port write asks for (R31). -/
def PortEntry.asked (held : PortEntry) (fields : List PortField) : PortEntry := fields.foldl PortField.ask held

/-- The frame type value a port write stores and asks for, from the one it gives, if any (R34). -/
theorem frameType_afterWrite {items : List FieldItem} {fields : List PortField} (held : PortEntry)
    (read : readFields readPortField items = some fields) :
    (∀ v, .frameType v ∈ fields → (held.afterWrite fields).frameType = BitVec.ofNat 16 (clampNat 0x0600 0xFFFF v)
      ∧ (held.asked fields).frameType = BitVec.ofNat 16 v)
    ∧ ((∀ v, .frameType v ∉ fields) → (held.afterWrite fields).frameType = held.frameType
      ∧ (held.asked fields).frameType = held.frameType) := by
  have once := readFields_codes readPortField_code read
  have stored := foldl_given (store := PortField.store) (get := PortEntry.frameType)
    (given := fun f => f.frameType?.map (fun v => BitVec.ofNat 16 (clampNat 0x0600 0xFFFF v)))
    (fun e f => by cases f <;> rfl) once (fun f g => by cases f <;> cases g <;> simp [PortField.frameType?, PortField.code]) held
  have asked := foldl_given (store := PortField.ask) (get := PortEntry.frameType)
    (given := fun f => f.frameType?.map (BitVec.ofNat 16))
    (fun e f => by cases f <;> rfl) once (fun f g => by cases f <;> cases g <;> simp [PortField.frameType?, PortField.code]) held
  refine ⟨fun v mem => ⟨stored.1 _ mem _ rfl, asked.1 _ mem _ rfl⟩, fun absent => ?_⟩
  have none := forall_none_of_forall_ne PortField.frameType?_eq absent
  exact ⟨stored.2 (fun f hf => by rw [none f hf]; rfl), asked.2 (fun f hf => by rw [none f hf]; rfl)⟩

/-- A port write stores the fields it gives and keeps the others (R31, R34). -/
theorem afterWrite_writtenBy {items : List FieldItem} {fields : List PortField} (held : PortEntry)
    (read : readFields readPortField items = some fields) : (held.afterWrite fields).writtenBy held fields := by
  have once := readFields_codes readPortField_code read
  have address := foldl_given (store := PortField.store) (get := PortEntry.address) (given := PortField.address?)
    (fun e f => by cases f <;> rfl) once (fun f g => by cases f <;> cases g <;> simp [PortField.address?, PortField.code]) held
  have accept := foldl_given (store := PortField.store) (get := PortEntry.accept) (given := PortField.accept?)
    (fun e f => by cases f <;> rfl) once (fun f g => by cases f <;> cases g <;> simp [PortField.accept?, PortField.code]) held
  have enables := foldl_given (store := PortField.store) (get := PortEntry.enables) (given := PortField.enables?)
    (fun e f => by cases f <;> rfl) once (fun f g => by cases f <;> cases g <;> simp [PortField.enables?, PortField.code]) held
  have frameType := frameType_afterWrite held read
  refine ⟨⟨fun v m => address.1 _ m v rfl, fun a => address.2 (forall_none_of_forall_ne PortField.address?_eq a)⟩,
    ⟨fun v m => accept.1 _ m v rfl, fun a => accept.2 (forall_none_of_forall_ne PortField.accept?_eq a)⟩,
    ⟨fun v m small => ?_, fun a => (frameType.2 a).1⟩,
    ⟨fun v m => enables.1 _ m v rfl, fun a => enables.2 (forall_none_of_forall_ne PortField.enables?_eq a)⟩⟩
  rw [(frameType.1 v m).1, clampNat_eq (by decide), BitVec.toNat_ofNat]
  omega

/-- What a write asks for and what it stores differ in the frame type value alone. -/
theorem asked_eq_afterWrite (held : PortEntry) (fields : List PortField) : (held.asked fields).address = (held.afterWrite fields).address
    ∧ (held.asked fields).accept = (held.afterWrite fields).accept ∧ (held.asked fields).enables = (held.afterWrite fields).enables := by
  have agree : ∀ e e' : PortEntry, e.address = e'.address ∧ e.accept = e'.accept ∧ e.enables = e'.enables →
      (e.asked fields).address = (e'.afterWrite fields).address ∧ (e.asked fields).accept = (e'.afterWrite fields).accept
      ∧ (e.asked fields).enables = (e'.afterWrite fields).enables := by
    unfold PortEntry.asked PortEntry.afterWrite
    induction fields with
    | nil => exact fun e e' h => h
    | cons f fs ih =>
      rintro e e' ⟨address, accept, enables⟩
      refine ih _ _ ?_
      cases f with
      | address v => exact ⟨rfl, accept, enables⟩
      | accept v => exact ⟨address, rfl, enables⟩
      | frameType v => exact ⟨address, accept, enables⟩
      | enables v => exact ⟨address, accept, rfl⟩
  exact agree held held ⟨rfl, rfl, rfl⟩

theorem octets_inj {n a b : Nat} (ha : a < 256 ^ n) (hb : b < 256 ^ n) : octets n a = octets n b ↔ a = b := by
  refine ⟨fun h => ?_, fun h => by rw [h]⟩
  rw [← number_octets_of_lt ha, ← number_octets_of_lt hb, h]

/-- The notes of a port write: CLAMPED against a frame type value below 0x0600 (R34). -/
theorem portNotes {items : List FieldItem} {fields : List PortField} (held : PortEntry)
    (read : readFields readPortField items = some fields) :
    clampNotes (held.asked fields).values (held.afterWrite fields).values
      = [0, 0, if ∃ v : Fin 0x0600, PortField.frameType v.val ∈ fields then 1 else 0, 0] := by
  obtain ⟨address, accept, enables⟩ := asked_eq_afterWrite held fields
  obtain ⟨given, absent⟩ := frameType_afterWrite held read
  have differ : octets 2 (held.asked fields).frameType.toNat = octets 2 (held.afterWrite fields).frameType.toNat
      ↔ ¬∃ v : Fin 0x0600, PortField.frameType v.val ∈ fields := by
    rw [octets_inj (BitVec.isLt _) (BitVec.isLt _)]
    by_cases some : ∃ v, PortField.frameType v ∈ fields
    · obtain ⟨v, mem⟩ := some
      obtain ⟨i, hi⟩ := readFields_mem read _ mem
      have small := readPortField_frameType_lt hi
      have only (w : Nat) (mem' : PortField.frameType w ∈ fields) : w = v := by
        have e := (given w mem').2.symm.trans (given v mem).2
        obtain ⟨j, hj⟩ := readFields_mem read _ mem'
        have small' := readPortField_frameType_lt hj
        have := congrArg BitVec.toNat e
        simp only [BitVec.toNat_ofNat] at this
        omega
      rw [(given v mem).1, (given v mem).2, clampNat_eq (by decide), BitVec.toNat_ofNat, BitVec.toNat_ofNat]
      constructor
      · rintro e ⟨w, mem'⟩
        have := only w mem'
        have := w.isLt
        omega
      · intro none
        have : 0x0600 ≤ v := by
          by_contra low
          exact none ⟨⟨v, by omega⟩, mem⟩
        omega
    · have none : ∀ v, PortField.frameType v ∉ fields := fun v mem => some ⟨v, mem⟩
      rw [(absent none).1, (absent none).2]
      exact ⟨fun _ ⟨v, mem⟩ => none v mem, fun _ => rfl⟩
  simp only [clampNotes, PortEntry.values, List.zipWith_cons_cons, List.zipWith_nil_left, address, accept, enables, if_true,
    differ, ite_not]

/-! ### A port write, stored (R48) -/

theorem tableWrite_port {index : Byte} (read : readPort index = some p) (items : List FieldItem) :
    exec (.tableWrite 3 index items) s
      = .next ((s.writePort 3 index p items).1.answered (s.writePort 3 index p items).2) := by
  show Host.Outcome.next ((s.tableWrite 3 index items).1.answered (s.tableWrite 3 index items).2) = _
  simp only [State.tableWrite, BitVec.reduceToNat, read]

theorem writePort_unread {items : List FieldItem} (none : readFields readPortField items = none) (kind index : Byte) :
    s.writePort kind index p items = (s, resultOf 2 kind index .badValue) := by
  simp only [State.writePort, none]

theorem writePort_read {items : List FieldItem} {fields : List PortField} (read : readFields readPortField items = some fields)
    (kind index : Byte) : s.writePort kind index p items
      = (s.onPort p (fun k => k.written ((s.port p).entry.afterWrite fields) s.lt), resultOf 2 kind index .ok false
        (entryOctets (portIndex p) ((s.port p).entry.afterWrite fields).values
          (clampNotes ((s.port p).entry.asked fields).values ((s.port p).entry.afterWrite fields).values))) := by
  simp only [State.writePort, read]
  rfl

/-- The values a frame captured before the first write of a port meets are those the write replaced (R48, log 8). -/
theorem valuesAt_written {k : PortState} (first : k.earlier = []) (e : PortEntry) {lt capture : Ticks}
    (before : 0 < signed32 lt capture) : (k.written e lt).valuesAt capture = (k.entry.address, k.entry.frameType) := by
  unfold PortState.written PortState.valuesAt
  by_cases same : e.address = k.entry.address ∧ e.frameType = k.entry.frameType
  · simp [same, first]
  · simp [same, first, before]

theorem valuesAt_written_now {k : PortState} (first : k.earlier = []) (e : PortEntry) (lt : Ticks) :
    (k.written e lt).valuesAt lt = (e.address, e.frameType) := by
  unfold PortState.written PortState.valuesAt
  by_cases same : e.address = k.entry.address ∧ e.frameType = k.entry.frameType
  · simp [same, first]
  · simp [same, first, signed32]

/-! ### The items of a port write read (R33, R190, R191) -/

theorem readNumber_octets {n v : Nat} (h : v < 256 ^ n) : readNumber n (octets n v) = some v := by
  rw [readNumber, if_pos (length_octets n v), number_octets_of_lt h]

theorem readNumber_eq_none {n : Nat} {l : List Byte} (h : l.length ≠ n) : readNumber n l = none := if_neg h

theorem readMask_eq_none {n : Nat} {l : List Byte} (h : l.length ≠ 4) : readMask n l = none := by
  simp only [readMask, readNumber_eq_none h]

theorem readMask_octets {n : Nat} (m : BitVec 32) : readMask n (octets 4 m.toNat)
    = if m.toNat < 2 ^ n then some (BitVec.ofNat n m.toNat) else none := by
  simp only [readMask, readNumber_octets (n := 4) m.isLt]

theorem readPortField_address (a : Address) :
    readPortField ⟨1, octets 6 a.toNat⟩ = if a.getLsbD 40 then none else some (.address a) := by
  simp only [readPortField, BitVec.reduceToNat, readNumber_octets (n := 6) a.isLt, Option.bind_some, groupBit, BitVec.ofNat_toNat,
    BitVec.setWidth_eq]

theorem readPortField_accept (v : Byte) :
    readPortField ⟨2, [v]⟩ = if v = 0 then some (.accept false) else if v = 1 then some (.accept true) else none := by
  have read : readNumber 1 [v] = some v.toNat := by simp [readNumber, number]
  simp only [readPortField, BitVec.reduceToNat, read, Option.bind_some]
  by_cases zero : v = 0
  · subst zero; rfl
  by_cases one : v = 1
  · subst one; rfl
  rw [if_neg zero, if_neg one]
  have not_zero : v.toNat ≠ 0 := fun h => zero (BitVec.eq_of_toNat_eq h)
  have not_one : v.toNat ≠ 1 := fun h => one (BitVec.eq_of_toNat_eq h)
  generalize v.toNat = n at not_zero not_one
  match n with
  | 0 => exact absurd rfl not_zero
  | 1 => exact absurd rfl not_one
  | _ + 2 => rfl

theorem readPortField_frameType (v : BitVec 16) : readPortField ⟨3, octets 2 v.toNat⟩ = some (.frameType v.toNat) := by
  simp only [readPortField, BitVec.reduceToNat, readNumber_octets (n := 2) v.isLt, Option.map_some]

theorem readPortField_enables (m : BitVec 32) : readPortField ⟨4, octets 4 m.toNat⟩
    = if m.toNat < 8 then some (.enables (BitVec.ofNat 3 m.toNat)) else none := by
  simp only [readPortField, BitVec.reduceToNat, readMask_octets, Nat.reducePow]
  split <;> rfl

/-- An item of another code, or of another length than its code has, is not read (R33, R191). -/
theorem readPortField_eq_none {i : FieldItem} (h : i.code.toNat = 0 ∨ 4 < i.code.toNat
    ∨ i.value.length ≠ (if i.code = 1 then 6 else if i.code = 2 then 1 else if i.code = 3 then 2 else 4)) :
    readPortField i = none := by
  obtain ⟨code, value⟩ := i
  simp only [readPortField]
  split
  · next one =>
    have e : code = 1 := byte_eq_of_toNat one
    subst e
    rw [readNumber_eq_none (show value.length ≠ 6 by simpa using h)]
    rfl
  · next two =>
    have e : code = 2 := byte_eq_of_toNat two
    subst e
    rw [readNumber_eq_none (show value.length ≠ 1 by simpa using h)]
    rfl
  · next three =>
    have e : code = 3 := byte_eq_of_toNat three
    subst e
    rw [readNumber_eq_none (show value.length ≠ 2 by simpa using h)]
    rfl
  · next four =>
    have e : code = 4 := byte_eq_of_toNat four
    subst e
    rw [readMask_eq_none (show value.length ≠ 4 by simpa using h)]
    rfl
  · rfl

/-- Settles O43, from what a port write stores and the items it reads. -/
theorem portWriteKeepsCapturedFramesValues : Obligations.PortWriteKeepsCapturedFramesValues := by
  refine ⟨fun index p items s read => ⟨fun none => ?_, fun fields given => ?_⟩, readPortField_address, readPortField_accept,
    readPortField_frameType, readPortField_enables, fun i => readPortField_eq_none⟩
  · have row := tableWrite_port (s := s) read items
    rw [writePort_unread none] at row
    exact row
  · have row := tableWrite_port (s := s) read items
    rw [writePort_read given, portNotes _ given] at row
    have port : (s.onPort p (fun k => k.written ((s.port p).entry.afterWrite fields) s.lt)).port p
        = (s.port p).written ((s.port p).entry.afterWrite fields) s.lt := port_onPort_self _ _ _
    refine ⟨_, row, ?_, ?_, ?_, fun first capture before => ?_, fun first => ?_⟩
    · rw [port_answered, port]
      exact afterWrite_writtenBy _ given
    · rw [port_answered, port]
      rfl
    · rw [port_answered, port]
      exact congrArg (State.answered · _) (onPort_congr s p
        (f := fun k => k.written ((s.port p).entry.afterWrite fields) s.lt)
        (g := fun k => { k with entry := ((s.port p).written ((s.port p).entry.afterWrite fields) s.lt).entry,
                                earlier := ((s.port p).written ((s.port p).entry.afterWrite fields) s.lt).earlier }) rfl)
    · rw [port_answered, port]
      exact valuesAt_written first _ before
    · rw [port_answered, port]
      exact valuesAt_written_now first _ s.lt

end Sys2Proof.Machine

/-! PROOFS. The field items read from a circuit entry, written back, store that very entry (R51, R190, R191, R193). -/

namespace Sys2Proof.Machine

/-! ### The fields of an entry -/

/-- The fields of a write that gives every field of an entry as it is. -/
def CircuitEntry.fields (e : CircuitEntry) : List CircuitField :=
  [.tributary e.tributary, .slotSet e.slotSet, .frames e.frames, .inLabel e.inLabel, .path .A e.paths.a, .path .B e.paths.b,
    .depth e.depth, .playoutDelay e.playoutDelay, .window e.window, .shiftA e.shiftA, .shiftB e.shiftB,
    .lockThreshold e.lockThreshold, .unlockThreshold e.unlockThreshold, .reentryTolerance e.reentryTolerance,
    .starvationTimeout e.starvationTimeout, .pathTimeout e.pathTimeout, .engageTimeout e.engageTimeout,
    .restoreHoldOff e.restoreHoldOff, .policy e.policy, .latePolicy e.latePolicy, .substitution e.substitution,
    .rttLimit e.rttLimit, .skewLimit e.skewLimit, .enables e.enables]

theorem foldl_ask_fields (e d : CircuitEntry) : e.fields.foldl CircuitField.ask d = e := by
  obtain ⟨_, _, _, _, ⟨_, _⟩⟩ := e
  simp only [CircuitEntry.fields, List.foldl_cons, List.foldl_nil, CircuitField.ask, Pair.set]

theorem powerOfTwo_of_mem {v : Nat} :
    (v = 8 ∨ v = 16 ∨ v = 32 ∨ v = 64 ∨ v = 128 → powerOfTwo 8 v = v)
    ∧ (v = 16 ∨ v = 32 ∨ v = 64 ∨ v = 128 → powerOfTwo 16 v = v) := by
  constructor
  · rintro (h | h | h | h | h) <;> subst h <;> rfl
  · rintro (h | h | h | h) <;> subst h <;> rfl

theorem PathRecord.clamped_of_inRange {r : PathRecord} (h : r.inRange) : r.clamped = r := by
  obtain ⟨destination, outLabel, tag⟩ := r
  obtain ⟨⟨low, high⟩, tagged⟩ := h
  cases tag with
  | none => simp only [PathRecord.clamped, clampNat_of_mem low high, Option.map_none]
  | some x =>
    obtain ⟨networkTag, priority⟩ := tagged x rfl
    simp only [PathRecord.clamped, clampNat_of_mem low high, Option.map_some, clampNat_of_mem networkTag.1 networkTag.2,
      clampNat_of_mem (Nat.zero_le _) priority]

theorem path_clamped_of_inRange {v : Option PathRecord} (h : ∀ r, v = some r → r.inRange) : v.map PathRecord.clamped = v := by
  cases v with
  | none => rfl
  | some r => rw [Option.map_some, PathRecord.clamped_of_inRange (h r rfl)]

/-- Each field of an entry in range lies in its own range already (R34 to R36). -/
theorem clamped_of_mem_fields {e : CircuitEntry} (h : e.inRange) : ∀ f ∈ e.fields, f.clamped = f := by
  obtain ⟨frames, inLabel, depth, _, window, shiftA, ⟨_, shiftB⟩, lockThreshold, ⟨_, unlockThreshold⟩, reentryTolerance,
    starvationTimeout, pathTimeout, engageTimeout, restoreHoldOff, rttLimit, skewLimit, slotSet, paths⟩ := h
  have pathA : e.paths.a.map PathRecord.clamped = e.paths.a := path_clamped_of_inRange (paths .A)
  have pathB : e.paths.b.map PathRecord.clamped = e.paths.b := path_clamped_of_inRange (paths .B)
  have zero {v high : Nat} (le : v ≤ high) : clampNat 0 high v = v := clampNat_of_mem (Nat.zero_le _) le
  simp only [CircuitEntry.fields, List.forall_mem_cons, List.not_mem_nil, false_implies, implies_true, and_true,
    CircuitField.clamped, clampNat_of_mem frames.1 frames.2, zero inLabel, pathA, pathB, powerOfTwo_of_mem.1 depth, powerOfTwo_of_mem.2 window, zero shiftA, zero shiftB,
    clampNat_of_mem lockThreshold.1 lockThreshold.2, zero unlockThreshold, zero reentryTolerance,
    clampNat_of_mem starvationTimeout.1 starvationTimeout.2, clampNat_of_mem pathTimeout.1 pathTimeout.2,
    clampNat_of_mem engageTimeout.1 engageTimeout.2, zero restoreHoldOff, zero rttLimit, zero skewLimit]

/-- An entry in range is settled already (R34, R37). -/
theorem settled_of_inRange {e : CircuitEntry} (h : e.inRange) : e.settled = e := by
  obtain ⟨_, _, _, delay, _, _, ⟨shiftB, _⟩, _, ⟨unlock, _⟩, _⟩ := h
  simp only [CircuitEntry.settled, max_eq_right shiftB, max_eq_right unlock, clampNat_of_mem delay.1 delay.2]

theorem foldl_clamped {fields : List CircuitField} (h : ∀ f ∈ fields, f.clamped = f) (d : CircuitEntry) :
    fields.foldl (fun e f => f.clamped.ask e) d = fields.foldl CircuitField.ask d := by
  induction fields generalizing d with
  | nil => rfl
  | cons f fs ih => rw [List.foldl_cons, List.foldl_cons, h f List.mem_cons_self, ih (fun g hg => h g (.tail f hg))]

/-- The entry a write of every field of an entry in range stores is that entry. -/
theorem effectiveEntry_fields {e : CircuitEntry} (h : e.inRange) (d : CircuitEntry) : effectiveEntry d e.fields = e := by
  rw [effectiveEntry, foldl_clamped (clamped_of_mem_fields h), foldl_ask_fields, settled_of_inRange h]

/-! ### The items of an entry read -/

theorem readMask_octets_self {n : Nat} (small : n ≤ 32) (m : BitVec n) : readMask n (octets 4 m.toNat) = some m := by
  have lt : m.toNat < 256 ^ 4 := m.isLt.trans_le (Nat.pow_le_pow_right (by decide) small)
  simp only [readMask, readNumber_octets lt, m.isLt, if_true, BitVec.ofNat_toNat, BitVec.setWidth_eq]

theorem number_ofNat_octets (a : BitVec 48) : BitVec.ofNat 48 (number (octets 6 a.toNat)) = a := by
  rw [number_octets_of_lt (n := 6) a.isLt, BitVec.ofNat_toNat, BitVec.setWidth_eq]

theorem readPathRecord_pathOctets {v : Option PathRecord} (h : ∀ r, v = some r → r.inRange) :
    readPathRecord (pathOctets v) = some v := by
  cases v with
  | none => rfl
  | some r =>
    obtain ⟨⟨_, outLabel⟩, tagged⟩ := h r rfl
    obtain ⟨destination, label, tag⟩ := r
    have label_lt : label < 256 ^ 2 := lt_of_le_of_lt outLabel (by decide)
    cases tag with
    | none =>
      have len : (pathOctets (some ⟨destination, label, none⟩)).length = 8 := by simp [pathOctets]
      have address : numberAt (pathOctets (some ⟨destination, label, none⟩)) 0 6 = number (octets 6 destination.toNat) := by
        rfl
      have out : numberAt (pathOctets (some ⟨destination, label, none⟩)) 6 2 = number (octets 2 label) := rfl
      simp only [readPathRecord, len, address, out, number_ofNat_octets, number_octets_of_lt label_lt]
    | some x =>
      obtain ⟨⟨_, networkTag⟩, priority⟩ := tagged x rfl
      have tag_lt : x.networkTag < 256 ^ 2 := lt_of_le_of_lt networkTag (by decide)
      have priority_lt : x.priority < 256 ^ 1 := lt_of_le_of_lt priority (by decide)
      have len : (pathOctets (some ⟨destination, label, some x⟩)).length = 11 := by simp [pathOctets]
      have address : numberAt (pathOctets (some ⟨destination, label, some x⟩)) 0 6 = number (octets 6 destination.toNat) := rfl
      have out : numberAt (pathOctets (some ⟨destination, label, some x⟩)) 6 2 = number (octets 2 label) := rfl
      have tag : numberAt (pathOctets (some ⟨destination, label, some x⟩)) 8 2 = number (octets 2 x.networkTag) := rfl
      have pcp : numberAt (pathOctets (some ⟨destination, label, some x⟩)) 10 1 = number (octets 1 x.priority) := rfl
      simp only [readPathRecord, len, address, out, tag, pcp, number_ofNat_octets, number_octets_of_lt label_lt,
        number_octets_of_lt tag_lt, number_octets_of_lt priority_lt]

theorem readCircuitField_tributary (e : CircuitEntry) :
    readCircuitField ⟨1, e.values.headD []⟩ = some (.tributary e.tributary) := by
  cases named : e.tributary with
  | none =>
    have value : e.values.headD [] = octets 1 255 := by simp only [CircuitEntry.values, named, List.headD_cons]
    rw [value]
    rfl
  | some t =>
    have value : e.values.headD [] = octets 1 t.val := by simp only [CircuitEntry.values, named, List.headD_cons]
    have small : t.val < 16 := t.isLt
    simp only [readCircuitField, BitVec.reduceToNat, value, readNumber_octets (show t.val < 256 ^ 1 by omega), Option.bind_some,
      small, dite_true, if_neg (show t.val ≠ 255 by omega)]

theorem readCircuitField_slotSet {v : BitVec 32} (h : v.getLsbD 0 = false) :
    readCircuitField ⟨2, octets 4 v.toNat⟩ = some (.slotSet v) := by
  have even : ¬v.toNat % 2 = 1 := by simpa [BitVec.getLsbD, Nat.testBit_zero] using h
  simp only [readCircuitField, BitVec.reduceToNat, readNumber_octets (n := 4) v.isLt, Option.bind_some, if_neg even,
    BitVec.ofNat_toNat, BitVec.setWidth_eq]

theorem readCircuitField_policy (v : Policy) : readCircuitField ⟨19, octets 1 v.code⟩ = some (.policy v) := by cases v <;> rfl

theorem readCircuitField_latePolicy (v : LatePolicy) : readCircuitField ⟨20, octets 1 v.code⟩ = some (.latePolicy v) := by
  cases v <;> rfl

theorem readCircuitField_substitution (v : Substitution) : readCircuitField ⟨21, octets 1 v.code⟩ = some (.substitution v) := by
  cases v <;> rfl

/-- The items of the entry's fields, in code order. -/
def CircuitEntry.items (e : CircuitEntry) : List FieldItem :=
  e.values.zipIdx.map (fun x => (⟨BitVec.ofNat 8 (x.2 + 1), x.1⟩ : FieldItem))

theorem mapM_cons_some {α β : Type} {f : α → Option β} {x : α} {y : β} {xs : List α} {ys : List β} (head : f x = some y)
    (tail : xs.mapM f = some ys) : (x :: xs).mapM f = some (y :: ys) := by
  simp [List.mapM_cons, head, tail]

/-- A field of one octet, or of two, read back (R190). -/
theorem map_readNumber {n v : Nat} (field : Nat → CircuitField) (h : v < 256 ^ n) :
    (readNumber n (octets n v)).map field = some (field v) := by rw [readNumber_octets h, Option.map_some]

theorem readFields_items {e : CircuitEntry} (h : e.inRange) : readFields readCircuitField e.items = some e.fields := by
  obtain ⟨⟨_, frames⟩, inLabel, depth, ⟨_, delay⟩, window, shiftA, ⟨_, shiftB⟩, ⟨_, lockThreshold⟩, ⟨_, unlockThreshold⟩,
    reentryTolerance, ⟨_, starvationTimeout⟩, ⟨_, pathTimeout⟩, ⟨_, engageTimeout⟩, restoreHoldOff, rttLimit, skewLimit, slotSet,
    paths⟩ := h
  have codes : (e.items.map FieldItem.code).Nodup := by
    have listed : e.items.map FieldItem.code = (List.range 24).map (fun i => BitVec.ofNat 8 (i + 1)) := rfl
    rw [listed]
    decide
  have deepest : (e.depth - 1) * e.frames ≤ 127 * 16 := Nat.mul_le_mul (by omega) frames
  have byte {v : Nat} (field : Nat → CircuitField) (h : v < 256) := map_readNumber (n := 1) field h
  have word {v : Nat} (field : Nat → CircuitField) (h : v < 65536) := map_readNumber (n := 2) field h
  rw [readFields, if_pos codes]
  exact mapM_cons_some (readCircuitField_tributary e) <| mapM_cons_some (readCircuitField_slotSet slotSet) <|
    mapM_cons_some (byte .frames (by omega)) <| mapM_cons_some (word .inLabel (by omega)) <|
    mapM_cons_some (congrArg (Option.map (CircuitField.path .A)) (readPathRecord_pathOctets (paths .A))) <|
    mapM_cons_some (congrArg (Option.map (CircuitField.path .B)) (readPathRecord_pathOctets (paths .B))) <|
    mapM_cons_some (byte .depth (by omega)) <| mapM_cons_some (word .playoutDelay (by omega)) <|
    mapM_cons_some (byte .window (by omega)) <| mapM_cons_some (byte .shiftA (by omega)) <|
    mapM_cons_some (byte .shiftB (by omega)) <| mapM_cons_some (byte .lockThreshold (by omega)) <|
    mapM_cons_some (word .unlockThreshold (by omega)) <| mapM_cons_some (word .reentryTolerance (by omega)) <|
    mapM_cons_some (byte .starvationTimeout (by omega)) <| mapM_cons_some (byte .pathTimeout (by omega)) <|
    mapM_cons_some (byte .engageTimeout (by omega)) <| mapM_cons_some (byte .restoreHoldOff (by omega)) <|
    mapM_cons_some (readCircuitField_policy e.policy) <| mapM_cons_some (readCircuitField_latePolicy e.latePolicy) <|
    mapM_cons_some (readCircuitField_substitution e.substitution) <| mapM_cons_some (word .rttLimit (by omega)) <|
    mapM_cons_some (word .skewLimit (by omega)) <|
    mapM_cons_some (congrArg (Option.map CircuitField.enables) (readMask_octets_self (by decide) e.enables)) rfl

/-- Settles O41, from the fields of the entry read back and stored. -/
theorem circuitEntryReadsBackWhole : Obligations.CircuitEntryReadsBackWhole := fun e d h =>
  ⟨e.fields, readFields_items h, effectiveEntry_fields h d, foldl_ask_fields e d⟩

end Sys2Proof.Machine

/-! PROOFS. A step with no command waiting: one tick of the local reference, or the due events queued (R129, R148, R149; logs 1, 2,
7, 8, 32). -/

namespace Sys2Proof.Machine

variable {s : State}

/-! ### One tick (R129, R148, R149) -/

/-- The fine ticks of its source's time that the transmit bit timing has advanced since its frame began, the bits sent counted
whole. -/
def Transmit.sent (x : Transmit) : Nat := x.bits * 2 ^ 29 + x.bitTime

/-- A transmit bit timing after a tick of a source with the given offset (R148, R149). -/
def Transmit.TimedBy (before after : Transmit) (offset : Int) : Prop :=
  after.tickRate = (2 ^ 27 + offset).toNat
  ∧ if 2 ^ 29 ≤ before.bitTime + (2 ^ 27 + offset).toNat then
      after.bits = before.bits + 1 ∧ after.bitTime = before.bitTime + (2 ^ 27 + offset).toNat - 2 ^ 29
    else after.bits = before.bits ∧ after.bitTime = before.bitTime + (2 ^ 27 + offset).toNat

theorem tick_timedBy (x : Transmit) (offset : Int) : x.TimedBy (x.tick (some offset)) offset := by
  by_cases full : 2 ^ 29 ≤ x.bitTime + (2 ^ 27 + offset).toNat
  · have e : x.tick (some offset) = { x with
        bits := x.bits + 1, bitTime := x.bitTime + (2 ^ 27 + offset).toNat - 2 ^ 29, tickRate := (2 ^ 27 + offset).toNat } :=
      if_pos full
    rw [e]
    exact ⟨rfl, by rw [if_pos full]; exact ⟨rfl, rfl⟩⟩
  · have e : x.tick (some offset) = { x with
        bitTime := x.bitTime + (2 ^ 27 + offset).toNat, tickRate := (2 ^ 27 + offset).toNat } := if_neg full
    rw [e]
    exact ⟨rfl, by rw [if_neg full]; exact ⟨rfl, rfl⟩⟩

theorem tick_loop (x : Transmit) : (x.tick none).bits = x.bits ∧ (x.tick none).bitTime = min (x.bitTime + 2 ^ 27) (2 ^ 29)
    ∧ (x.tick none).tickRate = 2 ^ 27 := by
  simp [Transmit.tick, fineRate, bitFine]

/-- A tick takes the transmit time on by the rate of its source, a bit's end or not. -/
theorem sent_timedBy {x y : Transmit} {offset : Int} (h : x.TimedBy y offset) : y.sent = x.sent + (2 ^ 27 + offset).toNat := by
  obtain ⟨-, advance⟩ := h
  unfold Transmit.sent
  split at advance
  · next full => rw [advance.1, advance.2]; omega
  · rw [advance.1, advance.2]; omega

/-- R158: recovered time and the transmit time of a tributary it times advance alike in a tick. -/
theorem rt_sub_sent (rt : FineTicks) (sent : Nat) {freq : Int} (low : -2 ^ 27 ≤ freq) :
    rt + BitVec.ofInt 59 (2 ^ 27 + freq) - BitVec.ofNat 59 (sent + (2 ^ 27 + freq).toNat) = rt - BitVec.ofNat 59 sent := by
  obtain ⟨n, hn⟩ := Int.eq_ofNat_of_zero_le (show 0 ≤ 2 ^ 27 + freq by omega)
  rw [hn, BitVec.ofInt_natCast, Int.toNat_natCast, BitVec.ofNat_add]
  ring

theorem recovery_tick (r : Recovery) : r.tick = { r with
    rt := r.rt.map (fun x => x + BitVec.ofInt 59 (2 ^ 27 + r.freq)), tickFreq := r.freq } := by
  simp only [Recovery.tick, fineAdvance, one_mul]

theorem tick_kept (x : Transmit) (offset : Option Int) : x.tick offset = { x with
    bits := (x.tick offset).bits, bitTime := (x.tick offset).bitTime, tickRate := (x.tick offset).tickRate } := by
  obtain ⟨bits, bitTime, rate, e⟩ : ∃ bits bitTime rate,
      x.tick offset = { x with bits := bits, bitTime := bitTime, tickRate := rate } := by
    cases offset with
    | none => exact ⟨_, _, _, rfl⟩
    | some offset =>
      unfold Transmit.tick
      dsimp only
      split
      · exact ⟨_, _, _, rfl⟩
      · exact ⟨_, _, _, rfl⟩
  rw [e]

/-! ### The events that are due -/

theorem mem_dueOfCircuit (s : State) (c : Fin 64) (i : Instr) : i ∈ s.dueOfCircuit c ↔
    (i = .engageTimerExpiry c ∧ expired s.lt (s.circuit c).control.engageTimer = true)
    ∨ (i = .starvationTimerExpiry c ∧ expired s.lt (s.circuit c).control.starvationTimer = true)
    ∨ (∃ p, i = .pathTimerExpiry c p ∧ expired s.lt ((s.circuit c).merge.timers.get p) = true)
    ∨ (i = .restoreHoldOffExpiry c ∧ expired s.lt (s.circuit c).merge.holdOff = true) := by
  have ports (f : Port → Prop) : (∃ p, f p) ↔ f .A ∨ f .B :=
    ⟨fun ⟨p, h⟩ => by cases p; exact .inl h; exact .inr h, fun h => h.elim (⟨_, ·⟩) (⟨_, ·⟩)⟩
  rw [ports]
  simp only [State.dueOfCircuit, List.mem_append, List.mem_ite_nil_right, List.mem_singleton, Pair.get]
  tauto

theorem generatedDue_iff (s : State) (t : Fin 16) : s.generatedDue t = true ↔ (s.tributary t).line.source = .generated
    ∧ 0 ≤ signed32 s.lt ((s.tributary t).line.lastEvent + 1024) := by
  simp [State.generatedDue, reached]

theorem mem_dueOfTributary (s : State) (t : Fin 16) (i : Instr) : i ∈ s.dueOfTributary t ↔
    (i = .generatedFrameEvent t ∧ (s.tributary t).line.source = .generated
        ∧ 0 ≤ signed32 s.lt ((s.tributary t).line.lastEvent + 1024))
    ∨ (i = .transmitFrameStart t ∧ 256 ≤ (s.tributary t).transmit.bits) := by
  simp only [State.dueOfTributary, List.mem_append, List.mem_ite_nil_right, List.mem_singleton, generatedDue_iff,
    State.frameStartDue, decide_eq_true_eq]
  tauto

theorem ready_iff (k : PortState) : k.ready = true ↔ k.link = .up ∧ k.sending = none := by
  simp [PortState.ready]

theorem mem_dueOfPort (s : State) (p : Port) (i : Instr) : i ∈ s.dueOfPort p ↔
    (i = .managementFrame p ∧ (s.port p).waiting ≠ [])
    ∨ (i = .copyDeparture p ∧ (s.port p).link = .up ∧ (s.port p).sending = none ∧ (s.port p).circuitQueue ≠ [])
    ∨ (i = .responseDeparture p ∧ (s.port p).link = .up ∧ (s.port p).sending = none
        ∧ (s.port p).circuitQueue = [] ∧ (s.port p).responseQueue ≠ []) := by
  simp only [State.dueOfPort, List.mem_append, List.isEmpty_iff]
  by_cases ready : (s.port p).ready = true
  · obtain ⟨up, free⟩ := (ready_iff _).mp ready
    by_cases waits : (s.port p).waiting = [] <;> by_cases copies : (s.port p).circuitQueue = [] <;>
      by_cases responses : (s.port p).responseQueue = [] <;> simp [ready, up, free, waits, copies, responses]
  · have busy : ¬((s.port p).link = .up ∧ (s.port p).sending = none) := fun h => ready ((ready_iff _).mpr h)
    by_cases waits : (s.port p).waiting = []
    · simp only [ready, waits]
      simp
      tauto
    · simp [ready, waits]
      tauto

theorem mem_due (s : State) (i : Instr) : i ∈ s.due ↔
    (∃ c, i = .engageTimerExpiry c ∧ expired s.lt (s.circuit c).control.engageTimer = true)
    ∨ (∃ c, i = .starvationTimerExpiry c ∧ expired s.lt (s.circuit c).control.starvationTimer = true)
    ∨ (∃ c p, i = .pathTimerExpiry c p ∧ expired s.lt ((s.circuit c).merge.timers.get p) = true)
    ∨ (∃ c, i = .restoreHoldOffExpiry c ∧ expired s.lt (s.circuit c).merge.holdOff = true)
    ∨ (∃ t, i = .generatedFrameEvent t ∧ (s.tributary t).line.source = .generated
        ∧ 0 ≤ signed32 s.lt ((s.tributary t).line.lastEvent + 1024))
    ∨ (∃ t, i = .transmitFrameStart t ∧ 256 ≤ (s.tributary t).transmit.bits)
    ∨ (∃ p, i = .managementFrame p ∧ (s.port p).waiting ≠ [])
    ∨ (∃ p, i = .copyDeparture p ∧ (s.port p).link = .up ∧ (s.port p).sending = none ∧ (s.port p).circuitQueue ≠ [])
    ∨ (∃ p, i = .responseDeparture p ∧ (s.port p).link = .up ∧ (s.port p).sending = none
        ∧ (s.port p).circuitQueue = [] ∧ (s.port p).responseQueue ≠ []) := by
  have eachPort : i ∈ s.dueOfPort .A ∨ i ∈ s.dueOfPort .B ↔ ∃ p, i ∈ s.dueOfPort p :=
    ⟨fun h => h.elim (⟨_, ·⟩) (⟨_, ·⟩), fun ⟨p, h⟩ => by cases p; exact .inl h; exact .inr h⟩
  have all : i ∈ s.due ↔ (∃ c, i ∈ s.dueOfCircuit c) ∨ (∃ t, i ∈ s.dueOfTributary t) ∨ ∃ p, i ∈ s.dueOfPort p := by
    simp only [State.due, List.mem_append, List.mem_flatten, List.mem_map, exists_exists_eq_and, mem_allCircuits,
      mem_allTributaries, true_and, ← eachPort, or_assoc]
  rw [all]
  simp only [mem_dueOfCircuit, mem_dueOfTributary, mem_dueOfPort, exists_or, or_assoc]

/-! ### The step -/

theorem step_of_empty (empty : s.pending = []) : step s = .next s.idle := by
  unfold step
  rw [empty]

theorem idle_of_none (none : s.due = []) : s.idle = s.tick := by
  unfold State.idle
  rw [none]

theorem idle_of_due (some : s.due ≠ []) :
    s.idle = { s with pending := s.pending ++ freeOrder s.draws s.due, draws := s.draws + s.due.length } := by
  unfold State.idle
  split
  · next none => exact absurd none some
  · rfl

/-- The offset of each mode (R148). -/
theorem rateOffset_eq (s : State) (t : Fin 16) :
    ((s.tributary t).clocking.actual = .free → s.rateOffset t = some 0)
    ∧ ((s.tributary t).clocking.actual = .loop → s.rateOffset t = none)
    ∧ ((s.tributary t).clocking.actual = .adaptive →
        s.rateOffset t = some (s.circuit (s.tributary t).clocking.timing).recovery.freq)
    ∧ ((s.tributary t).clocking.actual = .holdover → s.rateOffset t = some (s.tributary t).clocking.holdover) := by
  refine ⟨fun mode => ?_, fun mode => ?_, fun mode => ?_, fun mode => ?_⟩ <;> simp only [State.rateOffset, mode]

/-- Settles O2, from what a tick does to each part and what is due. -/
theorem idleStepTicksOrQueuesDueEvents : Obligations.IdleStepTicksOrQueuesDueEvents := by
  refine ⟨fun s empty none => ?_, fun s empty some => ⟨freeOrder s.draws s.due, freeOrder_perm _ _, ?_⟩, mem_due⟩
  · have row : step s = .next s.tick := by rw [step_of_empty empty, idle_of_none none]
    refine ⟨_, row, rfl, fun c => ?_, fun t => ?_, fun t => ?_, fun t rt => ?_, fun p => ?_, rfl, rfl, rfl, rfl, empty⟩
    · rw [circuit_tick, recovery_tick]
    · rw [tributary_tick]
      exact congrArg (fun x => { s.tributary t with transmit := x }) (tick_kept _ _)
    · intro k x timedBy
      have tick : x = k.transmit.tick (s.rateOffset t) := congrArg Tributary.transmit (tributary_tick s t)
      have timed {offset : Int} (h : s.rateOffset t = some offset) : timedBy offset := by
        have advance := tick_timedBy k.transmit offset
        rw [← h, ← tick] at advance
        exact advance
      have offset := rateOffset_eq s t
      cases mode : k.clocking.actual with
      | free => exact timed (offset.1 mode)
      | loop =>
        rw [offset.2.1 mode] at tick
        rw [tick]
        exact tick_loop _
      | adaptive => exact timed (offset.2.2.1 mode)
      | holdover => exact timed (offset.2.2.2 mode)
    · intro c adaptive held low sent
      have advance := sent_timedBy (tick_timedBy (s.tributary t).transmit (s.circuit c).recovery.freq)
      have timed : (s.tick.tributary t).transmit = (s.tributary t).transmit.tick (some (s.circuit c).recovery.freq) := by
        rw [tributary_tick, (rateOffset_eq s t).2.2.1 adaptive]
      refine ⟨rt + BitVec.ofInt 59 (2 ^ 27 + (s.circuit c).recovery.freq), ?_, ?_⟩
      · rw [circuit_tick, recovery_tick, held]
        rfl
      · have after : sent s.tick = BitVec.ofNat 59 ((s.tributary t).transmit.sent + (2 ^ 27 + (s.circuit c).recovery.freq).toNat) := by
          rw [← advance, ← timed]
          rfl
        rw [after]
        exact rt_sub_sent rt _ low
    · rw [port_tick]
      rfl
  · rw [step_of_empty empty, idle_of_due some, empty, List.nil_append]

end Sys2Proof.Machine

/-! PROOFS. Management frames: what is discarded, and the response of the requests of one that is executed (R170 to R174). -/

namespace Sys2Proof.Machine

variable {s u : State}

/-! ### The requests of a frame, one by one (R171, R172) -/

/-- What stands at the place of the next record of a frame: nothing once its end has cut a record short. -/
def nextRecord : Option (List Byte) → RecordRead
  | none => ⟨0, 0, 0, none, none⟩
  | some o => readRecord o

/-- A short result for a record: its verb, object kind and index with a code (R171). -/
def RecordRead.short (x : RecordRead) (code : Code) : Result := resultOf x.verb x.kind x.index code

theorem RecordRead.short_size (x : RecordRead) (code : Code) : (x.short code).size = 7 := rfl

theorem executeRequests_full (n : Nat) (o : Option (List Byte)) (used : Nat) (s : State) :
    executeRequests (n + 1) o true used s = ((executeRequests n (nextRecord o).next true (used + 7) s).1,
      (nextRecord o).short .notExecuted :: (executeRequests n (nextRecord o).next true (used + 7) s).2) := by
  cases o <;> rfl

theorem executeRequests_malformed {o : Option (List Byte)} (cut : (nextRecord o).request = none) (n used : Nat) (s : State) :
    executeRequests (n + 1) o false used s = ((executeRequests n (nextRecord o).next false (used + 7) s).1,
      (nextRecord o).short .malformed :: (executeRequests n (nextRecord o).next false (used + 7) s).2) := by
  cases o with
  | none => rfl
  | some o =>
    have cut' : (readRecord o).request = none := cut
    simp only [executeRequests, cut', Bool.false_eq_true, if_false]
    rfl

theorem executeRequests_request {o : Option (List Byte)} {request : Request} (whole : (nextRecord o).request = some request)
    (n used : Nat) (s : State) :
    executeRequests (n + 1) o false used s = if 1480 < used + (s.execute request).2.size + 7 * n then
        ((executeRequests n (nextRecord o).next true (used + 7) s).1,
          (nextRecord o).short .notExecuted :: (executeRequests n (nextRecord o).next true (used + 7) s).2)
      else
        ((executeRequests n (nextRecord o).next false (used + (s.execute request).2.size)
            ((s.execute request).1.answered (s.execute request).2)).1,
          (s.execute request).2 :: (executeRequests n (nextRecord o).next false (used + (s.execute request).2.size)
            ((s.execute request).1.answered (s.execute request).2)).2) := by
  cases o with
  | none => cases whole
  | some o =>
    have whole' : (readRecord o).request = some request := whole
    simp only [executeRequests, whole', Bool.false_eq_true, if_false]
    rfl

/-- A measure of the results of a frame, followed through its requests: what each result adds to it, and what it is in the end. -/
theorem executeRequests_results (P : Nat → Nat → List Result → Prop) (nil : ∀ used, P 0 used [])
    (cons : ∀ n used r l, used + r.size + 7 * n ≤ 1480 ∨ r.size = 7 → P n (used + r.size) l → P (n + 1) used (r :: l))
    (n : Nat) : ∀ (o : Option (List Byte)) (full : Bool) (used : Nat) (s : State), P n used (executeRequests n o full used s).2 := by
  induction n with
  | zero => exact fun o full used s => nil used
  | succ n ih =>
    intro o full used s
    cases full with
    | true =>
      rw [executeRequests_full]
      exact cons n used _ _ (.inr rfl) (ih _ _ _ _)
    | false =>
      cases request : (nextRecord o).request with
      | none =>
        rw [executeRequests_malformed request]
        exact cons n used _ _ (.inr rfl) (ih _ _ _ _)
      | some x =>
        rw [executeRequests_request request]
        split
        · exact cons n used _ _ (.inr rfl) (ih _ _ _ _)
        · next fits => exact cons n used _ _ (.inl (not_lt.mp fits)) (ih _ _ _ _)

theorem length_results (n : Nat) (o : Option (List Byte)) (full : Bool) (used : Nat) (s : State) :
    (executeRequests n o full used s).2.length = n :=
  executeRequests_results (fun n _ l => l.length = n) (fun _ => rfl)
    (fun n _ _ l _ h => by rw [List.length_cons, h]) n o full used s

/-- The results of a frame fit a response when the short results of every request do (R172). -/
theorem size_results (n : Nat) (o : Option (List Byte)) (full : Bool) (used : Nat) (s : State) (room : used + 7 * n ≤ 1480) :
    used + ((executeRequests n o full used s).2.map Result.size).sum ≤ 1480 :=
  executeRequests_results (fun n used l => used + 7 * n ≤ 1480 → used + (l.map Result.size).sum ≤ 1480) (fun _ h => by simpa using h)
    (fun n used r l fits ih room => by
      rw [List.map_cons, List.sum_cons, ← Nat.add_assoc]
      exact ih (by omega)) n o full used s room

/-! ### What no request touches -/

/-- The commands that wait and the count of free choices are kept. -/
def KeepsQueue (s u : State) : Prop := u.pending = s.pending ∧ u.draws = s.draws

theorem KeepsQueue.refl (s : State) : KeepsQueue s s := ⟨rfl, rfl⟩

theorem KeepsQueue.trans {w : State} (h : KeepsQueue s u) (l : KeepsQueue u w) : KeepsQueue s w :=
  ⟨l.1.trans h.1, l.2.trans h.2⟩

theorem SameRun.keepsQueue (h : SameRun s u) : KeepsQueue s u := ⟨h.pending, h.draws⟩

theorem restart_keepsQueue (s : State) : KeepsQueue s s.restart := by
  have run := run_releaseList allCircuits s
  rw [restart_eq, releaseAll_eq]
  generalize State.releaseList allCircuits s = v at run
  exact run.keepsQueue

theorem tableWrite_keepsQueue (kind index : Byte) (items : List FieldItem) : KeepsQueue s (s.tableWrite kind index items).1 := by
  unfold State.tableWrite
  split
  · split
    · exact .refl s
    · simp only [State.writeCircuit]
      split
      · exact .refl s
      · split
        · exact .refl s
        · split
          · exact .refl s
          · split
            · exact .refl s
            · exact ⟨rfl, rfl⟩
  · split
    · exact .refl s
    · simp only [State.writeTributary]
      split
      · exact .refl s
      · split
        · exact (storeTributary_stored s _ _ _).run.keepsQueue
        · exact .refl s
  · split
    · exact .refl s
    · simp only [State.writePort]
      split
      · exact .refl s
      · exact ⟨rfl, rfl⟩
  · exact .refl s

theorem command_keepsQueue (kind index command path : Byte) : KeepsQueue s (s.command kind index command path).1 := by
  unfold State.command
  split
  · split
    · exact .refl s
    · next c _ =>
      show KeepsQueue s (s.circuitCommand c command path).1
      unfold State.circuitCommand
      split
      · split
        · exact (engage_only s c).run.keepsQueue
        · exact .refl s
      · unfold State.release
        dsimp only
        split
        · exact (releaseEngaged_only s c true).run.keepsQueue
        · exact .refl s
      · split
        · exact (reacquire_only s c).run.keepsQueue
        · exact .refl s
      · split
        · exact .refl s
        · split
          · exact ⟨rfl, rfl⟩
          · exact .refl s
      · exact .refl s
  · exact .refl s

theorem countersRead_keepsQueue (kind index clear : Byte) : KeepsQueue s (s.countersRead kind index clear).1 := by
  unfold State.countersRead
  split
  · split
    · exact .refl s
    · split
      · exact .refl s
      · dsimp only
        split <;> exact ⟨rfl, rfl⟩
  · split
    · exact .refl s
    · split
      · exact .refl s
      · dsimp only
        split <;> exact ⟨rfl, rfl⟩
  · exact .refl s

theorem flagsClear_keepsQueue (kind index : Byte) (mask : BitVec 32) : KeepsQueue s (s.flagsClear kind index mask).1 := by
  unfold State.flagsClear
  split
  all_goals
    first
    | exact .refl s
    | split
      · exact .refl s
      · split <;> exact ⟨rfl, rfl⟩

theorem execute_keepsQueue (r : Request) : KeepsQueue s (s.execute r).1 := by
  cases r with
  | tableRead kind index count => exact .refl s
  | tableWrite kind index items => exact tableWrite_keepsQueue kind index items
  | circuitCommand kind index command path => exact command_keepsQueue kind index command path
  | statusRead kind index => exact .refl s
  | countersRead kind index clear => exact countersRead_keepsQueue kind index clear
  | flagsClear kind index mask => exact flagsClear_keepsQueue kind index mask
  | eventsTake kind index n =>
    show KeepsQueue s (s.eventsTake kind index n).1
    unfold State.eventsTake
    split
    · split <;> exact ⟨rfl, rfl⟩
    · exact .refl s
  | restart kind index =>
    show KeepsQueue s (s.restartRequest kind index).1
    unfold State.restartRequest
    split
    · split
      · exact .refl s
      · exact restart_keepsQueue s
    · exact .refl s
  | unknown verb kind index => exact .refl s

theorem executeRequests_keepsQueue (n : Nat) (o : Option (List Byte)) (full : Bool) (used : Nat) (s : State) :
    KeepsQueue s (executeRequests n o full used s).1 :=
  executeRequests_induction (KeepsQueue s) (fun r _ h => h.trans (execute_keepsQueue r)) n o full used s (.refl s)

/-! ### The response (R174, R192) -/

theorem Result.octets_eq (r : Result) : r.octets = [r.verb, r.kind, r.index] ++ Sys2Proof.Machine.octets 2 (7 + r.data.length)
    ++ [BitVec.ofNat 8 r.code.number, if r.clamped then 1 else 0] ++ r.data := by
  have clamped : Sys2Proof.Machine.octets 1 r.clamped.toNat = [if r.clamped then 1 else 0] := by cases r.clamped <;> rfl
  rw [Result.octets, clamped]
  simp [Sys2Proof.Machine.octets]

theorem length_resultOctets (r : Result) : r.octets.length = r.size := by
  rw [Result.octets_eq, Result.size]
  simp
  omega

theorem responseOctets_eq (s : State) (identifier : BitVec 16) (results : List Result) : responseOctets s identifier results
    = [1, 2, 0, 0] ++ octets 2 identifier.toNat ++ octets 1 results.length ++ octets 1 s.events.length
      ++ [if s.overflow then 1 else 0] ++ results.flatMap Result.octets := by
  have overflow : octets 1 s.overflow.toNat = [if s.overflow then 1 else 0] := by cases s.overflow <;> rfl
  have header : octets 1 1 ++ octets 1 2 ++ octets 2 0 = [1, 2, 0, 0] := by decide
  rw [responseOctets, overflow, List.flatMap, header]

theorem length_responseOctets (s : State) (identifier : BitVec 16) (results : List Result) :
    (responseOctets s identifier results).length = 9 + (results.map Result.size).sum := by
  rw [responseOctets_eq]
  simp only [List.length_append, List.length_flatMap, length_resultOctets, length_octets, List.length_cons, List.length_nil]

theorem placeResponse_eq (s : State) (p : Port) (x : Response) : s.placeResponse p x = if (s.port p).link = .up then
    s.onPort p (fun k => { k with responseQueue := k.responseQueue ++ [x] }) else s := by
  unfold State.placeResponse
  cases (s.port p).link <;> rfl

/-! ### The execution of an accepted frame (R170) -/

theorem execManagementFrame_waiting {p : Port} {f : AcceptedFrame} {rest : List AcceptedFrame}
    (waiting : (s.port p).waiting = f :: rest) : exec (.managementFrame p) s
      = .next ((s.onPort p (fun k => { k with waiting := rest })).runFrame p f) := by
  show execManagementFrame p s = _
  simp only [execManagementFrame, waiting]

/-- Settles O35, from the port a discarded frame leaves. -/
theorem unrunnableManagementFrameIsDropped : Obligations.UnrunnableManagementFrameIsDropped := by
  intro p f rest s waiting unrunnable
  have refused : (s.onPort p (fun k => { k with waiting := rest })).frameRuns p f = false := by
    rw [State.frameRuns, port_onPort_self]
    rcases unrunnable with h | h | h
    · simp [not_lt.mpr h]
    · simp [h]
    · simp [not_le.mpr h]
  have row := execManagementFrame_waiting waiting
  rw [State.runFrame, refused, if_neg (by decide)] at row
  refine ⟨_, row, ?_, ?_, ?_⟩
  · rw [countPort_eq]
    exact ((OnlyPort.onPort s p _ rfl).trans (.onPort _ p _ rfl)).trans (.raise _ p _ _)
  · rw [countPort_eq, raisePort_eq, port_raise_self, port_onPort_self, port_onPort_self]
    rfl
  · rw [countPort_eq, raisePort_eq, flag_raise_self, flag_onPort _ _ _ _ rfl, flag_onPort _ _ _ _ rfl]
    rfl

/-- Settles O36, from the results of the requests and what they leave alone. -/
theorem managementFrameIsAnswered : Obligations.ManagementFrameIsAnswered := by
  intro p f rest s waiting room low high
  have row := execManagementFrame_waiting waiting
  have runs : (s.onPort p (fun k => { k with waiting := rest })).frameRuns p f = true := by
    rw [State.frameRuns, port_onPort_self]
    simp [room, low, high]
  rw [State.runFrame, if_pos runs] at row
  have kept := executeRequests_keepsQueue f.count (some f.records) false 9 (s.onPort p (fun k => { k with waiting := rest }))
  have serves := executeRequests_serves f.count (some f.records) false 9 (s.onPort p (fun k => { k with waiting := rest }))
  have count := length_results f.count (some f.records) false 9 (s.onPort p (fun k => { k with waiting := rest }))
  have size := size_results f.count (some f.records) false 9 (s.onPort p (fun k => { k with waiting := rest })) (by omega)
  dsimp only
  generalize executeRequests f.count (some f.records) false 9 (s.onPort p (fun k => { k with waiting := rest })) = y
    at row kept serves count size ⊢
  have port (q : Port) : (s.onPort p (fun k => { k with waiting := rest })).port q
      = if q = p then { s.port p with waiting := rest } else s.port q := port_onPort s p q _
  have link : (y.1.port p).link = (s.port p).link := by rw [serves.link, port, if_pos rfl]
  have queue : (y.1.port p).responseQueue = (s.port p).responseQueue := by rw [serves.responses, port, if_pos rfl]
  refine ⟨⟨f.source, responseOctets y.1 f.identifier y.2⟩, ?_, rfl, count, ?_, ?_, serves.lt, kept.1, kept.2, fun q => ?_⟩
  · rw [row, placeResponse_eq, link]
    refine congrArg Host.Outcome.next (ite_congr rfl (fun _ => ?_) (fun _ => rfl))
    exact onPort_congr y.1 p (by rw [queue])
  · rw [responseOctets_eq, count]
    exact congrArg (_ ++ List.flatMap · y.2) (funext Result.octets_eq)
  · rw [length_responseOctets]
    exact size
  · rw [serves.link, serves.sending, serves.responses, serves.waiting, port]
    split
    · next e => subst e; exact ⟨rfl, rfl, rfl, rfl⟩
    · exact ⟨rfl, rfl, rfl, rfl⟩

end Sys2Proof.Machine

/-! PROOFS. The requests of a frame: read, executed and answered in order while their results fit (R171 to R173, R190, R191). -/

namespace Sys2Proof.Machine

variable {s : State}

/-! ### A frame that is full (R171, R172) -/

theorem executeRequests_full_state (n : Nat) (o : Option (List Byte)) (used : Nat) (s : State) :
    (executeRequests n o true used s).1 = s := by
  induction n generalizing o used with
  | zero => rfl
  | succ n ih => rw [executeRequests_full]; exact ih _ _

theorem executeRequests_full_results (n : Nat) (o : Option (List Byte)) (used : Nat) (s : State) :
    ∀ r ∈ (executeRequests n o true used s).2, r.code = .notExecuted ∧ r.clamped = false ∧ r.data = [] := by
  induction n generalizing o used with
  | zero => exact nofun
  | succ n ih =>
    rw [executeRequests_full]
    intro r m
    rcases List.mem_cons.mp m with e | m
    · subst e; exact ⟨rfl, rfl, rfl⟩
    · exact ih _ _ r m

theorem executeRequests_full_none (n used : Nat) (s : State) :
    (executeRequests n none true used s).2 = List.replicate n ⟨0, 0, 0, .notExecuted, false, []⟩ := by
  induction n generalizing used with
  | zero => rfl
  | succ n ih =>
    rw [executeRequests_full, List.replicate_succ]
    exact congrArg (_ :: ·) (ih _)

theorem executeRequests_cut (n used : Nat) (s : State) :
    executeRequests n none false used s = (s, List.replicate n ⟨0, 0, 0, .malformed, false, []⟩) := by
  induction n generalizing used with
  | zero => rfl
  | succ n ih =>
    rw [executeRequests_malformed rfl, List.replicate_succ]
    have rest : executeRequests n (nextRecord none).next false (used + 7) s = _ := ih (used + 7)
    rw [rest]
    rfl

/-! ### The rows of the requests (R173) -/

/-- The commands but FORCE_PATH do not read the path argument (R190). -/
theorem circuitCommand_path {c : Fin 64} {command : Byte} (h : command = 1 ∨ command = 2 ∨ command = 3) (path other : Byte) :
    s.circuitCommand c command path = s.circuitCommand c command other := by
  rcases h with e | e | e <;> subst e <;> simp only [State.circuitCommand, BitVec.reduceToNat]

theorem command_path {command : Byte} (h : command = 1 ∨ command = 2 ∨ command = 3) (index path other : Byte) :
    s.command 4 index command path = s.command 4 index command other := by
  simp only [State.command, circuitCommand_path h path other]

theorem toNat_ne {k : Byte} {n : Nat} (h : k ≠ BitVec.ofNat 8 n) : k.toNat ≠ n := fun e => h (byte_eq_of_toNat e)

theorem command_badObject {kind : Byte} (h : kind ≠ 4) (index command path : Byte) :
    s.command kind index command path = (s, resultOf 3 kind index .badObject) := by
  have other := toNat_ne h
  unfold State.command
  generalize kind.toNat = n at other
  split
  · exact absurd rfl other
  · rfl

theorem circuitCommand_unknown {c : Fin 64} {command : Byte} (h : command = 0 ∨ 4 < command.toNat) (path : Byte) :
    s.circuitCommand c command path = (s, .badValue) := by
  have other : command.toNat = 0 ∨ 4 < command.toNat := h.imp (fun e => by rw [e]; rfl) id
  unfold State.circuitCommand
  generalize command.toNat = n at other
  match n, other with
  | 0, _ => rfl
  | _ + 5, _ => rfl

theorem restartRequest_badObject {kind : Byte} (h : kind ≠ 7) (index : Byte) :
    s.restartRequest kind index = (s, resultOf 8 kind index .badObject) := by
  have other := toNat_ne h
  unfold State.restartRequest
  generalize kind.toNat = n at other
  split
  · exact absurd rfl other
  · rfl

theorem eventsTake_badObject {kind : Byte} (h : kind ≠ 7) (index n : Byte) :
    s.eventsTake kind index n = (s, resultOf 7 kind index .badObject) := by
  have other := toNat_ne h
  unfold State.eventsTake
  generalize kind.toNat = n at other
  split
  · exact absurd rfl other
  · rfl

theorem restartRequest_badIndex {index : Byte} (h : index ≠ 0) :
    s.restartRequest 7 index = (s, resultOf 8 7 index .badIndex) := by
  simp only [State.restartRequest, BitVec.reduceToNat, if_pos h]

theorem eventsTake_badIndex {index : Byte} (h : index ≠ 0) (n : Byte) :
    s.eventsTake 7 index n = (s, resultOf 7 7 index .badIndex) := by
  simp only [State.eventsTake, BitVec.reduceToNat, if_pos h]

/-! ### A record read (R190, R191) -/

theorem getD_eq (o : List Byte) (i : Nat) : o.getD i 0 = o[i]?.getD 0 := List.getD_eq_getElem?_getD

theorem readRecord_head (o : List Byte) : (readRecord o).verb = o[0]?.getD 0 ∧ (readRecord o).kind = o[1]?.getD 0
    ∧ (readRecord o).index = o[2]?.getD 0 := by
  simp only [← getD_eq, readRecord]
  split_ifs <;> exact ⟨rfl, rfl, rfl⟩

theorem readRecord_cut {o : List Byte} (h : o.length < 5 ∨ o.length < numberAt o 3 2) :
    (readRecord o).request = none ∧ (readRecord o).next = none := by
  have e : readRecord o = ⟨o.getD 0 0, o.getD 1 0, o.getD 2 0, none, none⟩ := if_pos h
  rw [e]
  exact ⟨rfl, rfl⟩

theorem readRecord_tooShort {o : List Byte} (long : 5 ≤ o.length) (h : numberAt o 3 2 < 5) :
    (readRecord o).request = none ∧ (readRecord o).next = some (o.drop 5) := by
  have whole : ¬(o.length < 5 ∨ o.length < numberAt o 3 2) := by omega
  have e : readRecord o = ⟨o.getD 0 0, o.getD 1 0, o.getD 2 0, none, some (o.drop 5)⟩ := (if_neg whole).trans (if_pos h)
  rw [e]
  exact ⟨rfl, rfl⟩

theorem readRecord_whole {o : List Byte} (low : 5 ≤ numberAt o 3 2) (high : numberAt o 3 2 ≤ o.length) :
    readRecord o = ⟨o[0]?.getD 0, o[1]?.getD 0, o[2]?.getD 0, readRequest (o[0]?.getD 0) (o[1]?.getD 0) (o[2]?.getD 0)
      ((o.drop 5).take (numberAt o 3 2 - 5)), some (o.drop (numberAt o 3 2))⟩ := by
  have whole : ¬(o.length < 5 ∨ o.length < numberAt o 3 2) := by omega
  simp only [readRecord, if_neg whole, if_neg (show ¬numberAt o 3 2 < 5 by omega), getD_eq]

/-- The octets of a request record (R190). -/
def recordOctets (verb kind index : Byte) (args : List Byte) : List Byte :=
  [verb, kind, index] ++ octets 2 (5 + args.length) ++ args

theorem readRecord_recordOctets (verb kind index : Byte) (args rest : List Byte) (small : args.length < 65531) :
    readRecord (recordOctets verb kind index args ++ rest)
      = ⟨verb, kind, index, readRequest verb kind index args, some rest⟩ := by
  have declared : numberAt (recordOctets verb kind index args ++ rest) 3 2 = 5 + args.length := by
    have := numberAt_append (front := [verb, kind, index]) (back := args ++ rest) (n := 2) (v := 5 + args.length) (offset := 3) rfl
    rw [Nat.mod_eq_of_lt (by omega)] at this
    simpa [recordOctets] using this
  have len : (recordOctets verb kind index args).length = 5 + args.length := by
    simp [recordOctets]
    omega
  rw [readRecord_whole (by omega) (by rw [declared, List.length_append, len]; omega), declared, ← len, List.drop_left]
  have five : (recordOctets verb kind index args ++ rest).drop 5 = args ++ rest := rfl
  have size : (recordOctets verb kind index args).length - 5 = args.length := by omega
  rw [five, size, List.take_left]
  rfl

/-! ### The arguments of a request (R190, R191) -/

/-- The four octets of a mask are the mask, most significant first. -/
theorem mask_octets (a b c d : Byte) : BitVec.ofNat 32 (number [a, b, c, d]) = a ++ b ++ c ++ d := by
  have := a.isLt
  have := b.isLt
  have := c.isLt
  have := d.isLt
  apply BitVec.eq_of_toNat_eq
  simp only [number, List.foldl_cons, List.foldl_nil, BitVec.toNat_ofNat, BitVec.toNat_append]
  rw [← Nat.shiftLeft_add_eq_or_of_lt (by omega), ← Nat.shiftLeft_add_eq_or_of_lt (by omega),
    ← Nat.shiftLeft_add_eq_or_of_lt (by omega)]
  simp only [Nat.shiftLeft_eq]
  omega

/-- What a record's verb and arguments are read as. -/
theorem readRequest_eq (verb kind index : Byte) (args : List Byte) : readRequest verb kind index args
    = (match verb.toNat, args with
      | 1, n :: _ => some (.tableRead kind index n)
      | 2, _ => (readItems args.length args).map (fun items => .tableWrite kind index items)
      | 3, command :: path :: _ => some (.circuitCommand kind index command path)
      | 4, _ => some (.statusRead kind index)
      | 5, clear :: _ => some (.countersRead kind index clear)
      | 6, a :: b :: c :: d :: _ => some (.flagsClear kind index (a ++ b ++ c ++ d))
      | 7, n :: _ => some (.eventsTake kind index n)
      | 8, _ => some (.restart kind index)
      | n, _ => if n ∈ [1, 3, 5, 6, 7] then none else some (.unknown verb kind index)) := by
  unfold readRequest argumentsOf
  generalize e : verb.toNat = v
  match v with
  | 0 => rfl
  | 1 => cases args <;> rfl
  | 2 => rfl
  | 3 =>
    match args with
    | [] => rfl
    | [_] => rfl
    | _ :: _ :: _ => rfl
  | 4 => rfl
  | 5 => cases args <;> rfl
  | 6 =>
    match args with
    | [] => rfl
    | [_] => rfl
    | [_, _] => rfl
    | [_, _, _] => rfl
    | a :: b :: c :: d :: l =>
      have whole : ¬(a :: b :: c :: d :: l).length < 4 := by simp
      have mask : BitVec.ofNat 32 (numberAt (a :: b :: c :: d :: l) 0 4) = a ++ b ++ c ++ d := mask_octets a b c d
      show (if (a :: b :: c :: d :: l).length < 4 then none
        else some (Request.flagsClear kind index (BitVec.ofNat 32 (numberAt (a :: b :: c :: d :: l) 0 4)))) = _
      refine (if_neg whole).trans ?_
      rw [mask]
      rfl
  | 7 => cases args <;> rfl
  | 8 => rfl
  | n + 9 =>
    have other : n + 9 ∉ [1, 3, 5, 6, 7] := by simp
    show (if args.length < 0 then none else some (Request.unknown verb kind index))
      = if n + 9 ∈ [1, 3, 5, 6, 7] then none else some (Request.unknown verb kind index)
    rw [if_neg other, if_neg (Nat.not_lt_zero _)]

/-- A field item's octets: its code, its length and its value (R190). -/
def FieldItem.octets (i : FieldItem) : List Byte := i.code :: Sys2Proof.Machine.octets 1 i.value.length ++ i.value

/-- The field items that fill the arguments of a write are read as they stand (R190, R191). -/
theorem readItems_octets {items : List FieldItem} (small : ∀ i ∈ items, i.value.length < 256) {fuel : Nat}
    (room : (items.flatMap FieldItem.octets).length ≤ fuel) : readItems fuel (items.flatMap FieldItem.octets) = some items := by
  induction items generalizing fuel with
  | nil => cases fuel <;> rfl
  | cons i items ih =>
    obtain ⟨code, value⟩ := i
    have len : (BitVec.ofNat 8 value.length).toNat = value.length :=
      (BitVec.toNat_ofNat _ _).trans (Nat.mod_eq_of_lt (small _ List.mem_cons_self))
    have form : ((⟨code, value⟩ : FieldItem) :: items).flatMap FieldItem.octets
        = code :: BitVec.ofNat 8 value.length :: (value ++ items.flatMap FieldItem.octets) := rfl
    rw [form] at room ⊢
    rw [List.length_cons, List.length_cons, List.length_append] at room
    obtain ⟨fuel, rfl⟩ := Nat.exists_eq_add_of_lt (show 0 < fuel by omega)
    rw [Nat.zero_add, readItems, len, if_neg (by rw [List.length_append]; omega), List.drop_left, List.take_left,
      ih (fun j m => small j (.tail _ m)) (by omega)]
    rfl

/-- A command taken alone answers what the request of its name answers (R173). -/
theorem commandRow_of_request {command : Byte} (h : command = 1 ∨ command = 2 ∨ command = 3) (index path : Byte) :
    s.commandRow index command 0 = { (s.command 4 index command path).1 with answer := some (s.command 4 index command path).2 } := by
  rw [State.commandRow, command_path h index 0 path]
  rfl

/-- The requests that are not whole rows' own are refused by object kind, index and value (R53, R173). -/
theorem requests_refused (s : State) (kind index x path : Byte) :
    let refused (r : Request) (verb : Byte) (code : Code) (data : List Byte) : Prop :=
      s.execute r = (s, ⟨verb, kind, index, code, false, data⟩)
    (kind ≠ 4 → refused (.circuitCommand kind index x path) 3 .badObject [])
    ∧ (kind = 4 → 64 ≤ index.toNat → refused (.circuitCommand kind index x path) 3 .badIndex [])
    ∧ (∀ c, kind = 4 → readCircuit index = some c → (x = 0 ∨ 4 < x.toNat) →
        refused (.circuitCommand kind index x path) 3 .badValue [BitVec.ofNat 8 (s.circuit c).control.state.code,
          BitVec.ofNat 8 (pathCode (s.circuit c).merge.forced)])
    ∧ (kind ≠ 7 → refused (.eventsTake kind index x) 7 .badObject [] ∧ refused (.restart kind index) 8 .badObject [])
    ∧ (kind = 7 → index ≠ 0 → refused (.eventsTake kind index x) 7 .badIndex [] ∧ refused (.restart kind index) 8 .badIndex [])
    ∧ ∀ verb, refused (.unknown verb kind index) verb .badValue [] := by
  refine ⟨fun h => command_badObject h index x path, ?_, ?_, fun h => ⟨eventsTake_badObject h index x, restartRequest_badObject h index⟩,
    ?_, fun verb => rfl⟩
  · rintro rfl far
    show s.command 4 index x path = _
    simp only [State.command, BitVec.reduceToNat, (readCircuit_eq_none index).mpr far]
    rfl
  · rintro c rfl read wrong
    show s.command 4 index x path = _
    simp only [State.command, BitVec.reduceToNat, read, circuitCommand_unknown wrong path]
    rfl
  · rintro rfl h
    exact ⟨eventsTake_badIndex h x, restartRequest_badIndex h⟩

/-- Settles O37, request by request. -/
theorem requestsAreExecutedInOrderWhileTheyFit : Obligations.RequestsAreExecutedInOrderWhileTheyFit := by
  unfold Obligations.RequestsAreExecutedInOrderWhileTheyFit
  intro short
  refine ⟨fun n o request used s whole => ?_, fun n o used s cut => ?_, executeRequests_cut, fun n o used s => ?_,
    fun s kind index x path mask items => ?_, fun o => ?_, fun verb kind index args rest small => ?_⟩
  · have step := executeRequests_request (o := some o) whole n used s
    refine ⟨fun fits => ?_, fun tooMuch => ?_⟩
    · rw [step, if_neg (not_lt.mpr fits)]
      rfl
    · rw [step, if_pos tooMuch, executeRequests_full_state]
      rfl
  · exact executeRequests_malformed (o := some o) cut n used s
  · refine ⟨executeRequests_full_state n o used s, length_results n o true used s, executeRequests_full_results n o used s, ?_, ?_⟩
    · rintro rfl
      exact executeRequests_full_none n used s
    · rintro m b rfl rfl
      rw [executeRequests_full]
      rfl
  · intro means refused
    refine ⟨rfl, rfl, rfl, rfl, rfl, ?_, ?_, ?_, rfl, rfl, rfl, requests_refused s kind index x path⟩
    · exact congrArg Host.Outcome.next (commandRow_of_request (.inl rfl) index path)
    · exact congrArg Host.Outcome.next (commandRow_of_request (.inr (.inl rfl)) index path)
    · exact congrArg Host.Outcome.next (commandRow_of_request (.inr (.inr rfl)) index path)
  · intro r
    obtain ⟨verb, kind, index⟩ := readRecord_head o
    exact ⟨verb, kind, index, readRecord_cut, readRecord_tooShort⟩
  · intro r
    have read : r = ⟨verb, kind, index, readRequest verb kind index args, some rest⟩ :=
      readRecord_recordOctets verb kind index args rest small
    refine ⟨congrArg RecordRead.verb read, congrArg RecordRead.kind read, congrArg RecordRead.index read,
      congrArg RecordRead.next read, ?_, fun items lengths spelled => ?_⟩
    · exact (congrArg RecordRead.request read).trans (readRequest_eq verb kind index args)
    · have form : args = items.flatMap FieldItem.octets := spelled
      rw [form]
      exact readItems_octets lengths le_rfl

end Sys2Proof.Machine

/-! PROOFS. TABLE_READ and STATUS_READ give what is held (R51, R175, R176, R193). -/

namespace Sys2Proof.Machine

variable {s : State}

/-! ### TABLE_READ (R51, R175) -/

theorem zipIdx_map_finRange {α : Type} {n : Nat} (f : Fin n → α) :
    ((List.finRange n).map f).zipIdx = (List.finRange n).map (fun c => (f c, c.val)) := by
  apply List.ext_getElem
  · simp
  · intro i h₁ h₂
    simp

/-- The entries of a table that stands as a list of `size` objects, read from an index on. -/
def entriesOf {α : Type} (l : List α) (values : α → List (List Byte)) (place : α → Nat) (first n : Nat) : List (List Byte) :=
  ((l.drop first).take n).map (fun x => entryOctets (place x) (values x) [])

theorem entriesFrom_circuits (first n : Nat) : s.entriesFrom 1 first n
    = entriesOf (List.finRange 64) (fun c => (s.circuit c).entry.values) Fin.val first n := by
  have all : allCircuits = List.finRange 64 := rfl
  simp only [State.entriesFrom, BitVec.reduceToNat, all, zipIdx_map_finRange, ← List.map_drop, ← List.map_take, List.map_map,
    entriesOf]
  rfl

theorem entriesFrom_tributaries (first n : Nat) : s.entriesFrom 2 first n
    = entriesOf (List.finRange 16) (fun t => (s.tributary t).entry.values) Fin.val first n := by
  have all : allTributaries = List.finRange 16 := rfl
  simp only [State.entriesFrom, BitVec.reduceToNat, all, zipIdx_map_finRange, ← List.map_drop, ← List.map_take, List.map_map,
    entriesOf]
  rfl

theorem entriesFrom_ports (first n : Nat) : s.entriesFrom 3 first n
    = entriesOf [Port.A, Port.B] (fun p => (s.port p).entry.values) portIndex first n := by
  have pairs : [(s.port .A).entry.values, (s.port .B).entry.values].zipIdx
      = [Port.A, Port.B].map (fun p => ((s.port p).entry.values, portIndex p)) := rfl
  simp only [State.entriesFrom, BitVec.reduceToNat, pairs, ← List.map_drop, ← List.map_take, List.map_map, entriesOf]
  rfl

theorem length_entriesOf {α : Type} (l : List α) (values : α → List (List Byte)) (place : α → Nat) (first n : Nat) :
    (entriesOf l values place first n).length = min n (l.length - first) := by
  simp [entriesOf]

/-- The data of a table read that gives the entries of a table of `size` (R175). -/
theorem tableRead_data {kind index count : Byte} {size : Nat} (table : tableSize kind = some size) (inside : index.toNat < size)
    {entries : List (List Byte)} (given : s.entriesFrom kind index.toNat (clampCount count) = entries)
    (length : entries.length = min (clampCount count) (size - index.toNat)) :
    let r := s.tableRead kind index count
    r.verb = 1 ∧ r.kind = kind ∧ r.index = index ∧ r.code = .ok ∧ (r.clamped = true ↔ count.toNat ≠ clampCount count)
    ∧ numberAt r.data 0 1 = (if size < index.toNat + clampCount count then 1 else 0)
    ∧ numberAt r.data 1 1 = min (clampCount count) (size - index.toNat) ∧ r.data.drop 2 = entries.flatten := by
  have e : s.tableRead kind index count = resultOf 1 kind index .ok (count.toNat != clampCount count)
      (octets 1 (if size < index.toNat + clampCount count then 1 else 0) ++ octets 1 entries.length ++ entries.flatten) := by
    simp only [State.tableRead, table, if_neg (not_le.mpr inside), given]
  have few : entries.length < 256 ^ 1 := by
    have : clampCount count ≤ 16 := by rw [clampCount_eq]; omega
    omega
  intro r
  have form : r = _ := e
  rw [form]
  refine ⟨rfl, rfl, rfl, rfl, by simp [resultOf], ?_, ?_, ?_⟩
  · have first : numberAt (octets 1 (if size < index.toNat + clampCount count then 1 else 0) ++ octets 1 entries.length
        ++ entries.flatten) 0 1 = (if size < index.toNat + clampCount count then 1 else 0) % 256 ^ 1 := by
      rw [List.append_assoc]
      exact numberAt_append (front := []) rfl
    refine first.trans (Nat.mod_eq_of_lt ?_)
    split <;> decide
  · refine (numberAt_append (length_octets 1 _)).trans ?_
    rw [Nat.mod_eq_of_lt few, length]
  · rfl

/-! ### STATUS_READ (R176, R193) -/

theorem optionItem_eq {α : Type} (f : α → List Byte) (v : Option α) : optionItem f v = (v.map f).getD [] := by cases v <;> rfl

theorem boolItem_eq (b : Bool) : boolItem b = [if b then 1 else 0] := by cases b <;> rfl

theorem heldAtPointer_eq (k : Circuit) :
    k.heldAtPointer = k.buffer.pointer.bind (fun x => k.buffer.slot k.entry.depth x.seq) := by
  unfold Circuit.heldAtPointer
  cases k.buffer.pointer <;> rfl

theorem heldCount_eq (b : Buffer) : b.heldCount = b.slots.toList.countP Option.isSome := by
  rw [Buffer.heldCount, List.countP_eq_length_filter]

theorem statusRead_ok {kind index : Byte} {x : ObjectRef} (read : readObject kind index = .ok x) :
    s.statusRead kind index = resultOf 4 kind index .ok false (statusItems (s.statusValues x) ++ s.flagData x) := by
  simp only [State.statusRead, read]

theorem statusRead_refused {kind index : Byte} {code : Code} (read : readObject kind index = .error code) :
    s.statusRead kind index = resultOf 4 kind index code := by
  simp only [State.statusRead, read]

theorem readObject_badObject {kind : Byte} (h₄ : kind ≠ 4) (h₅ : kind ≠ 5) (h₆ : kind ≠ 6) (h₇ : kind ≠ 7) (index : Byte) :
    readObject kind index = .error .badObject := by
  have n₄ := toNat_ne h₄
  have n₅ := toNat_ne h₅
  have n₆ := toNat_ne h₆
  have n₇ := toNat_ne h₇
  unfold readObject
  generalize kind.toNat = n at n₄ n₅ n₆ n₇
  split
  · exact absurd rfl n₄
  · exact absurd rfl n₅
  · exact absurd rfl n₆
  · exact absurd rfl n₇
  · rfl

theorem tableSize_eq_none {kind : Byte} (h₁ : kind ≠ 1) (h₂ : kind ≠ 2) (h₃ : kind ≠ 3) : tableSize kind = none := by
  have n₁ := toNat_ne h₁
  have n₂ := toNat_ne h₂
  have n₃ := toNat_ne h₃
  unfold tableSize
  generalize kind.toNat = n at n₁ n₂ n₃
  split
  · exact absurd rfl n₁
  · exact absurd rfl n₂
  · exact absurd rfl n₃
  · rfl

theorem tableRead_badObject {kind : Byte} (table : tableSize kind = none) (index count : Byte) :
    s.tableRead kind index count = resultOf 1 kind index .badObject := by simp only [State.tableRead, table]

theorem tableRead_badIndex {kind index : Byte} {size : Nat} (table : tableSize kind = some size) (h : size ≤ index.toNat)
    (count : Byte) : s.tableRead kind index count = resultOf 1 kind index .badIndex := by
  simp only [State.tableRead, table, if_pos h]

/-- A read of a table of `size` entries (R175). -/
theorem tableRead_table {kind : Byte} {size : Nat} (table : tableSize kind = some size) (index count : Byte)
    {entries : List (List Byte)} (given : s.entriesFrom kind index.toNat (clampCount count) = entries)
    (length : entries.length = min (clampCount count) (size - index.toNat)) :
    let r := s.tableRead kind index count
    r.verb = 1 ∧ r.kind = kind ∧ r.index = index
    ∧ if size ≤ index.toNat then r.code = .badIndex ∧ r.data = []
      else r.code = .ok ∧ (r.clamped = true ↔ count.toNat ≠ clampCount count)
        ∧ numberAt r.data 0 1 = (if size < index.toNat + clampCount count then 1 else 0)
        ∧ numberAt r.data 1 1 = min (clampCount count) (size - index.toNat) ∧ r.data.drop 2 = entries.flatten := by
  dsimp only
  split
  · next beyond =>
    rw [tableRead_badIndex table beyond]
    exact ⟨rfl, rfl, rfl, rfl, rfl⟩
  · next inside => exact tableRead_data table (not_le.mp inside) given length

theorem ite_mono {p a b c : Prop} [Decidable p] (h : if p then a else b) (f : b → c) : if p then a else c := by
  by_cases q : p
  · rw [if_pos q] at h ⊢
    exact h
  · rw [if_neg q] at h ⊢
    exact f h

/-- The table part of O38. -/
theorem tableRead_held (kind index count : Byte) (s : State) :
    ∃ r, exec (.tableRead kind index count) s = .next { s with answer := some r }
      ∧ r.verb = 1 ∧ r.kind = kind ∧ r.index = index
      ∧ (let n := max 1 (min 16 count.toNat)
         let size := if kind = 1 then 64 else if kind = 2 then 16 else if kind = 3 then 2 else 0
         if size = 0 then r.code = .badObject ∧ r.data = []
         else if size ≤ index.toNat then r.code = .badIndex ∧ r.data = []
         else r.code = .ok ∧ (r.clamped = true ↔ count.toNat ≠ n)
          ∧ numberAt r.data 0 1 = (if size < index.toNat + n then 1 else 0)
          ∧ numberAt r.data 1 1 = min n (size - index.toNat)
          ∧ (kind = 1 → r.data.drop 2 = (((List.finRange 64).drop index.toNat).take n).flatMap (fun c =>
              entryOctets c.val (s.circuit c).entry.values []))
          ∧ (kind = 2 → r.data.drop 2 = (((List.finRange 16).drop index.toNat).take n).flatMap (fun t =>
              entryOctets t.val (s.tributary t).entry.values []))
          ∧ (kind = 3 → r.data.drop 2 = (([Port.A, Port.B].drop index.toNat).take n).flatMap (fun p =>
              entryOctets (portIndex p) (s.port p).entry.values []))) := by
  refine ⟨s.tableRead kind index count, rfl, ?_⟩
  rw [← clampCount_eq]
  by_cases one : kind = 1
  · subst one
    obtain ⟨verb, kind, place, read⟩ := tableRead_table (s := s) (kind := 1) rfl index count (entriesFrom_circuits _ _)
      (by rw [length_entriesOf, List.length_finRange])
    refine ⟨verb, kind, place, ?_⟩
    simp only [if_true, if_neg (show (64 : Nat) ≠ 0 by decide)]
    refine ite_mono read ?_
    rintro ⟨code, clamped, more, count, data⟩
    exact ⟨code, clamped, more, count, fun _ => data, fun h => absurd h (by decide), fun h => absurd h (by decide)⟩
  by_cases two : kind = 2
  · subst two
    obtain ⟨verb, kind, place, read⟩ := tableRead_table (s := s) (kind := 2) rfl index count (entriesFrom_tributaries _ _)
      (by rw [length_entriesOf, List.length_finRange])
    refine ⟨verb, kind, place, ?_⟩
    simp only [if_neg one, if_true, if_neg (show (16 : Nat) ≠ 0 by decide)]
    refine ite_mono read ?_
    rintro ⟨code, clamped, more, count, data⟩
    exact ⟨code, clamped, more, count, fun h => absurd h (by decide), fun _ => data, fun h => absurd h (by decide)⟩
  by_cases three : kind = 3
  · subst three
    obtain ⟨verb, kind, place, read⟩ := tableRead_table (s := s) (kind := 3) rfl index count (entriesFrom_ports _ _)
      (by rw [length_entriesOf]; rfl)
    refine ⟨verb, kind, place, ?_⟩
    simp only [if_neg one, if_neg two, if_true, if_neg (show (2 : Nat) ≠ 0 by decide)]
    refine ite_mono read ?_
    rintro ⟨code, clamped, more, count, data⟩
    exact ⟨code, clamped, more, count, fun h => absurd h (by decide), fun h => absurd h (by decide), fun _ => data⟩
  rw [tableRead_badObject (tableSize_eq_none one two three)]
  refine ⟨rfl, rfl, rfl, ?_⟩
  simp only [if_neg one, if_neg two, if_neg three, if_true]
  exact ⟨rfl, rfl⟩

theorem statusItems_port (link : UpDown) (m n : Nat) : statusItems [octets 1 link.code, octets 1 m, octets 1 n]
    = [1, 1, if link = .up then 1 else 0] ++ [2, 1] ++ octets 1 m ++ [3, 1] ++ octets 1 n := by
  cases link <;> rfl

theorem statusItems_device (lt reserved events : Nat) (overflow : Bool) :
    statusItems [octets 4 lt, octets 4 reserved, octets 1 events, boolItem overflow]
      = [1, 4] ++ octets 4 lt ++ [2, 4] ++ octets 4 reserved ++ [3, 1] ++ octets 1 events
        ++ [4, 1, if overflow then 1 else 0] := by
  cases overflow <;> rfl

/-- Settles O38, from the tables' entries and the objects' values in their positions. -/
theorem readsAnswerWithWhatIsHeld : Obligations.ReadsAnswerWithWhatIsHeld := by
  intro kind index count s
  refine ⟨tableRead_held kind index count s, s.statusRead kind index, rfl, ?_⟩
  by_cases four : kind = 4
  · subst four
    cases read : readCircuit index with
    | none =>
      have beyond := (readCircuit_eq_none index).mp read
      rw [statusRead_refused (code := .badIndex) (by simp only [readObject, BitVec.reduceToNat, read])]
      refine ⟨rfl, rfl, rfl, rfl, ?_⟩
      simp only [if_true, if_neg (show (64 : Nat) ≠ 0 by decide), if_pos beyond]
      exact ⟨rfl, rfl⟩
    | some c =>
      have inside : ¬64 ≤ index.toNat := fun h => by rw [(readCircuit_eq_none index).mpr h] at read; cases read
      rw [statusRead_ok (x := .circuit c) (by simp only [readObject, BitVec.reduceToNat, read])]
      refine ⟨rfl, rfl, rfl, rfl, ?_⟩
      intro size code mark sequence ticks small long signed
      simp only [size, if_true, if_neg (show (64 : Nat) ≠ 0 by decide), if_neg inside]
      refine ⟨rfl, fun h => absurd h (by decide), fun p h => absurd h (by decide), fun c' _ same => ?_, fun t h => absurd h (by decide)⟩
      cases same
      show statusItems (controlValues (s.circuit c) ++ sendValues (s.circuit c) ++ mergeValues (s.circuit c)
        ++ bufferValues (s.circuit c) ++ recoveryValues (s.circuit c) ++ delayValues (s.circuit c))
        ++ flagOctets (s.circuit c).flags = _
      cases window : (s.circuit c).recovery.window <;>
        simp only [controlValues, sendValues, mergeValues, bufferValues, recoveryValues, delayValues, optionItem_eq, boolItem_eq,
          heldAtPointer_eq, heldCount_eq, window, code, mark, sequence, ticks, small, long, signed, Option.map_map]
      · rfl
      · rfl
  by_cases five : kind = 5
  · subst five
    cases read : readTributary index with
    | none =>
      have beyond := (readTributary_eq_none index).mp read
      rw [statusRead_refused (code := .badIndex) (by simp only [readObject, BitVec.reduceToNat, read])]
      refine ⟨rfl, rfl, rfl, rfl, ?_⟩
      simp only [if_neg four, if_true, if_neg (show (16 : Nat) ≠ 0 by decide), if_pos beyond]
      exact ⟨rfl, rfl⟩
    | some t =>
      have inside : ¬16 ≤ index.toNat := fun h => by rw [(readTributary_eq_none index).mpr h] at read; cases read
      rw [statusRead_ok (x := .tributary t) (by simp only [readObject, BitVec.reduceToNat, read])]
      refine ⟨rfl, rfl, rfl, rfl, ?_⟩
      intro size code mark sequence ticks small long signed
      simp only [size, if_neg four, if_true, if_neg (show (16 : Nat) ≠ 0 by decide), if_neg inside]
      refine ⟨rfl, fun h => absurd h (by decide), fun p h => absurd h (by decide), fun c h => absurd h (by decide),
        fun t' _ same => ?_⟩
      cases same
      show statusItems (lineValues (s.tributary t) ++ clockingValues (s.tributary t) (s.rateOffset t))
        ++ flagOctets (s.tributary t).flags = _
      have offset := rateOffset_eq s t
      cases mode : (s.tributary t).clocking.actual with
      | free =>
        rw [offset.1 mode]
        simp only [lineValues, clockingValues, optionItem_eq, boolItem_eq, mode, code, mark, signed]
        rfl
      | loop =>
        rw [offset.2.1 mode]
        simp only [lineValues, clockingValues, optionItem_eq, boolItem_eq, mode, code, mark, signed]
        rfl
      | adaptive =>
        rw [offset.2.2.1 mode]
        simp only [lineValues, clockingValues, optionItem_eq, boolItem_eq, mode, code, mark, signed]
        rfl
      | holdover =>
        rw [offset.2.2.2 mode]
        simp only [lineValues, clockingValues, optionItem_eq, boolItem_eq, mode, code, mark, signed]
        rfl
  by_cases six : kind = 6
  · subst six
    cases read : readPort index with
    | none =>
      have beyond := (readPort_eq_none index).mp read
      rw [statusRead_refused (code := .badIndex) (by simp only [readObject, BitVec.reduceToNat, read])]
      refine ⟨rfl, rfl, rfl, rfl, ?_⟩
      simp only [if_neg four, if_neg five, if_true, if_neg (show (2 : Nat) ≠ 0 by decide), if_pos beyond]
      exact ⟨rfl, rfl⟩
    | some p =>
      have inside : ¬2 ≤ index.toNat := fun h => by rw [(readPort_eq_none index).mpr h] at read; cases read
      rw [statusRead_ok (x := .port p) (by simp only [readObject, BitVec.reduceToNat, read])]
      refine ⟨rfl, rfl, rfl, rfl, ?_⟩
      simp only [if_neg four, if_neg five, if_true, if_neg (show (2 : Nat) ≠ 0 by decide), if_neg inside]
      refine ⟨rfl, fun h => absurd h (by decide), fun p' _ same => ?_, fun c h => absurd h (by decide), fun t h => absurd h (by decide)⟩
      cases same
      show statusItems (portValues (s.port p)) ++ flagOctets (s.port p).flags = _
      rw [portValues, statusItems_port]
  by_cases seven : kind = 7
  · subst seven
    by_cases zero : index = 0
    · subst zero
      rw [statusRead_ok (x := .device) rfl]
      refine ⟨rfl, rfl, rfl, rfl, ?_⟩
      simp only [if_neg four, if_neg five, if_neg six, if_true, if_neg (show (1 : Nat) ≠ 0 by decide),
        if_neg (show ¬1 ≤ (0 : Byte).toNat by decide)]
      refine ⟨rfl, fun _ => ?_, fun p h => absurd h (by decide), fun c h => absurd h (by decide), fun t h => absurd h (by decide)⟩
      show statusItems s.deviceValues ++ [] = _
      rw [State.deviceValues, statusItems_device, List.append_nil]
    · have beyond : 1 ≤ index.toNat := Nat.pos_of_ne_zero (toNat_ne (n := 0) zero)
      rw [statusRead_refused (code := .badIndex) (by simp only [readObject, BitVec.reduceToNat, if_neg zero])]
      refine ⟨rfl, rfl, rfl, rfl, ?_⟩
      simp only [if_neg four, if_neg five, if_neg six, if_true, if_neg (show (1 : Nat) ≠ 0 by decide), if_pos beyond]
      exact ⟨rfl, rfl⟩
  rw [statusRead_refused (readObject_badObject four five six seven index)]
  refine ⟨rfl, rfl, rfl, rfl, ?_⟩
  simp only [if_neg four, if_neg five, if_neg six, if_neg seven, if_true]
  exact ⟨rfl, rfl⟩

end Sys2Proof.Machine

/-! PROOFS. Path supervision, the active path and the restore hold-off, case by case (R92, R95 to R97), and the expiries of a
circuit's timers (R59, R63, R64, R92, R97). -/

namespace Sys2Proof.Machine

variable {s : State} {c : Fin 64} {p q : Port}

/-! ### The active path after a path has come UP (R95, R96) -/

theorem activeAfterUp_merge (free : (s.circuit c).entry.policy.preferred = none) : s.activeAfterUp c p = s := by
  simp only [State.activeAfterUp, free]

theorem activeAfterUp_fresh (prefers : (s.circuit c).entry.policy.preferred = some q)
    (state : (s.circuit c).control.state = .awaiting ∨ (s.circuit c).control.state = .acquiring) :
    s.activeAfterUp c p
      = s.onMerge c (fun m => { m with active := freshActive (s.circuit c).entry.policy m.up }) := by
  rcases state with h | h <;> simp only [State.activeAfterUp, prefers, h]

theorem activeAfterUp_none (prefers : (s.circuit c).entry.policy.preferred = some q)
    (state : (s.circuit c).control.state = .playing ∨ (s.circuit c).control.state = .starved)
    (active : (s.circuit c).merge.active = none) : s.activeAfterUp c p = s.onMerge c (fun m => { m with active := some p }) := by
  rcases state with h | h <;> simp only [State.activeAfterUp, prefers, h, active]

theorem activeAfterUp_some {a : Port} (prefers : (s.circuit c).entry.policy.preferred = some q)
    (state : (s.circuit c).control.state = .playing ∨ (s.circuit c).control.state = .starved)
    (active : (s.circuit c).merge.active = some a) :
    s.activeAfterUp c p = if p = q ∧ a ≠ q then s.startHoldOff c q else s := by
  rcases state with h | h <;> simp only [State.activeAfterUp, prefers, h, active]

/-! ### The active path after a path has gone DOWN (R95 to R97) -/

theorem activeAfterDown_merge (free : (s.circuit c).entry.policy.preferred = none) : s.activeAfterDown c p = s := by
  simp only [State.activeAfterDown, free]

theorem activeAfterDown_disabled (state : (s.circuit c).control.state = .disabled) : s.activeAfterDown c p = s := by
  cases prefers : (s.circuit c).entry.policy.preferred <;> simp only [State.activeAfterDown, prefers, state]

theorem activeAfterDown_fresh (prefers : (s.circuit c).entry.policy.preferred = some q)
    (state : (s.circuit c).control.state = .awaiting ∨ (s.circuit c).control.state = .acquiring) :
    s.activeAfterDown c p
      = s.onMerge c (fun m => { m with active := freshActive (s.circuit c).entry.policy m.up }) := by
  rcases state with h | h <;> simp only [State.activeAfterDown, prefers, h]

theorem activeAfterDown_playing (prefers : (s.circuit c).entry.policy.preferred = some q)
    (state : (s.circuit c).control.state = .playing ∨ (s.circuit c).control.state = .starved) :
    s.activeAfterDown c p = if (s.circuit c).merge.active = some p then
        if (s.circuit c).merge.up.get (otherPort p) = .up then s.switchActive c (otherPort p)
        else s.onMerge c (fun m => { m with active := none })
      else if p = q then s.onMerge c (fun m => { m with holdOff := none })
      else s := by
  rcases state with h | h <;> simp only [State.activeAfterDown, prefers, h]

theorem eq_or_otherPort (p q : Port) : p = q ∨ p = otherPort q := by cases p <;> cases q <;> decide

/-- The active path set afresh while one of the paths is UP (R95). -/
theorem freshActive_of_up {policy : Policy} {up : Pair UpDown} (prefers : policy.preferred = some q) (alive : up.get p = .up) :
    freshActive policy up = if up.get q = .up then some q else some (otherPort q) := by
  simp only [freshActive, prefers]
  by_cases first : up.get q = .up
  · rw [if_pos first, if_pos first]
  · have other : up.get (otherPort q) = .up := by
      rcases eq_or_otherPort p q with e | e
      · exact absurd (e ▸ alive) first
      · exact e ▸ alive
    rw [if_neg first, if_neg first, if_pos other]

/-- The active path set afresh while one of the paths is DOWN (R95). -/
theorem freshActive_of_down {policy : Policy} {up : Pair UpDown} (prefers : policy.preferred = some q) (dead : up.get p = .down) :
    freshActive policy up = if up.get (otherPort p) = .up then some (otherPort p) else none := by
  simp only [freshActive, prefers]
  rcases eq_or_otherPort p q with e | e
  · subst e
    rw [if_neg (by rw [dead]; decide)]
  · subst e
    rw [otherPort_otherPort, dead]
    rfl

theorem circuit_switchActive (s : State) (c : Fin 64) (p : Port) : (s.switchActive c p).circuit c
    = ({ s.circuit c with merge := { (s.circuit c).merge with active := some p, holdOff := none } } : Circuit).raised .pathSwitch
      (.path p) := by
  simp [State.switchActive, circuit_raise_self]

theorem flag_switchActive (s : State) (c : Fin 64) (p : Port) : (s.switchActive c p).flag (.circuit c .pathSwitch)
    = s.flagAfter (.circuit c .pathSwitch) (.path p) := by
  simp [State.switchActive, State.flagAfter]

/-! ### A path comes UP (R92, R95 to R97) -/

/-- Arrival and merge of a circuit once a path is UP with a fresh timer, before the active path (R92). -/
def Circuit.heardMerge (k : Circuit) (p : Port) (lt : Ticks) : Merge :=
  { k.merge with
    up := k.merge.up.set p .up
    timers := k.merge.timers.set p (some (lt + BitVec.ofNat 32 (k.entry.pathTimeout * k.entry.frames * 1024))) }

/-- A path come UP with its flag, before the active path (R92). -/
def State.pathRisen (s : State) (c : Fin 64) (p : Port) : State := (s.pathHeard c p).raiseCircuit c (.pathChange p) (.upDown .up)

theorem circuit_pathHeard (s : State) (c : Fin 64) (p : Port) : (s.pathHeard c p).circuit c
    = { s.circuit c with merge := (s.circuit c).heardMerge p s.lt } := by
  simp [State.pathHeard, Circuit.heardMerge, expiryAfter, periodsToTicks]

theorem circuit_pathRisen (s : State) (c : Fin 64) (p : Port) : (s.pathRisen c p).circuit c
    = ({ s.circuit c with merge := (s.circuit c).heardMerge p s.lt } : Circuit).raised (.pathChange p) (.upDown .up) := by
  rw [State.pathRisen, raiseCircuit_eq, circuit_raise_self, circuit_pathHeard]

theorem flag_pathHeard (s : State) (c : Fin 64) (p : Port) (r : FlagRef) : (s.pathHeard c p).flag r = s.flag r :=
  flag_onCircuit _ _ _ _ rfl

theorem flag_pathRisen (s : State) (c : Fin 64) (p : Port) (r : FlagRef) : (s.pathRisen c p).flag r
    = if r = .circuit c (.pathChange p) then s.flagAfter r (.upDown .up) else s.flag r := by
  rw [State.pathRisen, raiseCircuit_eq, flag_raise, flag_pathHeard]
  rfl

theorem lt_pathRisen (s : State) (c : Fin 64) (p : Port) : (s.pathRisen c p).lt = s.lt := by
  simp [State.pathRisen, State.pathHeard]

/-- The choice of the active path changes arrival and merge and PATH_SWITCH alone. -/
structure ActiveChosen (s u : State) (c : Fin 64) : Prop where
  blocks  : u.circuit c = { s.circuit c with merge := (u.circuit c).merge, flags := (u.circuit c).flags }
  flags   : ∀ f, f ≠ .pathSwitch → u.flag (.circuit c f) = s.flag (.circuit c f)

theorem ActiveChosen.control {u : State} (h : ActiveChosen s u c) : (u.circuit c).control = (s.circuit c).control := by rw [h.blocks]

theorem ActiveChosen.buffer {u : State} (h : ActiveChosen s u c) : (u.circuit c).buffer = (s.circuit c).buffer := by rw [h.blocks]

theorem ActiveChosen.refl (s : State) (c : Fin 64) : ActiveChosen s s c := ⟨rfl, fun _ _ => rfl⟩

theorem ActiveChosen.onMerge (s : State) (c : Fin 64) (f : Merge → Merge) : ActiveChosen s (s.onMerge c f) c :=
  ⟨by simp, fun _ _ => flag_onCircuit _ _ _ _ rfl⟩

theorem ActiveChosen.switchActive (s : State) (c : Fin 64) (p : Port) : ActiveChosen s (s.switchActive c p) c :=
  ⟨by rw [circuit_switchActive]; rfl, fun f other => by
    rw [State.switchActive, raiseCircuit_eq, flag_raise_of_ne _ _ (by simpa using other)]
    exact flag_onCircuit _ _ _ _ rfl⟩

theorem activeAfterUp_chosen (s : State) (c : Fin 64) (p : Port) : ActiveChosen s (s.activeAfterUp c p) c := by
  unfold State.activeAfterUp State.startHoldOff
  dsimp only
  repeat' split
  all_goals first
    | exact .refl s c
    | exact .onMerge s c _
    | exact .switchActive s c _

theorem activeAfterDown_chosen (s : State) (c : Fin 64) (p : Port) : ActiveChosen s (s.activeAfterDown c p) c := by
  unfold State.activeAfterDown
  dsimp only
  repeat' split
  all_goals first
    | exact .refl s c
    | exact .onMerge s c _
    | exact .switchActive s c _

theorem startHoldOff_eq (s : State) (c : Fin 64) (q : Port) : s.startHoldOff c q =
    if (s.circuit c).entry.restoreHoldOff = 0 then s.switchActive c q
    else s.onMerge c (fun m => { m with
      holdOff := some (s.lt + BitVec.ofNat 32 ((s.circuit c).entry.restoreHoldOff * 8192000)) }) := rfl

/-- Settles O32, from the state in which the path has come UP and the choice of the active path. -/
theorem arrivalBringsItsPathUp : Obligations.ArrivalBringsItsPathUp := by
  intro s c p k u v timed
  have only : OnlyCircuit s u c := pathAlive_only s c p
  have risen := circuit_pathRisen s c p
  have chosen := activeAfterUp_chosen (s.pathRisen c p) c p
  rcases pathAlive_cases s c p with ⟨was, form⟩ | ⟨was, form⟩
  · have heard : u.circuit c = { k with merge := timed } := (congrArg (State.circuit · c) form).trans (circuit_pathHeard s c p)
    refine ⟨only, by rw [heard], by rw [heard], fun _ => ⟨congrArg Circuit.merge heard, ?_⟩, fun down => ?_⟩
    · exact (congrArg (State.flag · _) form).trans (flag_pathHeard s c p _)
    · exact absurd (was.symm.trans down) (by decide)
  · have form' : u = (s.pathRisen c p).activeAfterUp c p := form
    have flagged : u.flag (.circuit c (.pathChange p)) = s.flagAfter (.circuit c (.pathChange p)) (.upDown .up) := by
      rw [form', chosen.flags _ (by simp), flag_pathRisen, if_pos rfl]
    have entry : ((s.pathRisen c p).circuit c).entry = k.entry := by rw [risen]; rfl
    have control : ((s.pathRisen c p).circuit c).control = k.control := by rw [risen]; rfl
    have merge : ((s.pathRisen c p).circuit c).merge = timed := by rw [risen]; rfl
    have lt := lt_pathRisen s c p
    refine ⟨only, ?_, ?_, fun up => absurd (was.symm.trans up) (by decide), fun _ => ⟨flagged, fun free => ?_, fun q prefers states => ?_,
      fun q prefers states => ⟨fun none => ?_, fun same => ?_, fun other self => ?_⟩⟩⟩
    · rw [form', chosen.control, control]
    · rw [form', chosen.buffer, risen]
      rfl
    · have still : u = s.pathRisen c p := form'.trans (activeAfterUp_merge (by rw [entry, free]; rfl))
      show (u.circuit c).merge = timed
      rw [still, merge]
    · have alive : timed.up.get p = .up := Pair.get_set_self _ _ _
      show (u.circuit c).merge = _
      rw [form', activeAfterUp_fresh (by rw [entry]; exact prefers) (by rw [control]; exact states), onMerge_eq, circuit_onCircuit_self,
        merge, entry, freshActive_of_up prefers alive]
    · show (u.circuit c).merge = _
      rw [form', activeAfterUp_none (by rw [entry]; exact prefers) (by rw [control]; exact states) (by rw [merge]; exact none),
        onMerge_eq, circuit_onCircuit_self, merge]
    · show (u.circuit c).merge = _
      rw [form', activeAfterUp_some (by rw [entry]; exact prefers) (by rw [control]; exact states) (by rw [merge]; exact same),
        if_neg (fun h => h.2 rfl), merge]
    · have started : u = (s.pathRisen c p).startHoldOff c q := by
        rw [form', activeAfterUp_some (by rw [entry]; exact prefers) (by rw [control]; exact states) (by rw [merge]; exact other),
          if_pos ⟨self, otherPort_ne q⟩]
      rw [startHoldOff_eq, entry] at started
      by_cases zero : k.entry.restoreHoldOff = 0
      · rw [if_pos zero] at started ⊢
        constructor
        · show (u.circuit c).merge = _
          rw [started, circuit_switchActive, Circuit.raised_merge, merge]
        · rw [started, flag_switchActive, State.flagAfter, flag_pathRisen, if_neg (by simp)]
          rfl
      · rw [if_neg zero] at started ⊢
        show (u.circuit c).merge = _
        rw [started, onMerge_eq, circuit_onCircuit_self, merge, lt]

/-! ### A path goes DOWN (R92, R95 to R97) -/

/-- Arrival and merge of a circuit once a path is DOWN with its timer stopped, before the active path (R92). -/
def Circuit.leftMerge (k : Circuit) (p : Port) : Merge :=
  { k.merge with up := k.merge.up.set p .down, timers := k.merge.timers.set p none }

/-- A path gone DOWN with its flag, before the active path (R92, R93). -/
def State.pathFallen (s : State) (c : Fin 64) (p : Port) : State := (s.pathLeft c p).raiseCircuit c (.pathChange p) (.upDown .down)

theorem circuit_pathFallen (s : State) (c : Fin 64) (p : Port) : (s.pathFallen c p).circuit c
    = ({ s.circuit c with merge := (s.circuit c).leftMerge p } : Circuit).raised (.pathChange p) (.upDown .down) := by
  rw [State.pathFallen, raiseCircuit_eq, circuit_raise_self]
  simp [State.pathLeft, Circuit.leftMerge]

theorem flag_pathFallen (s : State) (c : Fin 64) (p : Port) (r : FlagRef) : (s.pathFallen c p).flag r
    = if r = .circuit c (.pathChange p) then s.flagAfter r (.upDown .down) else s.flag r := by
  have left : (s.pathLeft c p).flag r = s.flag r := flag_onCircuit _ _ _ _ rfl
  rw [State.pathFallen, raiseCircuit_eq, flag_raise, left]
  rfl

theorem preferred_eq_none (policy : Policy) : policy.preferred = none ↔ policy = .merge := by cases policy <;> decide

theorem preferred_isSome {policy : Policy} (h : policy ≠ .merge) : ∃ q, policy.preferred = some q :=
  Option.ne_none_iff_exists'.mp (fun none => h ((preferred_eq_none policy).mp none))

/-- The choice of the active path after a path has fallen that stays with a change of arrival and merge alone. -/
theorem becomes_of_onMerge {u : State} (f : Merge → Merge) (form : u = (s.pathFallen c p).onMerge c f) :
    (u.circuit c).merge = f ((s.circuit c).leftMerge p)
    ∧ u.flag (.circuit c .pathSwitch) = s.flag (.circuit c .pathSwitch) := by
  have same : ((s.pathFallen c p).onMerge c f).flag (.circuit c .pathSwitch) = _ := flag_onCircuit _ _ _ _ rfl
  rw [form]
  refine ⟨?_, ?_⟩
  · rw [onMerge_eq, circuit_onCircuit_self, circuit_pathFallen]
    rfl
  · rw [same, flag_pathFallen, if_neg (by simp)]

theorem becomes_of_still {u : State} (form : u = s.pathFallen c p) : (u.circuit c).merge = (s.circuit c).leftMerge p
    ∧ u.flag (.circuit c .pathSwitch) = s.flag (.circuit c .pathSwitch) := by
  rw [form, circuit_pathFallen, flag_pathFallen, if_neg (by simp)]
  exact ⟨rfl, rfl⟩

/-- A path that was UP has gone DOWN, with what follows for the active path (R92, R93, R95 to R97). -/
theorem pathDown_lost (up : (s.circuit c).merge.up.get p = .up) : PathLost s (s.pathDown c p) c p := by
  have fallen := circuit_pathFallen s c p
  have form : s.pathDown c p = (s.pathFallen c p).activeAfterDown c p := by
    rcases pathDown_cases s c p with ⟨down, -⟩ | ⟨-, form⟩
    · exact absurd (up.symm.trans down) (by decide)
    · exact form
  have chosen := activeAfterDown_chosen (s.pathFallen c p) c p
  have entry : ((s.pathFallen c p).circuit c).entry = (s.circuit c).entry := by rw [fallen]; rfl
  have control : ((s.pathFallen c p).circuit c).control = (s.circuit c).control := by rw [fallen]; rfl
  have merge : ((s.pathFallen c p).circuit c).merge = (s.circuit c).leftMerge p := by rw [fallen]; rfl
  have other : ((s.circuit c).leftMerge p).up.get (otherPort p) = (s.circuit c).merge.up.get (otherPort p) :=
    Pair.get_set_of_ne _ _ (otherPort_ne p)
  have dead : ((s.circuit c).leftMerge p).up.get p = .down := Pair.get_set_self _ _ _
  generalize s.pathDown c p = u at form
  refine ⟨?_, fun f notChange notSwitch => ?_, ?_⟩
  · rw [form, chosen.flags _ (by simp), flag_pathFallen, if_pos rfl]
  · rw [form, chosen.flags f notSwitch, flag_pathFallen, if_neg (by simpa using notChange)]
  · split
    · next free =>
      exact becomes_of_still (form.trans (activeAfterDown_merge (by rw [entry, free]; rfl)))
    · next prefers =>
      obtain ⟨q, hq⟩ := preferred_isSome prefers
      have hq' : ((s.pathFallen c p).circuit c).entry.policy.preferred = some q := by rw [entry]; exact hq
      have fresh (state : (s.circuit c).control.state = .awaiting ∨ (s.circuit c).control.state = .acquiring) := by
        have form' := form.trans (activeAfterDown_fresh hq' (by rw [control]; exact state))
        rw [entry] at form'
        have b := becomes_of_onMerge _ form'
        rw [freshActive_of_down hq dead, other] at b
        exact b
      have playing (state : (s.circuit c).control.state = .playing ∨ (s.circuit c).control.state = .starved) := by
        have form' := form.trans (activeAfterDown_playing hq' (by rw [control]; exact state))
        rw [merge] at form'
        exact form'
      have chosenBy : (s.circuit c).entry.policy.preferred = some p ↔ p = q := by
        rw [hq, Option.some.injEq, eq_comm]
      have decided (state : (s.circuit c).control.state = .playing ∨ (s.circuit c).control.state = .starved) :
          if (s.circuit c).merge.active = some p then
            if (s.circuit c).merge.up.get (otherPort p) = .up then
              (u.circuit c).merge = { (s.circuit c).leftMerge p with active := some (otherPort p), holdOff := none }
              ∧ u.flag (.circuit c .pathSwitch) = s.flagAfter (.circuit c .pathSwitch) (.path (otherPort p))
            else (u.circuit c).merge = { (s.circuit c).leftMerge p with active := none }
              ∧ u.flag (.circuit c .pathSwitch) = s.flag (.circuit c .pathSwitch)
          else if (s.circuit c).entry.policy.preferred = some p then
            (u.circuit c).merge = { (s.circuit c).leftMerge p with holdOff := none }
              ∧ u.flag (.circuit c .pathSwitch) = s.flag (.circuit c .pathSwitch)
          else (u.circuit c).merge = (s.circuit c).leftMerge p
              ∧ u.flag (.circuit c .pathSwitch) = s.flag (.circuit c .pathSwitch) := by
        have form' := playing state
        have active : ((s.circuit c).leftMerge p).active = (s.circuit c).merge.active := rfl
        rw [active, other] at form'
        simp only [chosenBy]
        split_ifs at form' ⊢
        · rw [form']
          refine ⟨?_, ?_⟩
          · rw [circuit_switchActive, Circuit.raised_merge, merge]
          · rw [flag_switchActive, State.flagAfter, flag_pathFallen, if_neg (by simp)]
            rfl
        · exact becomes_of_onMerge _ form'
        · exact becomes_of_onMerge _ form'
        · exact becomes_of_still form'
      cases state : (s.circuit c).control.state with
      | disabled => exact becomes_of_still (form.trans (activeAfterDown_disabled (by rw [control]; exact state)))
      | awaiting => exact fresh (.inl state)
      | acquiring => exact fresh (.inr state)
      | playing => exact decided (.inl state)
      | starved => exact decided (.inr state)

/-- What the loss of a path leaves alone. -/
theorem pathDown_blocks (s : State) (c : Fin 64) (p : Port) : (s.pathDown c p).circuit c
    = { s.circuit c with merge := ((s.pathDown c p).circuit c).merge, flags := ((s.pathDown c p).circuit c).flags } := by
  rcases pathDown_cases s c p with ⟨-, form⟩ | ⟨-, form⟩
  · rw [form]
  · have chosen := (activeAfterDown_chosen (s.pathFallen c p) c p).blocks
    have form' : s.pathDown c p = (s.pathFallen c p).activeAfterDown c p := form
    rw [← form'] at chosen
    rw [chosen, circuit_pathFallen]
    rfl

theorem tributaries_pathDown (s : State) (c : Fin 64) (p : Port) : (s.pathDown c p).tributaries = s.tributaries := by
  rcases pathDown_cases s c p with ⟨-, form⟩ | ⟨-, form⟩
  · rw [form]
  · rw [form, (activeAfterDown_runs _ c p).tributaries]
    simp [State.pathLeft]

/-! ### Expired timers (R59, R92, R97) -/

theorem expired_of_reached {lt e : Ticks} {timer : Option Ticks} (running : timer = some e) (reached : 0 ≤ signed32 lt e) :
    expired lt timer = true := by
  subst running
  exact decide_eq_true reached

theorem exec_pathTimerExpiry {e : Ticks} (running : (s.circuit c).merge.timers.get p = some e) (reached : 0 ≤ signed32 s.lt e) :
    exec (.pathTimerExpiry c p) s = .next (s.pathDown c p) :=
  congrArg Host.Outcome.next (if_pos (expired_of_reached running reached))

theorem exec_engageTimerExpiry {e : Ticks} (running : (s.circuit c).control.engageTimer = some e)
    (reached : 0 ≤ signed32 s.lt e) : exec (.engageTimerExpiry c) s
      = .next ((s.onControl c (fun k => { k with engageTimer := none })).raise (.circuit c .engageTimeout) .none) :=
  congrArg Host.Outcome.next (if_pos (expired_of_reached running reached))

theorem exec_restoreHoldOffExpiry {e : Ticks} (running : (s.circuit c).merge.holdOff = some e) (reached : 0 ≤ signed32 s.lt e)
    (prefers : (s.circuit c).entry.policy.preferred = some q) :
    exec (.restoreHoldOffExpiry c) s = .next (s.switchActive c q) := by
  show execRestoreHoldOffExpiry c s = _
  simp only [execRestoreHoldOffExpiry, expired_of_reached running reached, if_true, prefers]

/-- Settles O33, from what the loss of a path and each expiry leave. -/
theorem pathEngageAndHoldOffTimersExpire : Obligations.PathEngageAndHoldOffTimersExpire := by
  refine ⟨fun c p s e => ?_, fun c s e reached => ⟨fun running => ?_, fun q running prefers => ?_⟩⟩
  · intro k running reached up
    have lost := pathDown_lost up
    have blocks := pathDown_blocks s c p
    have only := pathDown_only s c p
    have tributaries := tributaries_pathDown s c p
    refine ⟨_, exec_pathTimerExpiry running reached, ?_⟩
    generalize s.pathDown c p = u at lost blocks only tributaries
    obtain ⟨flag, -, becomes⟩ := lost
    refine ⟨only, flag, by rw [blocks], by rw [blocks], by rw [blocks], by rw [blocks], by rw [blocks], tributaries, ?_⟩
    intro v down other
    refine ⟨fun free => ?_, fun q prefers states => ?_, fun q prefers states => ?_⟩
    · rw [if_pos free] at becomes
      exact becomes.1
    all_goals
      have noMerge : (s.circuit c).entry.policy ≠ .merge := fun free => by rw [free] at prefers; cases prefers
      rw [if_neg noMerge] at becomes
    · have byState : (s.circuit c).control.state = .awaiting ∨ (s.circuit c).control.state = .acquiring := states
      rcases byState with h | h <;> rw [h] at becomes <;> exact becomes.1
    · have byState : (s.circuit c).control.state = .playing ∨ (s.circuit c).control.state = .starved := states
      have chosenBy : (s.circuit c).entry.policy.preferred = some p ↔ p = q := by
        rw [show (s.circuit c).entry.policy.preferred = some q from prefers, Option.some.injEq, eq_comm]
      rcases byState with h | h <;> rw [h] at becomes <;> dsimp only at becomes
      all_goals
        refine ⟨fun own alive => ?_, fun own dead => ?_, fun foreign self => ?_, fun foreign apart => ?_⟩
        · rw [if_pos own, if_pos alive] at becomes
          exact becomes
        · rw [if_pos own, if_neg (fun alive => absurd (alive.symm.trans dead) (by decide))] at becomes
          exact becomes.1
        · rw [if_neg foreign, if_pos (chosenBy.mpr self)] at becomes
          exact becomes.1
        · rw [if_neg foreign, if_neg (fun h => apart (chosenBy.mp h))] at becomes
          exact becomes.1
  · have row := exec_engageTimerExpiry running reached
    rw [onControl_eq] at row
    refine ⟨_, row, (OnlyCircuit.onCircuit s c _ rfl).trans (.raise _ c _ _), by simp, ?_, ?_⟩
    · rw [circuit_raise_self, circuit_onCircuit_self]
      rfl
    · rw [flag_raise_self, flag_onCircuit _ _ _ _ rfl]
      rfl
  · refine ⟨_, exec_restoreHoldOffExpiry running reached prefers, switchActive_only s c q, by simp [State.switchActive], ?_,
      flag_switchActive s c q⟩
    rw [circuit_switchActive]
    rfl

/-! ### The starvation timer (R63, R64, R144, R153) -/

/-- A circuit after its starvation timer has expired in ACQUIRING, before its flag (R63). -/
def Circuit.starvedAcquiring (k : Circuit) (lt : Ticks) : Circuit :=
  { k with
    control := { k.control with
      state := .awaiting, mismatchRun := 0, lateRun := 0, starvationTimer := none
      engageTimer := some (lt + BitVec.ofNat 32 (k.entry.engageTimeout * 8192000)) }
    buffer := { k.buffer.flush with pointer := none }
    recovery := { k.recovery with rt := none, window := none }
    merge := { k.merge with holdOff := none, active := freshActive k.entry.policy k.merge.up } }

theorem circuit_starveAcquiring (s : State) (c : Fin 64) : (s.starveAcquiring c).circuit c
    = ((s.circuit c).starvedAcquiring s.lt).raised .stateChanged (.circuitState .awaiting) := by
  unfold State.starveAcquiring
  rw [circuit_enter]
  simp [State.refreshActive, State.startEngageTimer, Circuit.starvedAcquiring, expiryAfter, secondsToTicks]

theorem exec_starvationTimerExpiry {e : Ticks} (running : (s.circuit c).control.starvationTimer = some e)
    (reached : 0 ≤ signed32 s.lt e) : exec (.starvationTimerExpiry c) s = .next (s.starve c) :=
  congrArg Host.Outcome.next (if_pos (expired_of_reached running reached))

theorem holdMean_eq (r : Recovery) : r.holdMean = { r with
    freq := (meanTowardZero r.history).getD r.freq, integrator := (meanTowardZero r.history).getD r.integrator } := by
  unfold Recovery.holdMean
  cases meanTowardZero r.history <;> rfl

theorem timingLeft_starvePlaying (s : State) (c : Fin 64) : TimingLeft s (s.starvePlaying c) c := by
  classical
  have only : OnlyCircuit s (s.starvedPlaying c) c :=
    (((enter_only s c .starved).trans (loseLock_only _ c)).thenRecovery _).thenControl _
  have tributaries : (s.starvedPlaying c).tributaries = s.tributaries :=
    (loseLock_runs _ c).tributaries.trans (tributaries_enter s c .starved)
  have tributary := State.tributary_congr tributaries
  have times (t : Fin 16) : (s.starvedPlaying c).times c t ↔ s.times c t := by simp only [State.times, only.entry, tributary]
  refine timingLeft_of (fun t => ?_)
  rw [starvePlaying_eq, tributary_timingLeavesPlaying, tributary]
  by_cases timed : s.times c t
  · rw [if_pos ((times t).mpr timed)]; exact .inl ⟨timed, rfl⟩
  · rw [if_neg (fun h => timed ((times t).mp h))]; exact .inr ⟨timed, rfl⟩

theorem tributaries_starveAcquiring (s : State) (c : Fin 64) : (s.starveAcquiring c).tributaries = s.tributaries := by
  simp [State.starveAcquiring, State.refreshActive, State.startEngageTimer]

theorem circuit_starvePlaying (s : State) (c : Fin 64) : (s.starvePlaying c).circuit c = (s.starvedPlaying c).circuit c := by
  rw [starvePlaying_eq, circuit_timingLeavesPlaying]

/-- The flags of a circuit after one flag and, on a condition, another. -/
theorem flag_circuit_of_raised_raisedIf {u : State} {k : Circuit} {f g : CircuitFlag} {d e : Detail} {b : Bool}
    (h : u.circuit c = (k.raised f d).raisedIf b g e) (flags : k.flags = (s.circuit c).flags) (apart : f ≠ g) :
    u.flag (.circuit c f) = s.flagAfter (.circuit c f) d
    ∧ u.flag (.circuit c g) = if b then s.flagAfter (.circuit c g) e else s.flag (.circuit c g) := by
  cases b with
  | false => simp [State.flag, State.flagAfter, h, Circuit.raisedIf, Circuit.raised, raisedRow_circuitFlag, flags, apart.symm]
  | true => simp [State.flag, State.flagAfter, h, Circuit.raisedIf, Circuit.raised, raisedRow_circuitFlag, flags, apart, apart.symm]

/-- Settles O34, by the two states a starvation timer runs in. -/
theorem starvationExpiryByState : Obligations.StarvationExpiryByState := by
  intro c s e running reached k
  have row := exec_starvationTimerExpiry running reached
  refine ⟨fun acquiring => ?_, fun playing => ?_⟩
  · have form : s.starve c = s.starveAcquiring c := by
      have h : (s.circuit c).control.state = .acquiring := acquiring
      simp only [State.starve, h]
    rw [form] at row
    have circuit := circuit_starveAcquiring s c
    have only := starveAcquiring_only s c
    have tributaries := tributaries_starveAcquiring s c
    refine ⟨_, row, only, tributaries, (flag_circuit_of_raised circuit rfl _).trans (if_pos rfl), ?_⟩
    rw [circuit]
    exact ⟨rfl, rfl, rfl, rfl, rfl, rfl, rfl⟩
  · have form : s.starve c = s.starvePlaying c := by
      have h : (s.circuit c).control.state = .playing := playing
      simp only [State.starve, h]
    rw [form] at row
    have circuit := (circuit_starvePlaying s c).trans (circuit_starvedPlaying s c)
    have only := starvePlaying_only s c
    have flags := flag_circuit_of_raised_raisedIf (s := s) circuit rfl (by decide)
    refine ⟨_, row, only, timingLeft_starvePlaying s c, only.rtAtFrameStart ?_ ?_, flags.1, flags.2, ?_⟩
    · rw [circuit, holdMean_eq]; rfl
    · rw [circuit, holdMean_eq]; rfl
    · rw [circuit, holdMean_eq]
      exact ⟨rfl, rfl, rfl, rfl, rfl, rfl, rfl⟩

end Sys2Proof.Machine

/-! PROOFS. The link reports of a port (R82, R86, R93). -/

namespace Sys2Proof.Machine

variable {s u : State} {c : Fin 64} {p : Port}

/-! ### A path gone DOWN, told from its circuit alone -/

/-- The fall of a path is a statement about its circuit's blocks. -/
theorem PathLost.congr {w v : State} (lost : PathLost w v c p) (entry : (w.circuit c).entry = (s.circuit c).entry)
    (control : (w.circuit c).control = (s.circuit c).control) (merge : (w.circuit c).merge = (s.circuit c).merge)
    (flags : (w.circuit c).flags = (s.circuit c).flags) (after : v.circuit c = u.circuit c) : PathLost s u c p := by
  simp only [PathLost, State.flagAfter, State.flag, entry, control, merge, flags, after] at lost ⊢
  exact lost

/-- What the paths on a port going DOWN leaves of a circuit: that of the one fall of its own path, or all of it. -/
theorem circuit_pathsDown (p : Port) (l : List (Fin 64)) (once : l.Nodup) (s : State) (c : Fin 64) :
    (c ∈ l ∧ (s.circuit c).engaged = true ∧
      ∃ w : State, w.circuit c = s.circuit c ∧ (State.pathsDown p l s).circuit c = (w.pathDown c p).circuit c)
    ∨ (¬(c ∈ l ∧ (s.circuit c).engaged = true) ∧ (State.pathsDown p l s).circuit c = s.circuit c) := by
  induction l generalizing s with
  | nil => exact .inr ⟨by simp, rfl⟩
  | cons d l ih =>
    obtain ⟨fresh, rest⟩ := List.nodup_cons.mp once
    have step : State.pathsDown p (d :: l) s
        = State.pathsDown p l (if (s.circuit d).engaged then s.pathDown d p else s) := rfl
    rw [step]
    by_cases same : c = d
    · subst same
      rcases ih rest (if (s.circuit c).engaged then s.pathDown c p else s) with ⟨again, -⟩ | ⟨-, kept⟩
      · exact absurd again fresh
      · rw [kept]
        by_cases engaged : (s.circuit c).engaged = true
        · rw [if_pos engaged]
          exact .inl ⟨List.mem_cons_self, engaged, s, rfl, rfl⟩
        · rw [if_neg engaged]
          exact .inr ⟨fun h => engaged h.2, rfl⟩
    · have kept : (if (s.circuit d).engaged then s.pathDown d p else s).circuit c = s.circuit c := by
        split
        · exact (pathDown_only s d p).others c same
        · rfl
      have later := ih rest (if (s.circuit d).engaged then s.pathDown d p else s)
      rw [kept] at later
      simpa only [List.mem_cons, same, false_or] using later

theorem nodup_allCircuits : allCircuits.Nodup := by unfold allCircuits; exact List.nodup_finRange 64

theorem tributaries_pathsDown (p : Port) (l : List (Fin 64)) (s : State) : (State.pathsDown p l s).tributaries = s.tributaries :=
  forEach_induction (fun v => v.tributaries = s.tributaries) _ (fun c v h => by
    split
    · exact (tributaries_pathDown v c p).trans h
    · exact h) l s rfl

theorem run_pathsDown (p : Port) (l : List (Fin 64)) (s : State) : SameRun s (State.pathsDown p l s) :=
  forEach_relation SameRun .refl .trans _ (fun c s => by
    split
    · exact (pathDown_only s c p).run
    · exact .refl s) l s

/-! ### The flushed queues (R82) -/

/-- Counting up n times, as far as a counter goes (R182). -/
theorem notSent_countCopies (p : Port) (l : List Copy) (s : State) (c : Fin 64)
    (bound : (s.circuit c).counters.get (CircuitCounter.notSent p).place ≤ 4294967295) :
    ((forEach l (fun x s => s.count x.circuit (.notSent p)) s).circuit c).counters.get (CircuitCounter.notSent p).place
      = min 4294967295 ((s.circuit c).counters.get (CircuitCounter.notSent p).place
          + (l.filter (fun x => x.circuit == c)).length) := by
  induction l generalizing s with
  | nil => simpa [forEach] using bound
  | cons x l ih =>
    show ((forEach l _ (s.count x.circuit (.notSent p))).circuit c).counters.get _ = _
    rw [count_eq]
    by_cases own : x.circuit = c
    · subst own
      have one := countUp_le bound
      rw [ih _ (by rw [circuit_onCircuit_self]; simpa only [get_bump_self] using one), circuit_onCircuit_self]
      simp only [get_bump_self, List.filter_cons, beq_self_eq_true, if_true, List.length_cons, countUp]
      split <;> omega
    · have other : c ≠ x.circuit := fun e => own e.symm
      rw [ih _ (by rw [circuit_onCircuit_of_ne _ _ other]; exact bound), circuit_onCircuit_of_ne _ _ other]
      simp [own]

theorem linkLost_circuit (s : State) (p : Port) (c : Fin 64) : (s.linkLost p).circuit c
    = { s.circuit c with counters := ((s.linkLost p).circuit c).counters } := by
  have flushed := flushQueues_circuit ((s.onPort p (fun k => { k with link := .down })).raisePort p .linkChange (.upDown .down)) p c
  simpa [State.linkLost] using flushed

theorem linkLost_notSent (bound : (s.circuit c).counters.get (CircuitCounter.notSent p).place ≤ 4294967295) :
    ((s.linkLost p).circuit c).counters.get (CircuitCounter.notSent p).place
      = min 4294967295 ((s.circuit c).counters.get (CircuitCounter.notSent p).place
          + ((s.port p).circuitQueue.filter (fun x => x.circuit == c)).length) := by
  have queue : (((s.onPort p (fun k => { k with link := .down })).raisePort p .linkChange (.upDown .down)).port p).circuitQueue
      = (s.port p).circuitQueue := by simp
  have counted := notSent_countCopies p (s.port p).circuitQueue
    (((s.onPort p (fun k => { k with link := .down })).raisePort p .linkChange (.upDown .down)).onPort p
      (fun k => { k with circuitQueue := [], responseQueue := [] })) c (by simpa using bound)
  rw [State.linkLost, State.flushQueues, queue, counted]
  simp

theorem port_linkLost (s : State) (p : Port) : (s.linkLost p).port p
    = { s.port p with link := .down, circuitQueue := [], responseQueue := [], flags := ((s.linkLost p).port p).flags } := by
  rw [State.linkLost, State.port_congr (flushQueues_port _ p)]
  simp

theorem port_linkLost_other (s : State) (p : Port) : (s.linkLost p).port (otherPort p) = s.port (otherPort p) := by
  have marked : OnlyPort s ((s.onPort p (fun k => { k with link := .down })).raise (.port p .linkChange) (.upDown .down)) p :=
    (OnlyPort.onPort s p _ rfl).trans (.raise _ p _ _)
  rw [State.linkLost, State.port_congr (flushQueues_port _ p)]
  exact (marked.trans (OnlyPort.onPort _ p _ rfl)).other

theorem flag_linkLost (s : State) (p : Port) :
    (s.linkLost p).flag (.port p .linkChange) = s.flagAfter (.port p .linkChange) (.upDown .down) := by
  have flags : ((s.linkLost p).port p).flags
      = (((s.onPort p (fun k => { k with link := .down })).raisePort p .linkChange (.upDown .down)).port p).flags := by
    rw [State.linkLost, State.port_congr (flushQueues_port _ p)]
    simp
  have same : (s.linkLost p).flag (.port p .linkChange)
      = ((s.onPort p (fun k => { k with link := .down })).raise (.port p .linkChange) (.upDown .down)).flag (.port p .linkChange) := by
    rw [State.flag, flags]; rfl
  rw [same, flag_raise_self, flag_onPort _ _ _ _ rfl]
  rfl

theorem linkLost_run (s : State) (p : Port) : SameRun s (s.linkLost p) ∧ (s.linkLost p).tributaries = s.tributaries := by
  obtain ⟨run, tributaries, -⟩ :=
    flushQueues_run ((s.onPort p (fun k => { k with link := .down })).raisePort p .linkChange (.upDown .down)) p
  have before : OnlyPort s ((s.onPort p (fun k => { k with link := .down })).raise (.port p .linkChange) (.upDown .down)) p :=
    (OnlyPort.onPort s p _ rfl).trans (.raise _ p _ _)
  exact ⟨before.run.trans run, tributaries.trans before.tributaries⟩

/-! ### The two reports -/

theorem exec_linkUp (down : (s.port p).link = .down) : exec (.linkUp p) s
    = .next ((s.onPort p (fun k => { k with link := .up })).raise (.port p .linkChange) (.upDown .up)) := by
  show execLinkUp p s = _
  simp only [execLinkUp, down, raisePort_eq]

theorem exec_linkDown (up : (s.port p).link = .up) :
    exec (.linkDown p) s = .next (State.pathsDown p allCircuits (s.linkLost p)) := by
  show execLinkDown p s = _
  simp only [execLinkDown, up]
  rfl

/-- Settles O23: the flush of the queues, and then the fall of one path of each engaged circuit. -/
theorem linkReportsChangeTheLink : Obligations.LinkReportsChangeTheLink := by
  intro p s
  refine ⟨fun down => ?_, fun up => ?_⟩
  · refine ⟨_, exec_linkUp down, (OnlyPort.onPort s p _ rfl).trans (.raise _ p _ _), ?_, ?_⟩
    · simp [port_raise_self, PortState.raised]
    · rw [flag_raise_self, flag_onPort _ _ _ _ rfl]
      rfl
  · have row := exec_linkDown up
    obtain ⟨lostRun, lostTributaries⟩ := linkLost_run s p
    have ports := pathsDown_port p allCircuits (s.linkLost p)
    have tributaries := tributaries_pathsDown p allCircuits (s.linkLost p)
    have run := run_pathsDown p allCircuits (s.linkLost p)
    have paths (c : Fin 64) := circuit_pathsDown p allCircuits nodup_allCircuits (s.linkLost p) c
    have flag : (State.pathsDown p allCircuits (s.linkLost p)).flag (.port p .linkChange)
        = (s.linkLost p).flag (.port p .linkChange) := by simp only [State.flag, ports]
    simp only [mem_allCircuits, true_and] at paths
    generalize State.pathsDown p allCircuits (s.linkLost p) = u at *
    refine ⟨u, row, (ports p).trans ?_, (ports _).trans (port_linkLost_other s p), tributaries.trans lostTributaries,
      lostRun.trans run, flag.trans (flag_linkLost s p), fun c => ?_⟩
    · rw [ports p]; exact port_linkLost s p
    · have lost := linkLost_circuit s p c
      have sent (bound : (s.circuit c).counters.get (CircuitCounter.notSent p).place ≤ 4294967295) := linkLost_notSent bound
      have engaged : ((s.linkLost p).circuit c).engaged = (s.circuit c).engaged := by rw [lost]; rfl
      have path := paths c
      rw [engaged] at path
      generalize s.linkLost p = v at lost sent path
      have blocks : u.circuit c = { s.circuit c with
          counters := (v.circuit c).counters, merge := (u.circuit c).merge, flags := (u.circuit c).flags } := by
        rcases path with ⟨-, w, same, fallen⟩ | ⟨-, kept⟩
        · rw [fallen, pathDown_blocks, same, lost]
        · rw [kept, lost]
      have otherPath : (u.circuit c).merge.up.get (otherPort p) = (s.circuit c).merge.up.get (otherPort p) := by
        have apart : otherPort p ≠ p := by cases p <;> decide
        rcases path with ⟨-, w, same, fallen⟩ | ⟨-, kept⟩
        · rw [fallen, pathDown_up, Pair.get_set, if_neg apart, same, lost]
        · rw [kept, lost]
      refine ⟨by rw [blocks], by rw [blocks], by rw [blocks], by rw [blocks], by rw [blocks], by rw [blocks], otherPath,
        fun bound => ?_, fun on up => ?_, fun rest => ?_⟩
      · rw [blocks]; exact sent bound
      · rcases path with ⟨-, w, same, fallen⟩ | ⟨idle, -⟩
        · have down : PathLost w (w.pathDown c p) c p := pathDown_lost (by rw [same, lost]; exact up)
          exact down.congr (by rw [same, lost]) (by rw [same, lost]) (by rw [same, lost]) (by rw [same, lost]) fallen.symm
        · exact absurd on idle
      · rcases path with ⟨on, w, same, fallen⟩ | ⟨-, kept⟩
        · have down : (w.circuit c).merge.up.get p = .down := by
            rw [same, lost]
            exact rest.resolve_left (fun off => absurd (on.symm.trans off) (by decide))
          rcases pathDown_cases w c p with ⟨-, form⟩ | ⟨up, -⟩
          · rw [fallen, form, same, lost]
            exact ⟨rfl, rfl⟩
          · exact absurd (up.symm.trans down) (by decide)
        · rw [kept, lost]
          exact ⟨rfl, rfl⟩

end Sys2Proof.Machine

/-! PROOFS. What a sample does: the window it enters, the completion of acquisition at the window's end and the update of the loop
(R62, R133 to R142). -/

namespace Sys2Proof.Machine

variable {s : State} {c : Fin 64} {x : Int} {w : Window}

/-! ### The starvation timer and the window (R63, R133) -/

/-- A circuit whose starvation timer has been started (R63, log 22). -/
def Circuit.starvationStarted (k : Circuit) (lt : Ticks) : Circuit :=
  { k with control := { k.control with
      starvationTimer := some (lt + BitVec.ofNat 32 (k.entry.starvationTimeout * k.entry.frames * 1024)) } }

theorem circuit_startStarvation (s : State) (c : Fin 64) :
    (s.startStarvation c).circuit c = (s.circuit c).starvationStarted s.lt := by
  simp [State.startStarvation, Circuit.starvationStarted, expiryAfter, periodsToTicks]

theorem flag_startStarvation (s : State) (c : Fin 64) (r : FlagRef) : (s.startStarvation c).flag r = s.flag r := by
  rw [State.startStarvation, onControl_eq]
  exact flag_onCircuit _ _ _ _ rfl

/-- A circuit in whose window a sample has been entered, the starvation timer restarted (R63, R133). -/
def Circuit.windowed (k : Circuit) (lt : Ticks) (w : Window) (x : Int) : Circuit :=
  { k.starvationStarted lt with recovery := { k.recovery with window := some ⟨w.count + 1, min w.minimum x, w.length⟩ } }

/-- The state after a sample has entered the window, before the window's end is judged. -/
def State.windowed (s : State) (c : Fin 64) (x : Int) : State :=
  (s.startStarvation c).onRecovery c (fun r => r.enter (s.circuit c).entry.window x)

theorem circuit_windowed (begun : (s.circuit c).recovery.window = some w) :
    (s.windowed c x).circuit c = (s.circuit c).windowed s.lt w x := by
  simp [State.windowed, circuit_startStarvation, Circuit.starvationStarted, Recovery.enter, begun, Circuit.windowed]

theorem flag_windowed (s : State) (c : Fin 64) (x : Int) (r : FlagRef) : (s.windowed c x).flag r = s.flag r := by
  rw [State.windowed, onRecovery_eq, flag_onCircuit _ _ _ _ rfl, flag_startStarvation]

theorem enterSample_form (s : State) (c : Fin 64) (x : Int) :
    (s.startStarvation c).onRecovery c (fun r => r.enter ((s.startStarvation c).circuit c).entry.window x) = s.windowed c x := by
  rw [circuit_startStarvation]; rfl

theorem windowEnd_windowed (begun : (s.circuit c).recovery.window = some w) : ((s.windowed c x).circuit c).recovery.windowEnd
    = if w.length ≤ w.count + 1 then some (min w.minimum x) else none := by
  rw [circuit_windowed begun]; rfl

theorem state_windowed (begun : (s.circuit c).recovery.window = some w) :
    ((s.windowed c x).circuit c).control.state = (s.circuit c).control.state := by
  rw [circuit_windowed begun]; rfl

/-- A sample that does not bring the window to its length (R133). -/
theorem takeSample_open (begun : (s.circuit c).recovery.window = some w) (short : w.count + 1 < w.length) :
    s.takeSample c x = s.windowed c x := by
  have last := windowEnd_windowed (x := x) begun
  rw [if_neg (by omega)] at last
  simp only [State.takeSample, State.enterSample, enterSample_form, last]

/-- The sample that completes the window in ACQUIRING (R62). -/
theorem takeSample_acquired (begun : (s.circuit c).recovery.window = some w) (full : w.length ≤ w.count + 1)
    (state : (s.circuit c).control.state = .acquiring) :
    s.takeSample c x = (s.windowed c x).completeAcquisition c (min w.minimum x) := by
  have last := windowEnd_windowed (x := x) begun
  rw [if_pos full] at last
  simp only [State.takeSample, State.enterSample, enterSample_form, last, (state_windowed (x := x) begun).trans state]

/-- The sample that completes the window in PLAYING (R135). -/
theorem takeSample_looped (begun : (s.circuit c).recovery.window = some w) (full : w.length ≤ w.count + 1)
    (state : (s.circuit c).control.state = .playing) :
    s.takeSample c x = (s.windowed c x).loopUpdate c (min w.minimum x) := by
  have last := windowEnd_windowed (x := x) begun
  rw [if_pos full] at last
  simp only [State.takeSample, State.enterSample, enterSample_form, last, (state_windowed (x := x) begun).trans state]

/-! ### The completion of acquisition (R62, R134) -/

/-- A circuit whose acquisition is complete, before its flags (R62, R134). -/
def Circuit.acquired (k : Circuit) (m : Int) : Circuit :=
  { k with
    control := { k.control with state := .playing, acquired := true }
    recovery := k.recovery.shift m
    buffer := { k.buffer with startMark := false } }

theorem circuit_completeAcquisition (s : State) (c : Fin 64) (m : Int) : (s.completeAcquisition c m).circuit c
    = (((s.circuit c).acquired m).raised .stateChanged (.circuitState .playing)).raisedIf (s.circuit c).control.acquired
        .delayStep .none := by
  simp only [State.completeAcquisition]
  cases again : (s.circuit c).control.acquired with
  | true =>
    rw [if_pos rfl, raiseCircuit_eq, circuit_raise_self, circuit_enter, Circuit.raisedIf_true]
    simp [Circuit.acquired, again]
  | false =>
    rw [if_neg (by decide), onControl_eq, circuit_onCircuit_self, circuit_enter, Circuit.raisedIf_false]
    simp [Circuit.acquired, Circuit.raised]

/-- Settles O29, by whether the sample brings the window to its length. -/
theorem windowEndCompletesAcquisition : Obligations.WindowEndCompletesAcquisition := by
  intro s c x w rt k u v state begun time
  have only : OnlyCircuit s u c := takeSample_only s c x
  rcases Nat.lt_or_ge (w.count + 1) w.length with short | full
  · have circuit : v = k.windowed s.lt w x := by
      show (s.takeSample c x).circuit c = _
      rw [takeSample_open begun short, circuit_windowed begun]
    rw [circuit]
    exact ⟨only, rfl, rfl, rfl, rfl, rfl, rfl, rfl, rfl, fun _ => ⟨state, time, rfl⟩, fun h => absurd h (by omega)⟩
  · have circuit : v = (((k.windowed s.lt w x).acquired (min w.minimum x)).raised .stateChanged
        (.circuitState .playing)).raisedIf k.control.acquired .delayStep .none := by
      show (s.takeSample c x).circuit c = _
      rw [takeSample_acquired begun full state, circuit_completeAcquisition, circuit_windowed begun]
      rfl
    obtain ⟨changed, stepped⟩ := flag_circuit_of_raised_raisedIf (s := s) circuit rfl (by decide)
    have advanced : k.recovery.rt.map (fun t : FineTicks => t + fineTicks (-(min w.minimum x)))
        = some (rt + BitVec.ofInt 59 (-(min w.minimum x) * 2 ^ 27)) := by rw [time]; rfl
    rw [circuit]
    exact ⟨only, rfl, rfl, rfl, rfl, rfl, rfl, rfl, rfl, fun h => absurd h (by omega),
      fun _ => ⟨rfl, rfl, rfl, advanced, rfl, changed, stepped⟩⟩

/-! ### The update of the loop (R135 to R142) -/

/-- A circuit whose loop a window's end has updated, before its flag (R135). -/
def Circuit.looped (k : Circuit) (m : Int) : Circuit := { k with recovery := k.recovery.looped k.entry m }

/-- The flag that the judgement of the lock at a window's end sets (R139, R140). -/
def Circuit.lockFlag (k : Circuit) (m : Int) : Option CircuitFlag :=
  ((k.recovery.update k.entry.shiftA k.entry.shiftB (loopError m)).judge k.entry.lockThreshold k.entry.unlockThreshold
    (loopError m)).2

theorem loopUpdate_quiet (m : Int) (quiet : (s.circuit c).lockFlag m = none) :
    s.loopUpdate c m = s.onRecovery c (fun _ => (s.circuit c).recovery.looped (s.circuit c).entry m) := by
  unfold Circuit.lockFlag at quiet
  simp only [State.loopUpdate, quiet]
  rfl

theorem loopUpdate_flagged (m : Int) {f : CircuitFlag} (flagged : (s.circuit c).lockFlag m = some f) :
    s.loopUpdate c m
      = (s.onRecovery c (fun _ => (s.circuit c).recovery.looped (s.circuit c).entry m)).raise (.circuit c f) .none := by
  unfold Circuit.lockFlag at flagged
  simp only [State.loopUpdate, flagged, raiseCircuit_eq]
  rfl

/-- The blocks and flags a window's end in PLAYING leaves. -/
theorem loopUpdate_circuit (s : State) (c : Fin 64) (m : Int) : (s.loopUpdate c m).circuit c
    = { (s.circuit c).looped m with flags := ((s.loopUpdate c m).circuit c).flags } := by
  cases e : (s.circuit c).lockFlag m with
  | none => rw [loopUpdate_quiet m e, onRecovery_eq, circuit_onCircuit_self]; rfl
  | some f => rw [loopUpdate_flagged m e, circuit_raise_self, onRecovery_eq, circuit_onCircuit_self]; rfl

theorem flag_loopUpdate (s : State) (c : Fin 64) (m : Int) (f : CircuitFlag) : (s.loopUpdate c m).flag (.circuit c f)
    = if (s.circuit c).lockFlag m = some f then s.flagAfter (.circuit c f) .none else s.flag (.circuit c f) := by
  have kept (r : FlagRef) : (s.onRecovery c (fun _ => (s.circuit c).recovery.looped (s.circuit c).entry m)).flag r = s.flag r :=
    flag_onCircuit _ _ _ _ rfl
  cases e : (s.circuit c).lockFlag m with
  | none => rw [loopUpdate_quiet m e, kept, if_neg (by simp)]
  | some g =>
    rw [loopUpdate_flagged m e, flag_raise, kept]
    by_cases same : f = g
    · subst same; simp [State.flagAfter]
    · rw [if_neg (by simpa using same), if_neg (by simpa using fun h => same h.symm)]

/-- The judgement of the lock does not ask for the loop values. -/
theorem judge_update (r : Recovery) (a b lock unlock : Nat) (e e' : Int) : ((r.update a b e').judge lock unlock e)
    = ({ r.update a b e' with
          locked := (r.judge lock unlock e).1.locked, towardLock := (r.judge lock unlock e).1.towardLock
          towardLoss := (r.judge lock unlock e).1.towardLoss }, (r.judge lock unlock e).2) := by
  simp only [Recovery.judge, Recovery.update]
  by_cases held : r.locked = true
  · by_cases wide : unlock < e.natAbs
    · by_cases first : r.towardLoss + 1 < 2
      · simp only [held, wide, first, if_true]
      · simp only [held, wide, first, if_true, if_false]
    · simp only [held, wide, if_true, if_false]
  · by_cases near : e.natAbs ≤ lock
    · by_cases early : r.towardLock + 1 < 4
      · simp only [held, near, early, if_true, if_false, Bool.false_eq_true]
      · simp only [held, near, early, if_true, if_false, Bool.false_eq_true]
    · simp only [held, near, if_false, Bool.false_eq_true]

/-- R135 to R137, R142: I and FREQ from the clamped error, the error recorded, the window empty, and the history with the new FREQ
while the lock, as judged, is held. -/
theorem looped_values (r : Recovery) (e : CircuitEntry) (m : Int) :
    (r.looped e m).rt = r.rt ∧ (r.looped e m).tickFreq = r.tickFreq
    ∧ (r.looped e m).integrator = sat (r.integrator + loopError m * 2 ^ e.shiftA)
    ∧ (r.looped e m).freq = sat (sat (r.integrator + loopError m * 2 ^ e.shiftA) + loopError m * 2 ^ e.shiftB)
    ∧ (r.looped e m).lastError = some (loopError m) ∧ (r.looped e m).window = none
    ∧ (r.looped e m).history
      = if (r.looped e m).locked then
          pushBounded 8 r.history (sat (sat (r.integrator + loopError m * 2 ^ e.shiftA) + loopError m * 2 ^ e.shiftB))
        else r.history := by
  simp only [Recovery.looped, judge_update, Recovery.append]
  generalize (r.judge e.lockThreshold e.unlockThreshold (loopError m)).1.locked = held
  cases held
  · simp [Recovery.update]
  · simp [Recovery.update]

/-- The lock and its two counts after a window's end are as judged (R139, R140). -/
theorem looped_lock (r : Recovery) (e : CircuitEntry) (m : Int) :
    (r.looped e m).locked = (r.judge e.lockThreshold e.unlockThreshold (loopError m)).1.locked
    ∧ (r.looped e m).towardLock = (r.judge e.lockThreshold e.unlockThreshold (loopError m)).1.towardLock
    ∧ (r.looped e m).towardLoss = (r.judge e.lockThreshold e.unlockThreshold (loopError m)).1.towardLoss := by
  simp only [Recovery.looped, judge_update, Recovery.append]
  generalize (r.judge e.lockThreshold e.unlockThreshold (loopError m)).1.locked = held
  cases held
  · exact ⟨rfl, rfl, rfl⟩
  · exact ⟨rfl, rfl, rfl⟩

/-- The lock and its two counts, and the flag of the judgement (R139, R140). -/
def Recovery.judgement (r : Recovery) (lock unlock : Nat) (e : Int) : Bool × Nat × Nat × Option CircuitFlag :=
  ((r.judge lock unlock e).1.locked, (r.judge lock unlock e).1.towardLock, (r.judge lock unlock e).1.towardLoss,
    (r.judge lock unlock e).2)

/-- R139: the fourth small error in a row locks. -/
theorem judgement_unlocked {r : Recovery} (unlocked : r.locked = false) (lock unlock : Nat) (e : Int) :
    r.judgement lock unlock e
      = if e.natAbs ≤ lock then
          if r.towardLock < 3 then (false, r.towardLock + 1, r.towardLoss, none) else (true, 0, 0, some .lockGained)
        else (false, 0, r.towardLoss, none) := by
  by_cases near : e.natAbs ≤ lock
  · by_cases early : r.towardLock < 3
    · simp [Recovery.judgement, Recovery.judge, unlocked, near, early, show r.towardLock + 1 < 4 by omega]
    · simp [Recovery.judgement, Recovery.judge, unlocked, near, early, show ¬r.towardLock + 1 < 4 by omega]
  · simp [Recovery.judgement, Recovery.judge, unlocked, near]

/-- R140: the second large error in a row unlocks. -/
theorem judgement_locked {r : Recovery} (locked : r.locked = true) (lock unlock : Nat) (e : Int) :
    r.judgement lock unlock e
      = if unlock < e.natAbs then
          if r.towardLoss < 1 then (true, r.towardLock, r.towardLoss + 1, none) else (false, 0, 0, some .lockLost)
        else (true, r.towardLock, 0, none) := by
  by_cases wide : unlock < e.natAbs
  · by_cases first : r.towardLoss < 1
    · simp [Recovery.judgement, Recovery.judge, locked, wide, Nat.lt_one_iff.mp first]
    · simp [Recovery.judgement, Recovery.judge, locked, wide, Nat.lt_one_iff.not.mp first]
  · simp [Recovery.judgement, Recovery.judge, locked, wide]

theorem lockFlag_eq (k : Circuit) (m : Int) : k.lockFlag m
    = (k.recovery.judge k.entry.lockThreshold k.entry.unlockThreshold (loopError m)).2 := by
  rw [Circuit.lockFlag, judge_update]

/-- The judgement does not ask for the window. -/
theorem judgement_window (r : Recovery) (w : Option Window) (lock unlock : Nat) (e : Int) :
    ({ r with window := w } : Recovery).judgement lock unlock e = r.judgement lock unlock e := by
  rcases Bool.eq_false_or_eq_true r.locked with held | held
  · rw [judgement_locked held, judgement_locked (r := { r with window := w }) held]
  · rw [judgement_unlocked held, judgement_unlocked (r := { r with window := w }) held]

theorem mk_four_inj {α β γ δ : Type} {a a' : α} {b b' : β} {g g' : γ} {d d' : δ} (h : (a, b, g, d) = (a', b', g', d')) :
    a = a' ∧ b = b' ∧ g = g' ∧ d = d' := by
  simpa only [Prod.mk.injEq] using h

/-- Settles O30, by whether the sample brings the window to its length. -/
theorem windowEndUpdatesTheLoop : Obligations.WindowEndUpdatesTheLoop := by
  intro s c x w k u r v e i f state begun
  have only : OnlyCircuit s u c := takeSample_only s c x
  rcases Nat.lt_or_ge (w.count + 1) w.length with short | full
  · have circuit : u.circuit c = k.windowed s.lt w x := by
      show (s.takeSample c x).circuit c = _
      rw [takeSample_open begun short, circuit_windowed begun]
    have recovery : v = (k.windowed s.lt w x).recovery := congrArg Circuit.recovery circuit
    rw [recovery, circuit]
    refine ⟨only, rfl, rfl, only.rtAtFrameStart ?_ ?_, fun _ => rfl, fun h => absurd h (by omega)⟩
    · rw [circuit]; rfl
    · rw [circuit]; rfl
  · have form : u = (s.windowed c x).loopUpdate c (min w.minimum x) := takeSample_looped begun full state
    have before := circuit_windowed (s := s) (c := c) (x := x) begun
    have after : u.circuit c = { (k.windowed s.lt w x).looped (min w.minimum x) with flags := (u.circuit c).flags } := by
      rw [form, ← before]; exact loopUpdate_circuit _ c _
    have flag (g : CircuitFlag) : u.flag (.circuit c g) = if (k.windowed s.lt w x).lockFlag (min w.minimum x) = some g then
        s.flagAfter (.circuit c g) .none else s.flag (.circuit c g) := by
      rw [form, flag_loopUpdate, before]
      simp only [State.flagAfter, flag_windowed]
      rfl
    have recovery : v = ({ r with window := some ⟨w.count + 1, min w.minimum x, w.length⟩ } : Recovery).looped k.entry
        (min w.minimum x) := by
      show (u.circuit c).recovery = _
      rw [after]; rfl
    have error : loopError (min w.minimum x) = e := clampInt_eq (by decide) _
    have saturated (y : Int) : sat y = max (-32768) (min 32767 y) := clampInt_eq (by decide) y
    obtain ⟨rt, advance, integrator, freq, last, window, history⟩ :=
      looped_values { r with window := some ⟨w.count + 1, min w.minimum x, w.length⟩ } k.entry (min w.minimum x)
    obtain ⟨held, toward, loss⟩ :=
      looped_lock { r with window := some ⟨w.count + 1, min w.minimum x, w.length⟩ } k.entry (min w.minimum x)
    have lock : (v.locked, v.towardLock, v.towardLoss, (k.windowed s.lt w x).lockFlag (min w.minimum x))
        = r.judgement k.entry.lockThreshold k.entry.unlockThreshold e := by
      rw [← judgement_window r (some ⟨w.count + 1, min w.minimum x, w.length⟩), recovery, held, toward, loss, lockFlag_eq, error]
      rfl
    rw [← recovery] at rt advance integrator freq last window history
    simp only [error, saturated] at integrator freq last history
    refine ⟨only, rt, by rw [after]; rfl, only.rtAtFrameStart rt advance, fun h => absurd h (by omega), fun _ =>
      ⟨integrator, freq, last, window, history, fun unlocked => ?_, fun locked => ?_⟩⟩
    · rw [judgement_unlocked unlocked] at lock
      by_cases near : e.natAbs ≤ k.entry.lockThreshold
      · rw [if_pos near] at lock ⊢
        by_cases early : r.towardLock < 3
        · rw [if_pos early] at lock ⊢
          obtain ⟨h, n, -, f⟩ := mk_four_inj lock
          exact ⟨⟨h, n⟩, by rw [flag, f, if_neg (by decide)]⟩
        · rw [if_neg early] at lock ⊢
          obtain ⟨h, n, m, f⟩ := mk_four_inj lock
          exact ⟨⟨h, n, m, by rw [flag, f, if_pos rfl]⟩, by rw [flag, f, if_neg (by decide)]⟩
      · rw [if_neg near] at lock ⊢
        obtain ⟨h, n, -, f⟩ := mk_four_inj lock
        exact ⟨⟨h, n⟩, by rw [flag, f, if_neg (by decide)]⟩
    · rw [judgement_locked locked] at lock
      by_cases wide : k.entry.unlockThreshold < e.natAbs
      · rw [if_pos wide] at lock ⊢
        by_cases first : r.towardLoss < 1
        · rw [if_pos first] at lock ⊢
          obtain ⟨h, -, m, f⟩ := mk_four_inj lock
          exact ⟨⟨h, m⟩, by rw [flag, f, if_neg (by decide)]⟩
        · rw [if_neg first] at lock ⊢
          obtain ⟨h, n, m, f⟩ := mk_four_inj lock
          exact ⟨⟨h, n, m, by rw [flag, f, if_pos rfl]⟩, by rw [flag, f, if_neg (by decide)]⟩
      · rw [if_neg wide] at lock ⊢
        obtain ⟨h, -, m, f⟩ := mk_four_inj lock
        exact ⟨⟨h, m⟩, by rw [flag, f, if_neg (by decide)]⟩

end Sys2Proof.Machine

/-! PROOFS. Echoes, delay and skew: what an arrival and a kept sample do to the measurement blocks (R68, R103, R104, R163 to R167). -/

namespace Sys2Proof.Machine

variable {s : State} {c : Fin 64} {p : Port}

/-! ### A kept RTT sample (R166, R167) -/

/-- The minimum of a path's run with one sample more (R166). -/
def Delay.least (d : Delay) (x : Nat) : Nat :=
  match d.runMin with
  | none => x
  | some m => min m x

/-- A circuit with the measurement block of one path replaced. -/
def Circuit.withDelay (k : Circuit) (p : Port) (d : Delay) : Circuit := { k with delay := k.delay.set p d }

theorem Circuit.withDelay_get_self (k : Circuit) (p : Port) : k.withDelay p (k.delay.get p) = k := by
  rw [Circuit.withDelay, show k.delay.set p (k.delay.get p) = k.delay by cases p <;> rfl]

/-- A path's block after a kept sample: the sixteenth completes the run and publishes its minimum (R166). -/
def Delay.rttKept (d : Delay) (x : Nat) : Delay :=
  if 15 ≤ d.runCount then { d with rtt := some (d.least x), runCount := 0, runMin := none } else d.keep x

/-- Whether a kept sample publishes an RTT above the circuit's limit (R167). -/
def Circuit.rttOver (k : Circuit) (p : Port) (x : Nat) : Bool :=
  decide (15 ≤ (k.delay.get p).runCount) && exceedsLimit ((k.delay.get p).least x) k.entry.rttLimit

theorem runMin_keep (d : Delay) (x : Nat) : (d.keep x).runMin = some (d.least x) := rfl

theorem Circuit.withDelay_withDelay (k : Circuit) (p : Port) (d e : Delay) : (k.withDelay p d).withDelay p e = k.withDelay p e := by
  cases p <;> rfl

theorem Circuit.withDelay_get (k : Circuit) (p : Port) (d : Delay) : (k.withDelay p d).delay.get p = d := Pair.get_set_self _ p d

theorem circuit_onDelay (s : State) (c : Fin 64) (p : Port) (f : Delay → Delay) :
    (s.onDelay c p f).circuit c = (s.circuit c).withDelay p (f ((s.circuit c).delay.get p)) := by
  rw [onDelay_eq, circuit_onCircuit_self]; rfl

theorem circuit_publishRtt (s : State) (c : Fin 64) (p : Port) (m : Nat) : (s.publishRtt c p m).circuit c
    = ((s.circuit c).withDelay p { (s.circuit c).delay.get p with rtt := some m, runCount := 0, runMin := none }).raisedIf
        (exceedsLimit m (s.circuit c).entry.rttLimit) .delayLimit (.path p) := by
  simp only [State.publishRtt, raiseCircuit_eq, circuit_raise_ite, circuit_onDelay]
  rfl

theorem circuit_keepRtt (s : State) (c : Fin 64) (p : Port) (x : Nat) : (s.keepRtt c p x).circuit c
    = ((s.circuit c).withDelay p (((s.circuit c).delay.get p).rttKept x)).raisedIf
        ((s.circuit c).rttOver p x) .delayLimit (.path p) := by
  have count : (((s.circuit c).delay.get p).keep x).runCount = ((s.circuit c).delay.get p).runCount + 1 := rfl
  simp only [State.keepRtt, count, runMin_keep]
  by_cases full : 15 ≤ ((s.circuit c).delay.get p).runCount
  · rw [if_pos (by omega), circuit_publishRtt, circuit_onDelay, Circuit.withDelay_get, Circuit.withDelay_withDelay]
    simp only [Circuit.rttOver, Delay.rttKept, full, decide_true, Bool.true_and, if_true, Option.getD_some]
    rfl
  · rw [if_neg (by omega), circuit_onDelay]
    simp only [Circuit.rttOver, Delay.rttKept, full, decide_false, Bool.false_and, if_false, Circuit.raisedIf_false]

/-! ### Echo fields (R163 to R165) -/

/-- The RTT sample that the echo fields of an arrival give: none when they are not taken (R163). -/
def Circuit.echoSample (k : Circuit) (p : Port) (echoTs capture : Ticks) (echoAge : Nat) : Option Nat :=
  if (k.delay.get p).lastEcho = some echoTs then none
  else rttSample k.packetizer.sendLog p echoTs capture echoAge

/-- A path's block after the echo fields of an arrival have been examined, with the sample they give (R163). -/
def Delay.echoTaken (d : Delay) (echoTs : Ticks) (sample : Option Nat) : Delay :=
  match sample with
  | none => { d with lastEcho := some echoTs }
  | some x => { d with lastEcho := some echoTs }.rttKept x

theorem circuit_examineEcho (s : State) (c : Fin 64) (p : Port) (echoTs capture : Ticks) (echoAge : Nat) :
    (s.examineEcho c p echoTs capture echoAge).circuit c
      = ((s.circuit c).withDelay p (((s.circuit c).delay.get p).echoTaken echoTs
          ((s.circuit c).echoSample p echoTs capture echoAge))).raisedIf
          (((s.circuit c).echoSample p echoTs capture echoAge).any (fun x => (s.circuit c).rttOver p x)) .delayLimit (.path p) := by
  unfold State.examineEcho Circuit.echoSample
  by_cases known : ((s.circuit c).delay.get p).lastEcho = some echoTs
  · rw [if_pos known, if_pos known, Delay.echoTaken, ← known]
    exact (Circuit.withDelay_get_self _ p).symm
  · rw [if_neg known, if_neg known]
    dsimp only
    rw [circuit_onDelay]
    have log : ((s.circuit c).withDelay p { (s.circuit c).delay.get p with lastEcho := some echoTs }).packetizer
        = (s.circuit c).packetizer := rfl
    rw [log]
    cases rttSample (s.circuit c).packetizer.sendLog p echoTs capture echoAge with
    | none => simp only [circuit_onDelay, Option.any_none, Circuit.raisedIf_false, Delay.echoTaken]
    | some x =>
      simp only [circuit_keepRtt, circuit_onDelay, Option.any_some, Delay.echoTaken, Circuit.withDelay_get,
        Circuit.withDelay_withDelay, Circuit.rttOver]
      rfl

/-- An echo gives the sample it names: the stamp is in the send log with the path's departure, the age is known and the delay is
positive (R164, R165). -/
theorem rttSample_eq_some {log : List SendLogEntry} {echoTs capture : Ticks} {echoAge m : Nat} :
    rttSample log p echoTs capture echoAge = some m
      ↔ echoAge ≠ 65535 ∧ ∃ lt, (log.find? (fun e => e.ts == echoTs)).bind (fun e => e.sent.get p) = some lt
        ∧ 0 < (capture - lt - BitVec.ofNat 32 echoAge).toInt ∧ m = (capture - lt - BitVec.ofNat 32 echoAge).toInt.toNat := by
  unfold rttSample
  cases log.find? (fun e => e.ts == echoTs) with
  | none => simp
  | some e =>
    simp only [Option.bind_some]
    cases e.sent.get p with
    | none => simp
    | some lt =>
      dsimp only
      by_cases unknown : echoAge = 65535
      · rw [if_pos unknown]; simp [unknown]
      · rw [if_neg unknown]
        simp only [Option.some.injEq, exists_eq_left', ne_eq, unknown, not_false_eq_true, true_and]
        generalize capture - lt - BitVec.ofNat 32 echoAge = v
        by_cases positive : 0 < v.toInt
        · have value : v.toInt.toNat = v.toNat := by
            have := v.isLt
            rw [BitVec.toInt_eq_toNat_cond] at positive ⊢
            split at positive <;> omega
          rw [if_pos positive]
          simp [positive, value, eq_comm]
        · rw [if_neg positive]
          simp [positive]

/-- The RTT sample an arrival gives, if any. -/
def Circuit.arrivalSample (k : Circuit) (p : Port) (x : Packet) (capture : Ticks) : Option Nat :=
  if x.echoed then k.echoSample p x.echoTs capture x.echoAge else none

theorem echoArrival_rest (d : Delay) (ts capture : Ticks) :
    d.echoArrival ts capture = { d with echo := (d.echoArrival ts capture).echo } := by
  unfold Delay.echoArrival
  split
  · split <;> rfl
  · rfl

theorem flags_raisedIf (k : Circuit) (b : Bool) (f g : CircuitFlag) (d : Detail) : (k.raisedIf b f d).flags[g.code.val]
    = if b = true ∧ g = f then some (k.flags[f.code.val].getD d) else k.flags[g.code.val] := by
  cases b with
  | false => simp [Circuit.raisedIf_false]
  | true =>
    rw [Circuit.raisedIf_true, Circuit.raised, raisedRow_circuitFlag]
    by_cases same : g = f
    · rw [if_pos same, if_pos ⟨rfl, same⟩, same]
    · rw [if_neg same, if_neg (fun h => same h.2)]

/-- A path's block after an arrival's mark (R163). -/
def Delay.marked (d : Delay) (x : Packet) (capture : Ticks) : Delay :=
  if Machine.marked x.seq then d.echoArrival x.ts capture else d

/-- The state after an arrival's fault flags and mark, before its echo fields are examined. -/
def State.faulted (s : State) (c : Fin 64) (p : Port) (x : Packet) (capture : Ticks) : State :=
  let s := if x.r then s.raiseCircuit c .remoteFault (.path p) else s
  let s := if x.l then s.raiseCircuit c .localFaultSeen (.path p) else s
  if Machine.marked x.seq then s.onDelay c p (fun d => d.echoArrival x.ts capture) else s

theorem faultAndEcho_eq (s : State) (c : Fin 64) (p : Port) (x : Packet) (capture : Ticks) :
    s.faultAndEcho c p x capture = if x.echoed then (s.faulted c p x capture).examineEcho c p x.echoTs capture x.echoAge
      else s.faulted c p x capture := rfl

theorem circuit_faulted (s : State) (c : Fin 64) (p : Port) (x : Packet) (capture : Ticks) :
    (s.faulted c p x capture).circuit c
      = (((s.circuit c).withDelay p (((s.circuit c).delay.get p).marked x capture)).raisedIf x.r .remoteFault
          (.path p)).raisedIf x.l .localFaultSeen (.path p) := by
  simp only [State.faulted, Delay.marked, raiseCircuit_eq]
  cases Machine.marked x.seq with
  | false => simp only [Bool.false_eq_true, if_false, circuit_raise_ite, Circuit.withDelay_get_self]
  | true =>
    simp only [if_true, circuit_onDelay, circuit_raise_ite]
    rfl

theorem marked_rest (d : Delay) (x : Packet) (capture : Ticks) :
    d.marked x capture = { d with echo := (d.marked x capture).echo } := by
  unfold Delay.marked
  split
  · exact echoArrival_rest _ _ _
  · rfl

/-- A path's block after an arrival's mark and echo fields (R163). -/
def Circuit.arrivalDelay (k : Circuit) (p : Port) (x : Packet) (capture : Ticks) : Delay :=
  if x.echoed then ((k.delay.get p).marked x capture).echoTaken x.echoTs (k.arrivalSample p x capture)
  else (k.delay.get p).marked x capture

/-- What an arrival's fault flags, mark and echo fields leave of its circuit (R68, R163 to R167). -/
theorem circuit_faultAndEcho (s : State) (c : Fin 64) (p : Port) (x : Packet) (capture : Ticks) :
    (s.faultAndEcho c p x capture).circuit c
      = ((((s.circuit c).withDelay p ((s.circuit c).arrivalDelay p x capture)).raisedIf x.r .remoteFault (.path p)).raisedIf x.l
          .localFaultSeen (.path p)).raisedIf (((s.circuit c).arrivalSample p x capture).any (fun m => (s.circuit c).rttOver p m))
          .delayLimit (.path p) := by
  have before := circuit_faulted s c p x capture
  have rest := marked_rest ((s.circuit c).delay.get p) x capture
  rw [faultAndEcho_eq]
  unfold Circuit.arrivalDelay Circuit.arrivalSample
  generalize ((s.circuit c).delay.get p).marked x capture = d at before rest ⊢
  generalize s.faulted c p x capture = v at before ⊢
  cases x.echoed with
  | false =>
    rw [if_neg (by decide), if_neg (by decide), before]
    rfl
  | true =>
    rw [if_pos rfl, if_pos rfl, if_pos rfl, circuit_examineEcho, before]
    have held : (((((s.circuit c).withDelay p d).raisedIf x.r .remoteFault (.path p)).raisedIf x.l .localFaultSeen
        (.path p)).delay.get p) = d := Circuit.withDelay_get _ p d
    have sample : ((((s.circuit c).withDelay p d).raisedIf x.r .remoteFault (.path p)).raisedIf x.l .localFaultSeen
        (.path p)).echoSample p x.echoTs capture x.echoAge = (s.circuit c).echoSample p x.echoTs capture x.echoAge := by
      simp only [Circuit.echoSample, held]
      rw [rest]
      rfl
    have exceeds (m : Nat) : ((((s.circuit c).withDelay p d).raisedIf x.r .remoteFault (.path p)).raisedIf x.l .localFaultSeen
        (.path p)).rttOver p m = (s.circuit c).rttOver p m := by
      simp only [Circuit.rttOver, held]
      rw [rest]
      rfl
    rw [sample, held]
    simp only [exceeds]
    cases p <;> rfl

/-! ### A skew sample (R103, R104) -/

theorem exceedsLimit_iff (value us : Nat) : exceedsLimit value us = true ↔ us ≠ 0 ∧ us * 1024 / 125 < value := by
  rw [exceedsLimit, limitTicks, Bool.and_eq_true, bne_iff_ne, decide_eq_true_iff]

theorem circuit_skewSample (s : State) (c : Fin 64) (x : Int) : (s.skewSample c x).circuit c
    = ({ s.circuit c with merge := { (s.circuit c).merge with
          skewSamples := pushBounded 8 (s.circuit c).merge.skewSamples x } } : Circuit).raisedIf
        (exceedsLimit ((pushBounded 8 (s.circuit c).merge.skewSamples x).sum.tdiv
          (pushBounded 8 (s.circuit c).merge.skewSamples x).length).natAbs (s.circuit c).entry.skewLimit) .skewLimit .none := by
  have estimate : meanTowardZero (pushBounded 8 (s.circuit c).merge.skewSamples x)
      = some ((pushBounded 8 (s.circuit c).merge.skewSamples x).sum.tdiv
          (pushBounded 8 (s.circuit c).merge.skewSamples x).length) := by
    have filled := pushBounded_ne_nil (n := 8) (l := (s.circuit c).merge.skewSamples) x (by decide)
    rw [meanTowardZero, if_neg (by simpa using filled)]
  simp only [State.skewSample, Merge.skewEstimate, onMerge_eq, circuit_onCircuit_self, estimate, raiseCircuit_eq,
    circuit_raise_ite]

theorem flag_of_raisedIf3 {u : State} {k : Circuit} {a b o : Bool} {d : Detail} (h : u.circuit c
      = ((k.raisedIf a .remoteFault d).raisedIf b .localFaultSeen d).raisedIf o .delayLimit d)
    (flags : k.flags = (s.circuit c).flags) :
    u.flag (.circuit c .remoteFault) = (if a then s.flagAfter (.circuit c .remoteFault) d else s.flag (.circuit c .remoteFault))
    ∧ u.flag (.circuit c .localFaultSeen)
      = (if b then s.flagAfter (.circuit c .localFaultSeen) d else s.flag (.circuit c .localFaultSeen))
    ∧ u.flag (.circuit c .delayLimit)
      = (if o then s.flagAfter (.circuit c .delayLimit) d else s.flag (.circuit c .delayLimit)) := by
  simp only [State.flag, State.flagAfter, h, flags_raisedIf, flags]
  simp

theorem rttKept_echo (d : Delay) (x : Nat) : (d.rttKept x).echo = d.echo ∧ (d.rttKept x).lastEcho = d.lastEcho := by
  unfold Delay.rttKept
  split <;> exact ⟨rfl, rfl⟩

/-- The echo state and the last echo taken pass by a kept sample, and do not act on it (R166). -/
theorem rttKept_withEcho (d : Delay) (e : Option Echo) (l : Option Ticks) (x : Nat) :
    ({ d with echo := e, lastEcho := l } : Delay).rttKept x = { d.rttKept x with echo := e, lastEcho := l } := by
  simp only [Delay.rttKept]
  split <;> rfl

theorem echoTaken_echo (d : Delay) (echoTs : Ticks) (sample : Option Nat) :
    (d.echoTaken echoTs sample).echo = d.echo ∧ (d.echoTaken echoTs sample).lastEcho = some echoTs := by
  cases sample with
  | none => exact ⟨rfl, rfl⟩
  | some x => exact rttKept_echo _ x

theorem marked_echo_fresh {d : Delay} {x : Packet} (capture : Ticks) (mark : x.seq.toNat % 64 = 0)
    (fresh : ∀ e, d.echo = some e → e.ts ≠ x.ts) : (d.marked x capture).echo = some ⟨x.ts, capture⟩ := by
  have isMarked : Machine.marked x.seq = true := by simpa [Machine.marked] using mark
  rw [Delay.marked, if_pos isMarked]
  cases e : d.echo with
  | none => simp only [Delay.echoArrival, e]
  | some y => simp only [Delay.echoArrival, e, if_neg (fresh y e)]

theorem marked_echo_held {d : Delay} {x : Packet} (capture : Ticks)
    (stays : x.seq.toNat % 64 ≠ 0 ∨ ∃ e, d.echo = some e ∧ e.ts = x.ts) : (d.marked x capture).echo = d.echo := by
  unfold Delay.marked
  split
  · next mark =>
    have isMark : x.seq.toNat % 64 = 0 := by simpa [Machine.marked] using mark
    obtain ⟨e, held, same⟩ := stays.resolve_left (not_not.mpr isMark)
    simp only [Delay.echoArrival, held, if_pos same]
  · rfl

/-- An arrival gives the sample of echo fields that are taken (R163). -/
theorem arrivalSample_eq_some {k : Circuit} {x : Packet} {capture : Ticks} {m : Nat} :
    k.arrivalSample p x capture = some m ↔ (x.echoed = true ∧ (k.delay.get p).lastEcho ≠ some x.echoTs)
      ∧ rttSample k.packetizer.sendLog p x.echoTs capture x.echoAge = some m := by
  unfold Circuit.arrivalSample Circuit.echoSample
  by_cases echoed : x.echoed = true
  · by_cases known : (k.delay.get p).lastEcho = some x.echoTs
    · simp [echoed, known]
    · simp [echoed, known]
  · simp [echoed]

theorem arrivalDelay_echo (k : Circuit) (p : Port) (x : Packet) (capture : Ticks) :
    (k.arrivalDelay p x capture).echo = ((k.delay.get p).marked x capture).echo := by
  unfold Circuit.arrivalDelay
  split
  · exact (echoTaken_echo _ _ _).1
  · rfl

theorem arrivalDelay_lastEcho (k : Circuit) (p : Port) (x : Packet) (capture : Ticks) :
    (k.arrivalDelay p x capture).lastEcho = if x.echoed then some x.echoTs else (k.delay.get p).lastEcho := by
  unfold Circuit.arrivalDelay
  split
  · exact (echoTaken_echo _ _ _).2
  · rw [marked_rest]

/-- An arrival that gives no sample leaves its path's run and RTT. -/
theorem arrivalDelay_of_none {k : Circuit} {x : Packet} {capture : Ticks} (silent : k.arrivalSample p x capture = none) :
    k.arrivalDelay p x capture = { k.delay.get p with
      echo := (k.arrivalDelay p x capture).echo, lastEcho := (k.arrivalDelay p x capture).lastEcho } := by
  unfold Circuit.arrivalDelay
  rw [silent, marked_rest]
  split <;> rfl

/-- An arrival's sample enters its path's run as any kept sample does (R166). -/
theorem arrivalDelay_of_some {k : Circuit} {x : Packet} {capture : Ticks} {m : Nat} (sampled : k.arrivalSample p x capture = some m) :
    k.arrivalDelay p x capture = { (k.delay.get p).rttKept m with
      echo := (k.arrivalDelay p x capture).echo, lastEcho := (k.arrivalDelay p x capture).lastEcho } := by
  have echoed := (arrivalSample_eq_some.mp sampled).1.1
  unfold Circuit.arrivalDelay
  have taken : ({ (k.delay.get p).marked x capture with lastEcho := some x.echoTs } : Delay)
      = { k.delay.get p with echo := ((k.delay.get p).marked x capture).echo, lastEcho := some x.echoTs } := by
    rw [marked_rest]
  rw [sampled, if_pos echoed, Delay.echoTaken, taken, rttKept_withEcho]

/-- Settles O31, each stage from the circuit it leaves. -/
theorem echoesDelayAndSkewAreMeasured : Obligations.EchoesDelayAndSkewAreMeasured := by
  intro s c
  refine ⟨fun p x capture => ?_, fun p x => ?_, fun x => ?_⟩
  · intro k d u v fresh sent value kept
    have circuit := circuit_faultAndEcho s c p x capture
    obtain ⟨remote, localSeen, limit⟩ := flag_of_raisedIf3 (s := s) circuit rfl
    have block : v = k.arrivalDelay p x capture := by
      show ((s.faultAndEcho c p x capture).circuit c).delay.get p = _
      rw [circuit]; exact Circuit.withDelay_get _ _ _
    have keptSample (m : Nat) : kept m ↔ k.arrivalSample p x capture = some m := by
      rw [arrivalSample_eq_some, rttSample_eq_some]
    have lastEcho := arrivalDelay_lastEcho k p x capture
    have echo := arrivalDelay_echo k p x capture
    rw [← block] at lastEcho echo
    refine ⟨faultAndEcho_only s c p x capture, ?_, remote, localSeen, fun mark new => ?_, fun stays => ?_, fun taken => ?_,
      fun stale => ?_, fun unkept => ?_, fun m keeps => ?_⟩
    · rw [block]
      show (s.faultAndEcho c p x capture).circuit c = _
      rw [circuit]; rfl
    · rw [echo]; exact marked_echo_fresh capture mark new
    · rw [echo]; exact marked_echo_held capture stays
    · rw [lastEcho, if_pos taken.1]
    · rw [lastEcho]
      split
      · next echoed => exact (not_not.mp (fun new => stale ⟨echoed, new⟩)).symm
      · rfl
    · have silent : k.arrivalSample p x capture = none := Option.eq_none_iff_forall_ne_some.mpr
        (fun m e => unkept m ((keptSample m).mpr e))
      have form := arrivalDelay_of_none silent
      rw [← block] at form
      refine ⟨by rw [form], by rw [form], by rw [form], ?_⟩
      rw [show (s.circuit c).arrivalSample p x capture = none from silent] at limit
      exact limit
    · have sample := (keptSample m).mp keeps
      have form := arrivalDelay_of_some sample
      have counted := circuit_keepRtt s c p m
      rw [← block] at form
      rw [show (s.circuit c).arrivalSample p x capture = some m from sample] at limit
      refine ⟨?_, ?_⟩
      · rw [counted, Circuit.raisedIf_delay, Circuit.withDelay_get]
        exact form
      · rw [limit, flag_circuit_of_raisedIf counted rfl]
        simp only [Option.any_some, and_true]
  · intro d least u v
    have circuit := circuit_keepRtt s c p x
    have block : v = d.rttKept x := by
      show ((s.keepRtt c p x).circuit c).delay.get p = _
      rw [circuit]; exact Circuit.withDelay_get _ _ _
    have flag := flag_circuit_of_raisedIf (s := s) circuit rfl .delayLimit
    obtain ⟨echo, last⟩ := rttKept_echo d x
    refine ⟨keepRtt_only s c p x, by rw [block, echo], by rw [block, last], ?_, fun short => ?_, fun full => ?_⟩
    · show ((s.keepRtt c p x).circuit c).delay.get (otherPort p) = _
      rw [circuit]
      exact Pair.get_set_of_ne _ _ (by cases p <;> decide)
    · have short_run : ¬15 ≤ ((s.circuit c).delay.get p).runCount := by show ¬15 ≤ d.runCount; omega
      rw [block, Delay.rttKept, if_neg short_run]
      refine ⟨rfl, rfl, rfl, ?_⟩
      rw [flag, Circuit.rttOver]
      simp only [short_run, decide_false, Bool.false_and, Bool.false_eq_true, false_and, if_false]
    · have done : 15 ≤ ((s.circuit c).delay.get p).runCount := full
      rw [block, Delay.rttKept, if_pos done]
      refine ⟨rfl, rfl, rfl, ?_⟩
      rw [flag, Circuit.rttOver]
      simp only [done, decide_true, Bool.true_and, exceedsLimit_iff, and_true]
      rfl
  · intro u l
    have circuit := circuit_skewSample s c x
    refine ⟨by rw [circuit]; rfl, skewSample_only s c x, ?_⟩
    rw [flag_circuit_of_raisedIf circuit rfl]
    simp only [exceedsLimit_iff, and_true]
    rfl

end Sys2Proof.Machine

/-! PROOFS. What leaves a trunk port: copies, responses and the end of a sending (R79 to R81), and the copies a completed packet
makes (R75 to R78). -/

namespace Sys2Proof.Machine

variable {s : State} {c : Fin 64} {p : Port}

/-! ### Departures (R79 to R81) -/

theorem ready_of {k : PortState} (up : k.link = .up) (free : k.sending = none) : k.ready = true := by
  simp [PortState.ready, up, free]

theorem exec_copyDeparture {x : Copy} {rest : List Copy} (up : (s.port p).link = .up) (free : (s.port p).sending = none)
    (queue : (s.port p).circuitQueue = x :: rest) : exec (.copyDeparture p) s = .next (s.departCopy p x rest) := by
  show execCopyDeparture p s = _
  simp only [execCopyDeparture, ready_of up free, if_true, queue]

theorem exec_responseDeparture {x : Response} {rest : List Response} (up : (s.port p).link = .up)
    (free : (s.port p).sending = none) (empty : (s.port p).circuitQueue = []) (queue : (s.port p).responseQueue = x :: rest) :
    exec (.responseDeparture p) s
      = .next (s.onPort p (fun k => { k with responseQueue := rest, sending := some (responseFrame s p x) })) := by
  show execResponseDeparture p s = _
  simp only [execResponseDeparture, ready_of up free, empty, List.isEmpty_nil, Bool.and_self, if_true, queue]

/-- Settles O18. -/
theorem responseDepartsAndSendingEnds : Obligations.ResponseDepartsAndSendingEnds := by
  intro p s
  refine ⟨fun x rest up free empty queue => ?_, _, rfl, .onPort s p _ rfl, rfl, rfl, by simp⟩
  refine ⟨_, exec_responseDeparture up free empty queue, .onPort s p _ rfl, rfl, rfl, by simp, ?_⟩
  simp only [responseFrame, ethernetFrame, padFrame, List.append_assoc]
  rw [← List.append_assoc, List.take_left' (by simp)]

theorem marked_iff (q : SeqNo) : marked q = true ↔ q.toNat % 64 = 0 := by simp [marked]

/-- A circuit one of whose copies has departed (R81). -/
def Circuit.copySent (k : Circuit) (x : Copy) (p : Port) (lt : Ticks) : Circuit :=
  { k with
    counters := bump k.counters (CircuitCounter.sent p).place
    packetizer := { k.packetizer with
      sendLog := if x.seq.toNat % 64 = 0 then recordSent k.packetizer.sendLog x.ts p lt else k.packetizer.sendLog } }

/-- Two changes of one circuit are one. -/
theorem onCircuit_onCircuit (s : State) (c : Fin 64) (f g : Circuit → Circuit) :
    (s.onCircuit c f).onCircuit c g = s.onCircuit c (fun k => g (f k)) := by
  simp [State.onCircuit, State.circuit]

theorem departCopy_eq (s : State) (p : Port) (x : Copy) (rest : List Copy) : s.departCopy p x rest
    = (s.onPort p (fun k => { k with circuitQueue := rest, sending := some (copyFrame s p x) })).onCircuit x.circuit
        (fun k => k.copySent x p s.lt) := by
  unfold State.departCopy
  by_cases mark : x.seq.toNat % 64 = 0
  · simp only [(marked_iff _).mpr mark, if_true, count_eq, onPacketizer_eq, onCircuit_onCircuit, Circuit.copySent, mark]
    rfl
  · have plain : marked x.seq = false := by simpa [marked] using mark
    simp only [plain, Bool.false_eq_true, if_false, count_eq, Circuit.copySent, mark]

/-- Settles O16. -/
theorem copyDepartsFromTheQueueHead : Obligations.CopyDepartsFromTheQueueHead := by
  intro p x rest s up free queue
  have other : otherPort p ≠ p := by cases p <;> decide
  refine ⟨_, exec_copyDeparture up free queue, ?_⟩
  rw [departCopy_eq]
  refine ⟨by simp, ?_, rfl, ⟨rfl, rfl, rfl, rfl⟩, rfl, rfl, fun d apart => ?_, ?_, ?_⟩
  · rw [port_onCircuit, port_onPort_of_ne _ _ other]
  · rw [circuit_onCircuit_of_ne _ _ apart, circuit_onPort]
  · rw [circuit_onCircuit_self]
    exact get_bump_self _ _
  · rw [circuit_onCircuit_self]
    rfl

/-! ### A completed packet (R75 to R78) -/

/-- The copy a completed packet makes for a path with the given record. -/
def Circuit.copyOf (k : Circuit) (c : Fin 64) (a : Assembly) (record : PathRecord) : Copy :=
  ⟨c, record, k.packetizer.nextSeq, a.ts, k.entry.frames, a.faulted, k.control.state != .playing, a.octets⟩

/-- A circuit whose packet under assembly is complete (R75, R77). -/
def Circuit.completed (k : Circuit) (a : Assembly) : Circuit :=
  { k with packetizer := { k.packetizer with
      nextSeq := k.packetizer.nextSeq + 1, assembly := none
      sendLog := if marked k.packetizer.nextSeq then pushBounded 32 k.packetizer.sendLog ⟨a.ts, ⟨none, none⟩⟩
        else k.packetizer.sendLog } }

theorem completePacket_eq (s : State) (c : Fin 64) (a : Assembly) : s.completePacket c a
    = ((s.onCircuit c (fun k => k.completed a)).makeCopy c a (s.circuit c).packetizer.nextSeq (flagR (s.circuit c).control.state)
        .A).makeCopy c a (s.circuit c).packetizer.nextSeq (flagR (s.circuit c).control.state) .B := by
  have form : s.onPacketizer c (fun z => { z with
        nextSeq := z.nextSeq + 1, assembly := none
        sendLog := if marked (s.circuit c).packetizer.nextSeq then
            pushBounded 32 (s.circuit c).packetizer.sendLog ⟨a.ts, ⟨none, none⟩⟩ else (s.circuit c).packetizer.sendLog })
      = s.onCircuit c (fun k => k.completed a) := onCircuit_congr s c rfl
  rw [← form]
  rfl

/-- What the copy of one path leaves alone, told for the other path: its port, its count, and the circuit's other blocks. -/
structure OtherPathKept (s u : State) (c : Fin 64) (p : Port) : Prop where
  blocks  : u.circuit c = { s.circuit c with counters := (u.circuit c).counters }
  notSent : (u.circuit c).counters.get (CircuitCounter.notSent p).place
              = (s.circuit c).counters.get (CircuitCounter.notSent p).place
  port    : u.port p = s.port p

theorem OtherPathKept.refl (s : State) (c : Fin 64) (p : Port) : OtherPathKept s s c p := ⟨rfl, rfl, rfl⟩

theorem makeCopy_none {a : Assembly} {seq : SeqNo} {r : Bool} (absent : (s.circuit c).entry.paths.get p = none) :
    s.makeCopy c a seq r p = s := by simp only [State.makeCopy, absent]

theorem makeCopy_down {a : Assembly} {seq : SeqNo} {r : Bool} {record : PathRecord}
    (present : (s.circuit c).entry.paths.get p = some record) (down : (s.port p).link = .down) :
    s.makeCopy c a seq r p = s.count c (.notSent p) := by simp only [State.makeCopy, present, down]

theorem makeCopy_up {a : Assembly} {seq : SeqNo} {r : Bool} {record : PathRecord}
    (present : (s.circuit c).entry.paths.get p = some record) (up : (s.port p).link = .up) :
    s.makeCopy c a seq r p
      = s.queueCopy p ⟨c, record, seq, a.ts, (s.circuit c).entry.frames, a.faulted, r, a.octets⟩ := by
  simp only [State.makeCopy, present, up]

theorem makeCopy_other (s : State) (c : Fin 64) (a : Assembly) (seq : SeqNo) (r : Bool) {p q : Port} (apart : p ≠ q) :
    OtherPathKept s (s.makeCopy c a seq r q) c p := by
  rcases makeCopy_cases s q c a seq r with e | e | ⟨record, _, _, e⟩ <;> rw [e]
  · exact .refl s c p
  · have place : (CircuitCounter.notSent p).place ≠ (CircuitCounter.notSent q).place := by
      intro h; cases CircuitCounter.place_injective h; exact apart rfl
    rw [count_eq]
    exact ⟨by rw [circuit_onCircuit_self], by rw [circuit_onCircuit_self]; exact get_bump_of_ne _ place, by simp⟩
  · have only := queueCopy_only s q ⟨c, record, seq, a.ts, (s.circuit c).entry.frames, a.faulted, r, a.octets⟩
    have other : p = otherPort q := by cases p <;> cases q <;> first | rfl | exact absurd rfl apart
    have circuit := State.circuit_congr only.circuits c
    exact ⟨by rw [circuit], by rw [circuit], by rw [other]; exact only.other⟩

/-- Only circuit `c` and the ports have changed. -/
def OnlyCircuitAndPorts (s u : State) (c : Fin 64) : Prop := OnlyCircuit s { u with ports := s.ports } c

theorem OnlyCircuitAndPorts.trans {s u w : State} (h : OnlyCircuitAndPorts s u c) (k : OnlyCircuitAndPorts u w c) :
    OnlyCircuitAndPorts s w c where
  run := ⟨k.run.lt.trans h.run.lt, k.run.answer.trans h.run.answer, k.run.draws.trans h.run.draws,
    k.run.pending.trans h.run.pending⟩
  events := h.events.trans k.events
  ports := rfl
  others := fun d apart => (k.others d apart).trans (h.others d apart)
  entry := k.entry.trans h.entry
  lines := fun t => ⟨(k.lines t).1.trans (h.lines t).1, (k.lines t).2.1.trans (h.lines t).2.1,
    (k.lines t).2.2.trans (h.lines t).2.2⟩
  tributaries := fun t other => by
    have entry : (u.circuit c).entry = (s.circuit c).entry := h.entry
    have names : (u.circuit c).entry.tributary ≠ some t := by rw [entry]; exact other
    exact (k.tributaries t names).trans (h.tributaries t other)

theorem OnlyCircuit.andPorts {s u : State} (h : OnlyCircuit s u c) : OnlyCircuitAndPorts s u c := by
  have same : ({ u with ports := s.ports } : State) = u := by rw [← h.ports]
  rw [OnlyCircuitAndPorts, same]
  exact h

theorem OnlyPort.andCircuit {s u : State} (h : OnlyPort s u p) (c : Fin 64) : OnlyCircuitAndPorts s u c :=
  ⟨⟨h.run.lt, h.run.answer, h.run.draws, h.run.pending⟩, h.events, rfl, fun d _ => State.circuit_congr h.circuits d,
    by rw [show ({ u with ports := s.ports } : State).circuit c = u.circuit c from rfl, State.circuit_congr h.circuits],
    fun t => by
      rw [show ({ u with ports := s.ports } : State).tributary t = u.tributary t from rfl, State.tributary_congr h.tributaries]
      exact ⟨rfl, rfl, rfl⟩,
    fun t _ => State.tributary_congr h.tributaries t⟩

theorem makeCopy_only (s : State) (c : Fin 64) (a : Assembly) (seq : SeqNo) (r : Bool) (q : Port) :
    OnlyCircuitAndPorts s (s.makeCopy c a seq r q) c := by
  rcases makeCopy_cases s q c a seq r with e | e | ⟨record, _, _, e⟩ <;> rw [e]
  · exact (OnlyCircuit.refl s c).andPorts
  · exact ((OnlyCircuit.refl s c).thenCount _).andPorts
  · exact (queueCopy_only s q _).andCircuit c

theorem makeCopy_blocks (s : State) (c : Fin 64) (a : Assembly) (seq : SeqNo) (r : Bool) (q : Port) :
    (s.makeCopy c a seq r q).circuit c
      = { s.circuit c with counters := ((s.makeCopy c a seq r q).circuit c).counters } := by
  rcases makeCopy_cases s q c a seq r with e | e | ⟨record, _, _, e⟩ <;> rw [e]
  · rw [count_eq, circuit_onCircuit_self]
  · rw [State.circuit_congr (queueCopy_only s q _).circuits c]

theorem flag_port_of_raised {u : State} {k : PortState} {f : PortFlag} {d : Detail} (h : u.port p = k.raised f d)
    (flags : k.flags = (s.port p).flags) (g : PortFlag) :
    u.flag (.port p g) = if g = f then s.flagAfter (.port p f) d else s.flag (.port p g) := by
  have same : g.code = f.code ↔ g = f := by
    refine ⟨fun e => ?_, fun e => by rw [e]⟩
    cases f <;> cases g <;> first | rfl | cases e
  simp only [State.flag, State.flagAfter, h, PortState.raised, getElem_raisedRow, flags, same]
  split
  · next e => rw [e]
  · rfl

/-- A port after a copy has been brought to its circuit queue: at the tail, or dropped at a full one (R78). -/
def PortState.offered (k : PortState) (x : Copy) : PortState :=
  if k.circuitQueue.length < 64 then { k with circuitQueue := k.circuitQueue ++ [x] }
  else ({ k with counters := bump k.counters PortCounter.txDrops.place } : PortState).raised .txDrop (.circuit x.circuit)

theorem port_queueCopy (s : State) (p : Port) (x : Copy) : (s.queueCopy p x).port p = (s.port p).offered x := by
  unfold State.queueCopy PortState.offered
  split
  · rw [port_onPort_self]
  · rw [raisePort_eq, port_raise_self, countPort_eq, port_onPort_self]

theorem completePacket_only (s : State) (c : Fin 64) (a : Assembly) : OnlyCircuitAndPorts s (s.completePacket c a) c := by
  rw [completePacket_eq]
  exact ((OnlyCircuit.onCircuit s c _ rfl).andPorts.trans (makeCopy_only _ c a _ _ .A)).trans (makeCopy_only _ c a _ _ .B)

theorem circuit_completePacket (s : State) (c : Fin 64) (a : Assembly) : (s.completePacket c a).circuit c
    = { (s.circuit c).completed a with counters := ((s.completePacket c a).circuit c).counters } := by
  rw [completePacket_eq, makeCopy_blocks, makeCopy_blocks, circuit_onCircuit_self]

/-- Each path's copy is made on a state that differs in nothing it asks, and what is made after it leaves it alone (log 27). -/
theorem completePacket_path (s : State) (c : Fin 64) (a : Assembly) (p : Port) :
    ∃ v : State, v.port p = s.port p ∧ (v.circuit c).entry = (s.circuit c).entry
      ∧ (v.circuit c).counters.get (CircuitCounter.notSent p).place = (s.circuit c).counters.get (CircuitCounter.notSent p).place
      ∧ OtherPathKept (v.makeCopy c a (s.circuit c).packetizer.nextSeq (flagR (s.circuit c).control.state) p)
          (s.completePacket c a) c p := by
  have own : OtherPathKept (s.onCircuit c (fun k => k.completed a)) (s.onCircuit c (fun k => k.completed a)) c p := .refl _ c p
  have ofKept {v : State} (before : OtherPathKept (s.onCircuit c (fun k => k.completed a)) v c p) :
      v.port p = s.port p ∧ (v.circuit c).entry = (s.circuit c).entry
      ∧ (v.circuit c).counters.get (CircuitCounter.notSent p).place
        = (s.circuit c).counters.get (CircuitCounter.notSent p).place := by
    refine ⟨by rw [before.port, port_onCircuit], ?_, ?_⟩
    · rw [before.blocks, circuit_onCircuit_self]; rfl
    · rw [before.notSent, circuit_onCircuit_self]; rfl
  rw [completePacket_eq]
  cases p with
  | A =>
    obtain ⟨port, entry, count⟩ := ofKept own
    exact ⟨_, port, entry, count, makeCopy_other _ c a _ _ (by decide)⟩
  | B =>
    obtain ⟨port, entry, count⟩ := ofKept (makeCopy_other _ c a _ _ (q := .A) (by decide))
    exact ⟨_, port, entry, count, .refl _ c _⟩

/-- A completed packet on a path without a record (R76). -/
theorem completePacket_absent {a : Assembly} (absent : (s.circuit c).entry.paths.get p = none) :
    (s.completePacket c a).port p = s.port p
    ∧ ((s.completePacket c a).circuit c).counters.get (CircuitCounter.notSent p).place
      = (s.circuit c).counters.get (CircuitCounter.notSent p).place := by
  obtain ⟨v, port, entry, count, after⟩ := completePacket_path s c a p
  rw [makeCopy_none (by rw [entry]; exact absent)] at after
  exact ⟨after.port.trans port, after.notSent.trans count⟩

/-- A completed packet on a path whose link is DOWN (R76). -/
theorem completePacket_down {a : Assembly} {record : PathRecord} (present : (s.circuit c).entry.paths.get p = some record)
    (down : (s.port p).link = .down) : (s.completePacket c a).port p = s.port p
    ∧ ((s.completePacket c a).circuit c).counters.get (CircuitCounter.notSent p).place
      = countUp ((s.circuit c).counters.get (CircuitCounter.notSent p).place) := by
  obtain ⟨v, port, entry, count, after⟩ := completePacket_path s c a p
  rw [makeCopy_down (by rw [entry]; exact present) (by rw [port]; exact down), count_eq] at after
  refine ⟨after.port.trans (by rw [port_onCircuit, port]), after.notSent.trans ?_⟩
  rw [circuit_onCircuit_self, get_bump_self, count]

/-- A completed packet on a path whose link is UP (R76, R78). -/
theorem completePacket_up {a : Assembly} {record : PathRecord} (present : (s.circuit c).entry.paths.get p = some record)
    (up : (s.port p).link = .up) : (s.completePacket c a).port p = (s.port p).offered ((s.circuit c).copyOf c a record)
    ∧ ((s.completePacket c a).circuit c).counters.get (CircuitCounter.notSent p).place
      = (s.circuit c).counters.get (CircuitCounter.notSent p).place := by
  obtain ⟨v, port, entry, count, after⟩ := completePacket_path s c a p
  rw [makeCopy_up (by rw [entry]; exact present) (by rw [port]; exact up), entry] at after
  refine ⟨after.port.trans (by rw [port_queueCopy, port]; rfl), after.notSent.trans ?_⟩
  rw [State.circuit_congr (queueCopy_only v p _).circuits c, count]

/-- Settles O15, path by path. -/
theorem completedPacketMakesItsCopies : Obligations.CompletedPacketMakesItsCopies := by
  intro s c a p k u dropped notSent
  have kept : u.circuit c = { (s.circuit c).completed a with counters := (u.circuit c).counters } := circuit_completePacket s c a
  refine ⟨by rw [kept]; rfl, by rw [kept]; rfl, completePacket_only s c a, ?_⟩
  split
  · next absent => exact completePacket_absent absent
  · next record present down => exact completePacket_down present down
  · next record present up =>
    obtain ⟨port, count⟩ := completePacket_up (a := a) present up
    refine ⟨count, ?_⟩
    have atPort : u.port p = (s.port p).offered (k.copyOf c a record) := port
    unfold PortState.offered at atPort
    split
    · next room =>
      rw [atPort, if_pos room]
      rfl
    · next full =>
      rw [if_neg full] at atPort
      refine ⟨by rw [atPort]; rfl, by rw [atPort]; exact get_bump_self _ _, ?_⟩
      rw [flag_port_of_raised (s := s) atPort rfl, if_pos rfl]
      rfl

end Sys2Proof.Machine

/-! PROOFS. The frame a copy departs as, read back (R186 to R189). -/

namespace Sys2Proof.Machine

/-! ### Numbers inside a list of octets -/

/-- A number read where its octets stand, behind what precedes them. -/
theorem numberAt_here (front back : List Byte) (n v : Nat) (small : v < 256 ^ n) :
    numberAt (front ++ (octets n v ++ back)) front.length n = v := by
  rw [← List.append_assoc, numberAt_append rfl, Nat.mod_eq_of_lt small]

/-- A number read behind a given number of octets lies in what follows them. -/
theorem numberAt_skip (front back : List Byte) (offset n : Nat) :
    numberAt (front ++ back) (front.length + offset) n = numberAt back offset n := by
  simp only [numberAt, List.drop_append, Nat.add_sub_cancel_left]
  rw [List.drop_eq_nil_of_le (Nat.le_add_right _ _), List.nil_append]

theorem numberAt_skip_octets (m v : Nat) (back : List Byte) (offset n : Nat) (later : m ≤ offset) :
    numberAt (octets m v ++ back) offset n = numberAt back (offset - m) n := by
  have step := numberAt_skip (octets m v) back (offset - m) n
  rwa [length_octets, Nat.add_sub_cancel' later] at step

theorem drop_octets (m v : Nat) (back : List Byte) (n : Nat) (later : m ≤ n) :
    (octets m v ++ back).drop n = back.drop (n - m) := by
  rw [List.drop_append, List.drop_eq_nil_of_le (by simpa using later), length_octets, List.nil_append]

theorem numberAt_octets (n v : Nat) (back : List Byte) : numberAt (octets n v ++ back) 0 n = v % 256 ^ n :=
  numberAt_append (front := []) rfl

/-! ### A circuit packet's octets (R188, R189) -/

/-- The flags octet of a circuit packet names its four flags (R188). -/
theorem packetFlags_bits (l r : Bool) (p : Port) (e : Bool) :
    (BitVec.ofNat 8 (packetFlags l r p e)).getLsbD 7 = l ∧ (BitVec.ofNat 8 (packetFlags l r p e)).getLsbD 6 = r
    ∧ (if (BitVec.ofNat 8 (packetFlags l r p e)).getLsbD 5 then Port.B else Port.A) = p
    ∧ (BitVec.ofNat 8 (packetFlags l r p e)).getLsbD 4 = e := by
  cases p <;> revert l r e <;> decide

theorem octets_one (v : Nat) : octets 1 v = [BitVec.ofNat 8 v] := by simp [octets]

/-- The echo TS and the echo age on the wire: 0 when E is clear (R80). -/
def echoOnWire (e : Option (Ticks × Nat)) : Nat × Nat := (e.map (fun v => (v.1.toNat, v.2))).getD (0, 0)

/-- A circuit packet's octets with what follows them, in the order they stand. -/
theorem packetOctets_append (x : Copy) (p : Port) (e : Option (Ticks × Nat)) (pad : List Byte) : packetOctets x p e ++ pad
    = octets 1 1 ++ (octets 1 1 ++ (octets 2 x.record.outLabel ++ (octets 1 (packetFlags x.l x.r p e.isSome)
      ++ (octets 1 x.frames ++ (octets 2 x.seq.toNat ++ (octets 4 x.ts.toNat ++ (octets 4 (echoOnWire e).1
      ++ (octets 2 (echoOnWire e).2 ++ (octets 2 x.payload.length ++ (x.payload ++ pad)))))))))) := by
  cases e <;> simp only [packetOctets, List.append_assoc] <;> rfl

/-- The fields of the octets of a circuit packet (R188). -/
theorem readPacket_packetOctets (x : Copy) (p : Port) (e : Option (Ticks × Nat)) (pad : List Byte)
    (frames : x.frames < 256) (size : x.payload.length < 65536) (age : (echoOnWire e).2 < 65536) :
    readPacket (packetOctets x p e ++ pad)
      = ⟨x.l, x.r, p, e.isSome, x.frames, x.seq, x.ts, BitVec.ofNat 32 (echoOnWire e).1, (echoOnWire e).2, x.payload.length,
          x.payload ++ pad⟩ := by
  obtain ⟨l, r, path, echoed⟩ := packetFlags_bits x.l x.r p e.isSome
  have flags : (packetOctets x p e ++ pad).getD 4 0 = BitVec.ofNat 8 (packetFlags x.l x.r p e.isSome) := by
    rw [packetOctets_append, octets_one]
    simp [octets]
  have echoSmall : (echoOnWire e).1 < 256 ^ 4 := by
    cases e with
    | none => decide
    | some v => exact v.1.isLt
  have seqSmall := x.seq.isLt
  have tsSmall := x.ts.isLt
  simp only [readPacket, flags, l, r, path, echoed]
  rw [packetOctets_append]
  simp only [numberAt_skip_octets, numberAt_octets, Nat.reduceLeDiff, Nat.reduceSub]
  simp only [Packet.mk.injEq, true_and]
  refine ⟨Nat.mod_eq_of_lt frames, ?_, ?_, ?_, Nat.mod_eq_of_lt age, Nat.mod_eq_of_lt size, ?_⟩
  · rw [Nat.mod_eq_of_lt (by simpa using seqSmall)]; simp
  · rw [Nat.mod_eq_of_lt (by simpa using tsSmall)]; simp
  · rw [Nat.mod_eq_of_lt echoSmall]
  · simp only [drop_octets, Nat.reduceLeDiff, Nat.reduceSub, List.drop_zero]

/-! ### An Ethernet frame (R186, R187) -/

/-- An Ethernet frame without a tag: its frame type field is at 12. -/
theorem ethernetFrame_untagged (destination source : Address) (frameType : BitVec 16) (o : List Byte) :
    ∃ pad, ethernetFrame destination source none frameType o
      = octets 6 destination.toNat ++ (octets 6 source.toNat ++ (octets 2 frameType.toNat ++ (o ++ pad))) := by
  refine ⟨List.replicate (60 - (octets 6 destination.toNat ++ octets 6 source.toNat ++ tagOctets none ++ octets 2 frameType.toNat
    ++ o).length) 0, ?_⟩
  simp only [ethernetFrame, padFrame, tagOctets, List.append_assoc, List.nil_append]

/-- An Ethernet frame with a tag: its frame type field is at 16. -/
theorem ethernetFrame_tagged (destination source : Address) (g : Tag) (frameType : BitVec 16) (o : List Byte) :
    ∃ pad, ethernetFrame destination source (some g) frameType o
      = octets 6 destination.toNat ++ (octets 6 source.toNat ++ (octets 2 0x8100
          ++ (octets 2 (g.priority * 8192 + g.networkTag) ++ (octets 2 frameType.toNat ++ (o ++ pad))))) := by
  refine ⟨List.replicate (60 - (octets 6 destination.toNat ++ octets 6 source.toNat ++ tagOctets (some g)
    ++ octets 2 frameType.toNat ++ o).length) 0, ?_⟩
  simp only [ethernetFrame, padFrame, tagOctets, List.append_assoc]

theorem length_ethernetFrame (destination source : Address) (tag : Option Tag) (frameType : BitVec 16) (o : List Byte) :
    60 ≤ (ethernetFrame destination source tag frameType o).length := length_padFrame _

/-- A DATA header read by the classifier (R87, R187). -/
theorem classify_data {destination : Address} {frameType : BitVec 16} {o h : List Byte}
    (room : typeOffset o + 2 ≤ o.length) (type : numberAt o (typeOffset o) 2 = frameType.toNat)
    (own : numberAt o 0 6 = destination.toNat) (rest : o.drop (typeOffset o + 2) = h) (full : 20 ≤ h.length)
    (version : numberAt h 0 1 = 1) (kind : numberAt h 1 1 = 1) : classify destination frameType o = .data h := by
  simp only [classify, rest, type, own, version, kind]
  rw [if_neg (by simpa using room), if_neg (by simp), if_neg (by omega), if_neg (by simp), if_pos trivial, if_neg (by omega)]

/-- A DATA frame of either form is classified by its destination and frame type value, and gives the octets from the common header
on. -/
theorem classify_ethernetFrame {destination source : Address} {tag : Option Tag} {frameType : BitVec 16} {o : List Byte}
    (plain : frameType ≠ 0x8100) (full : 20 ≤ o.length) (version : ∀ pad, numberAt (o ++ pad) 0 1 = 1)
    (kind : ∀ pad, numberAt (o ++ pad) 1 1 = 1) :
    ∃ pad, classify destination frameType (ethernetFrame destination source tag frameType o) = .data (o ++ pad) := by
  have address := destination.isLt
  have typeSmall := frameType.isLt
  cases tag with
  | none =>
    obtain ⟨pad, form⟩ := ethernetFrame_untagged destination source frameType o
    have offset : typeOffset (ethernetFrame destination source none frameType o) = 12 := by
      have untagged : numberAt (ethernetFrame destination source none frameType o) 12 2 ≠ 0x8100 := by
        rw [form]
        simp only [numberAt_skip_octets, numberAt_octets, Nat.reduceLeDiff, Nat.reduceSub]
        rw [Nat.mod_eq_of_lt (by simpa using typeSmall)]
        exact fun e => plain (BitVec.eq_of_toNat_eq e)
      rw [typeOffset, if_neg (fun h => untagged h.2)]
    refine ⟨pad, classify_data ?_ ?_ ?_ ?_ (by simp; omega) (version pad) (kind pad)⟩
    · rw [offset, form]; simp; omega
    · rw [offset, form]
      simp only [numberAt_skip_octets, numberAt_octets, Nat.reduceLeDiff, Nat.reduceSub]
      rw [Nat.mod_eq_of_lt (by simpa using typeSmall)]
    · rw [form, numberAt_octets, Nat.mod_eq_of_lt (by simpa using address)]
    · rw [offset, form]
      simp only [drop_octets, Nat.reduceLeDiff, Nat.reduceSub, Nat.reduceAdd, List.drop_zero]
  | some g =>
    obtain ⟨pad, form⟩ := ethernetFrame_tagged destination source g frameType o
    have offset : typeOffset (ethernetFrame destination source (some g) frameType o) = 16 := by
      have tagged : numberAt (ethernetFrame destination source (some g) frameType o) 12 2 = 0x8100 := by
        rw [form]
        simp only [numberAt_skip_octets, numberAt_octets, Nat.reduceLeDiff, Nat.reduceSub]
        rfl
      rw [typeOffset, if_pos ⟨by rw [form]; simp; omega, tagged⟩]
    refine ⟨pad, classify_data ?_ ?_ ?_ ?_ (by simp; omega) (version pad) (kind pad)⟩
    · rw [offset, form]; simp; omega
    · rw [offset, form]
      simp only [numberAt_skip_octets, numberAt_octets, Nat.reduceLeDiff, Nat.reduceSub]
      rw [Nat.mod_eq_of_lt (by simpa using typeSmall)]
    · rw [form, numberAt_octets, Nat.mod_eq_of_lt (by simpa using address)]
    · rw [offset, form]
      simp only [drop_octets, Nat.reduceLeDiff, Nat.reduceSub, Nat.reduceAdd, List.drop_zero]

/-- The echo age on the wire fits two octets (R80). -/
theorem echoOnWire_echoFields (path : UpDown) (d : Delay) (lt : Ticks) : (echoOnWire (echoFields path d lt)).2 < 65536 := by
  unfold echoFields
  split
  · simp only [echoOnWire, Option.map_some, Option.getD_some]
    split <;> omega
  · decide

/-- Settles O17. -/
theorem circuitPacketReadsBack : Obligations.CircuitPacketReadsBack := by
  intro s p x label frames size _ plain
  have age := echoOnWire_echoFields ((s.circuit x.circuit).merge.up.get p) ((s.circuit x.circuit).delay.get p) s.lt
  have read (pad : List Byte) := readPacket_packetOctets x p
    (echoFields ((s.circuit x.circuit).merge.up.get p) ((s.circuit x.circuit).delay.get p) s.lt) pad frames size age
  have head (pad : List Byte) := packetOctets_append x p
    (echoFields ((s.circuit x.circuit).merge.up.get p) ((s.circuit x.circuit).delay.get p) s.lt) pad
  have long := length_ethernetFrame x.record.destination (s.port p).entry.address x.record.tag (s.port p).entry.frameType
    (packetOctets x p (echoFields ((s.circuit x.circuit).merge.up.get p) ((s.circuit x.circuit).delay.get p) s.lt))
  have frame : copyFrame s p x = ethernetFrame x.record.destination (s.port p).entry.address x.record.tag
    (s.port p).entry.frameType (packetOctets x p
      (echoFields ((s.circuit x.circuit).merge.up.get p) ((s.circuit x.circuit).delay.get p) s.lt)) := rfl
  rw [frame]
  generalize echoFields ((s.circuit x.circuit).merge.up.get p) ((s.circuit x.circuit).delay.get p) s.lt = e at *
  obtain ⟨pad, found⟩ := classify_ethernetFrame (destination := x.record.destination) (source := (s.port p).entry.address)
    (tag := x.record.tag) (o := packetOctets x p e) plain (by cases e <;> simp [packetOctets] <;> omega)
    (fun pad => by rw [head, numberAt_octets]; rfl)
    (fun pad => by rw [head, numberAt_skip_octets _ _ _ _ _ (Nat.le_refl 1), numberAt_octets]; rfl)
  refine ⟨_, found, ?_, long, ?_⟩
  · rw [labelOf, head]
    simp only [numberAt_skip_octets, numberAt_octets, Nat.reduceLeDiff, Nat.reduceSub]
    exact Nat.mod_eq_of_lt label
  · rw [read]
    refine ⟨rfl, rfl, rfl, rfl, rfl, rfl, rfl, List.take_left' rfl, ?_, ?_⟩
    · simp [Packet.wellFormed]
    · cases e with
      | none => exact ⟨rfl, rfl, rfl⟩
      | some v => exact ⟨rfl, by simp [echoOnWire], rfl⟩

end Sys2Proof.Machine

/-! PROOFS. The detectors and the framing side of a tributary line, operation by operation (R1 to R8): what each leaves of its
tributary. -/

namespace Sys2Proof.Machine

variable {s u : State} {t : Fin 16}

/-! ### A received bit in its parts (R1) -/

/-- A tributary's state after a received bit has reached its two detectors, before the framing side takes it. -/
def State.detected (s : State) (t : Fin 16) (b : Bool) : State :=
  (((s.loopBit t).onLine t (fun u => { u with recent := (u.recent <<< 1) ||| BitVec.ofNat 8 b.toNat })).signalBit t b).aisBit t b

theorem receiveBit_eq (s : State) (t : Fin 16) (b : Bool) : s.receiveBit t b
    = if (s.tributary t).line.signal = .present ∧ ((s.detected t b).tributary t).line.signal = .present then
        (s.detected t b).framingBit t b else s.detected t b := rfl

theorem receiveBits_cons (s : State) (t : Fin 16) (b : Bool) (bits : List Bool) :
    s.receiveBits t (b :: bits) = (s.receiveBit t b).receiveBits t bits := rfl

theorem receiveBits_nil (s : State) (t : Fin 16) : s.receiveBits t [] = s := rfl

theorem receiveBits_append (s : State) (t : Fin 16) (bits more : List Bool) :
    s.receiveBits t (bits ++ more) = (s.receiveBits t bits).receiveBits t more := by
  simp only [State.receiveBits, forEach, List.foldl_append]

/-! ### The detectors (R2, R3) -/

theorem Tributary.raisedIf_false (k : Tributary) (f : TributaryFlag) (d : Detail) : k.raisedIf false f d = k := rfl

theorem Tributary.raisedIf_true (k : Tributary) (f : TributaryFlag) (d : Detail) : k.raisedIf true f d = k.raised f d := rfl

theorem tributary_loopBit (s : State) (t : Fin 16) : ∃ x, (s.loopBit t).tributary t = { s.tributary t with transmit := x } := by
  unfold State.loopBit
  split
  · exact ⟨_, by rw [onTransmit_eq, tributary_onTributary_self]⟩
  · exact ⟨_, rfl⟩

theorem tributary_onLine (s : State) (t : Fin 16) (f : LineUnit → LineUnit) :
    (s.onLine t f).tributary t = { s.tributary t with line := f (s.tributary t).line } := by
  rw [onLine_eq, tributary_onTributary_self]

/-- A line unit whose AIS detector has taken a bit (R3). -/
def LineUnit.aisTaken (u : LineUnit) (b : Bool) : LineUnit :=
  if u.aisBits + 1 < 512 then { u with aisBits := u.aisBits + 1, aisZeros := u.aisZeros + (!b).toNat }
  else { u with aisBits := 0, aisZeros := 0, ais := if u.aisZeros + (!b).toNat < 3 then .seen else .clear }

theorem tributary_aisBit (s : State) (t : Fin 16) (b : Bool) : (s.aisBit t b).tributary t
    = ({ s.tributary t with line := (s.tributary t).line.aisTaken b } : Tributary).raisedIf
        (decide ((s.tributary t).line.ais ≠ ((s.tributary t).line.aisTaken b).ais)) .aisChange
        (.seen ((s.tributary t).line.aisTaken b).ais) := by
  by_cases inBlock : (s.tributary t).line.aisBits + 1 < 512
  · simp only [State.aisBit, LineUnit.aisTaken, inBlock, if_true, tributary_onLine, ne_eq, not_true_eq_false, decide_false,
      Tributary.raisedIf_false]
  · simp only [State.aisBit, LineUnit.aisTaken, inBlock, if_false]
    generalize (if (s.tributary t).line.aisZeros + (!b).toNat < 3 then SeenState.seen else SeenState.clear) = now
    by_cases same : (s.tributary t).line.ais = now
    · simp only [same, if_true, tributary_onLine, ne_eq, not_true_eq_false, decide_false, Tributary.raisedIf_false]
    · simp only [same, if_false, raiseTributary_eq, tributary_raise_self, tributary_onLine, ne_eq, not_false_eq_true, decide_true,
        Tributary.raisedIf_true]

/-- A bit that does not complete a run of 256 zeros (R2). -/
theorem signalBit_quiet_run (present : (s.tributary t).line.signal = .present) (b : Bool)
    (short : (if b then 0 else (s.tributary t).line.zeroRun + 1) < 256) :
    s.signalBit t b = s.onLine t (fun u => { u with zeroRun := if b then 0 else (s.tributary t).line.zeroRun + 1 }) := by
  simp only [State.signalBit, present, if_neg (Nat.not_le_of_lt short)]

/-- The last bit of a run of 256 zeros (R2). -/
theorem signalBit_loss (present : (s.tributary t).line.signal = .present) (full : 255 ≤ (s.tributary t).line.zeroRun) :
    s.signalBit t false = s.declareLoss t := by
  have run : 256 ≤ (if false = true then 0 else (s.tributary t).line.zeroRun + 1) := by
    rw [if_neg (by decide)]; omega
  simp only [State.signalBit, present, if_pos run]

/-- A bit of a clearing block before its last (R2). -/
theorem signalBit_block (lost : (s.tributary t).line.signal = .lost) (b : Bool) (short : (s.tributary t).line.blockBits + 1 < 256) :
    s.signalBit t b = s.onLine t (fun u => { u with
      blockBits := u.blockBits + 1, blockOnes := (s.tributary t).line.blockOnes + b.toNat }) := by
  simp only [State.signalBit, lost, short, if_true]

/-- The last bit of a clearing block (R2). -/
theorem signalBit_blockEnd (lost : (s.tributary t).line.signal = .lost) (b : Bool)
    (full : ¬(s.tributary t).line.blockBits + 1 < 256) :
    s.signalBit t b = if 32 ≤ (s.tributary t).line.blockOnes + b.toNat then s.clearLoss t
      else s.onLine t (fun u => { u with blockBits := 0, blockOnes := 0 }) := by
  simp only [State.signalBit, lost, full, if_false]

/-! ### The end of alignment (R5) -/

/-- A line unit whose alignment has ended, before its remote alarm is cleared (R5). -/
def LineUnit.unaligned (u : LineUnit) (search : SearchPhase) : LineUnit :=
  { u with
    alignment := .searching, erroredRun := 0, search := search, searchBits := 0, source := .generated
    frameBits := 0, oddFrame := false, gathered := [] }

theorem tributary_loseAlignment (s : State) (t : Fin 16) (search : SearchPhase) : (s.loseAlignment t search).tributary t
    = (({ s.tributary t with line := ((s.tributary t).line.unaligned search).unalarmed } : Tributary).raised .alignChange
        (.alignment .searching)).raisedIf (decide ((s.tributary t).line.remoteAlarm = .seen)) .remoteAlarmChange
        (.seen .clear) := by
  simp only [State.loseAlignment, tributary_clearRemoteAlarm, raiseTributary_eq, tributary_raise_self, tributary_onLine]
  rfl

/-! ### The framing side (R4 to R6, R8) -/

/-- What the framing side leaves alone: the signal, the detectors of R2 and R3, the clock, and every flag but its own two. -/
structure FramingKept (k v : Tributary) : Prop where
  entry    : v.entry = k.entry
  clocking : v.clocking = k.clocking
  transmit : v.transmit = k.transmit
  recent   : v.line.recent = k.line.recent
  signal   : v.line.signal = k.line.signal ∧ v.line.zeroRun = k.line.zeroRun
  block    : v.line.blockBits = k.line.blockBits ∧ v.line.blockOnes = k.line.blockOnes
  ais      : v.line.aisBits = k.line.aisBits ∧ v.line.aisZeros = k.line.aisZeros ∧ v.line.ais = k.line.ais
  flags    : ∀ g : TributaryFlag, g ≠ .alignChange → g ≠ .remoteAlarmChange → v.flags[g.code.val] = k.flags[g.code.val]

theorem FramingKept.refl (k : Tributary) : FramingKept k k := ⟨rfl, rfl, rfl, rfl, ⟨rfl, rfl⟩, ⟨rfl, rfl⟩, ⟨rfl, rfl, rfl⟩, fun _ _ _ => rfl⟩

theorem FramingKept.trans {k v w : Tributary} (h : FramingKept k v) (i : FramingKept v w) : FramingKept k w where
  entry := i.entry.trans h.entry
  clocking := i.clocking.trans h.clocking
  transmit := i.transmit.trans h.transmit
  recent := i.recent.trans h.recent
  signal := ⟨i.signal.1.trans h.signal.1, i.signal.2.trans h.signal.2⟩
  block := ⟨i.block.1.trans h.block.1, i.block.2.trans h.block.2⟩
  ais := ⟨i.ais.1.trans h.ais.1, i.ais.2.1.trans h.ais.2.1, i.ais.2.2.trans h.ais.2.2⟩
  flags := fun g a r => (i.flags g a r).trans (h.flags g a r)

theorem FramingKept.raisedIf {k v : Tributary} (h : FramingKept k v) (b : Bool) (f : TributaryFlag) (d : Detail)
    (own : f = .alignChange ∨ f = .remoteAlarmChange) : FramingKept k (v.raisedIf b f d) :=
  ⟨h.entry, h.clocking, h.transmit, h.recent, h.signal, h.block, h.ais, fun g a r => by
    have apart : ¬(b = true ∧ g = f) := fun ⟨_, same⟩ => by subst same; exact own.elim a r
    rw [Tributary.flags_raisedIf, if_neg apart]
    exact h.flags g a r⟩

/-- A change of the framing side's own part of the line unit. -/
theorem FramingKept.ofLine (k : Tributary) (u : LineUnit) (detectors : { u with
      alignment := k.line.alignment, remoteAlarm := k.line.remoteAlarm, source := k.line.source, frameCount := k.line.frameCount
      erroredRun := k.line.erroredRun, search := k.line.search, searchBits := k.line.searchBits, frameBits := k.line.frameBits
      oddFrame := k.line.oddFrame, gathered := k.line.gathered, lastIndicator := k.line.lastIndicator
      alarmRun := k.line.alarmRun, lastEvent := k.line.lastEvent } = k.line) : FramingKept k { k with line := u } := by
  have field {α : Type} (f : LineUnit → α) := congrArg f detectors
  exact ⟨rfl, rfl, rfl, field LineUnit.recent, ⟨field LineUnit.signal, field LineUnit.zeroRun⟩,
    ⟨field LineUnit.blockBits, field LineUnit.blockOnes⟩,
    ⟨field LineUnit.aisBits, field LineUnit.aisZeros, field LineUnit.ais⟩, fun _ _ _ => rfl⟩

theorem tributaries_makeCopy (s : State) (c : Fin 64) (a : Assembly) (seq : SeqNo) (r : Bool) (p : Port) :
    (s.makeCopy c a seq r p).tributaries = s.tributaries := by
  rcases makeCopy_cases s p c a seq r with e | e | ⟨record, _, _, e⟩ <;> rw [e]
  · rw [count_eq]; rfl
  · exact (queueCopy_only s p _).tributaries

theorem tributaries_completePacket (s : State) (c : Fin 64) (a : Assembly) : (s.completePacket c a).tributaries = s.tributaries := by
  rw [completePacket_eq, tributaries_makeCopy, tributaries_makeCopy]
  rfl

theorem tributaries_collectOf (s : State) (t : Fin 16) (stamp : Ticks) (frame : List Byte) (faulted : Bool) (c : Fin 64) :
    (s.collectOf t stamp frame faulted c).tributaries = s.tributaries := by
  unfold State.collectOf
  split
  · simp only [State.collectFrame]
    split
    · rfl
    · split
      · rw [tributaries_completePacket]; rfl
      · rfl
  · rfl

theorem tributaries_collected (l : List (Fin 64)) (s : State) (t : Fin 16) (stamp : Ticks) (frame : List Byte) (faulted : Bool) :
    (forEach l (State.collectOf t stamp frame faulted) s).tributaries = s.tributaries :=
  forEach_induction (fun v => v.tributaries = s.tributaries) _
    (fun c v h => (tributaries_collectOf v t stamp frame faulted c).trans h) l s rfl

/-- A receive frame event advances its tributary's receive frame count and keeps the LT of the event (R8, R9). -/
theorem tributary_receiveFrame (s : State) (t : Fin 16) (frame : List Byte) (faulted : Bool) :
    (s.receiveFrame t frame faulted).tributary t = { s.tributary t with
      line := { (s.tributary t).line with frameCount := (s.tributary t).line.frameCount + 1024, lastEvent := s.lt } } := by
  have lt := (Quiet.forEach allCircuits _ (collectOf_quiet t (s.tributary t).line.frameCount frame faulted) s).lt
  have tributary := State.tributary_congr
    (tributaries_collected allCircuits s t (s.tributary t).line.frameCount frame faulted) t
  rw [receiveFrame_eq]
  generalize forEach allCircuits (State.collectOf t (s.tributary t).line.frameCount frame faulted) s = v at lt tributary ⊢
  rw [tributary_onLine, tributary, lt]

theorem tributary_frameBit (s : State) (t : Fin 16) :
    FramingKept (s.tributary t) ((s.frameBit t).tributary t) := by
  unfold State.frameBit
  extract_lets w n gathered begun
  split
  · rw [tributary_onLine]; exact .ofLine _ _ rfl
  · rw [tributary_receiveFrame, tributary_onLine]; exact .ofLine _ _ rfl

theorem tributary_declareAlignment (s : State) (t : Fin 16) : (s.declareAlignment t).tributary t
    = ({ s.tributary t with line := { (s.tributary t).line with
          alignment := .aligned, search := .idle, searchBits := 0, erroredRun := 0, remoteAlarm := .clear
          lastIndicator := none, alarmRun := 0, source := .line, frameBits := 8, oddFrame := false
          gathered := [(s.tributary t).line.recent] } } : Tributary).raised .alignChange (.alignment .aligned) := by
  simp only [State.declareAlignment, raiseTributary_eq, tributary_raise_self, tributary_onLine]

theorem FramingKept.loseAlignment (s : State) (t : Fin 16) (search : SearchPhase) :
    FramingKept (s.tributary t) ((s.loseAlignment t search).tributary t) := by
  rw [tributary_loseAlignment, ← Tributary.raisedIf_true]
  refine .raisedIf (.raisedIf (.ofLine (s.tributary t) _ ?_) _ _ _ (.inl rfl)) _ _ _ (.inr rfl)
  rfl

theorem FramingKept.searchBit (s : State) (t : Fin 16) (b : Bool) :
    FramingKept (s.tributary t) ((s.searchBit t b).tributary t) := by
  unfold State.searchBit
  extract_lets w n hunt
  have hunted : FramingKept (s.tributary t) (hunt.tributary t) := by
    rw [tributary_onLine]; exact .ofLine _ _ rfl
  split
  · exact .refl _
  · split <;> rw [tributary_onLine] <;> exact .ofLine _ _ rfl
  · split
    · rw [tributary_onLine]; exact .ofLine _ _ rfl
    · split
      · rw [tributary_onLine]; exact .ofLine _ _ rfl
      · exact hunted
  · split
    · rw [tributary_onLine]; exact .ofLine _ _ rfl
    · split
      · rw [tributary_declareAlignment, ← Tributary.raisedIf_true]
        refine .raisedIf (.ofLine (s.tributary t) _ ?_) _ _ _ (.inl rfl)
        rfl
      · exact hunted

theorem FramingKept.alarmBit (s : State) (t : Fin 16) (b : Bool) :
    FramingKept (s.tributary t) ((s.alarmBit t b).tributary t) := by
  unfold State.alarmBit
  extract_lets w indicated run
  split
  · rw [tributary_onLine]; exact .ofLine _ _ rfl
  · split
    · rw [raiseTributary_eq, tributary_raise_self, tributary_onLine, ← Tributary.raisedIf_true]
      refine .raisedIf (.ofLine (s.tributary t) _ ?_) _ _ _ (.inr rfl)
      rfl
    · rw [tributary_onLine]; exact .ofLine _ _ rfl

theorem FramingKept.wordCheck (s : State) (t : Fin 16) : FramingKept (s.tributary t) ((s.wordCheck t).tributary t) := by
  unfold State.wordCheck
  extract_lets w
  split
  · rw [tributary_onLine]; exact .ofLine _ _ rfl
  · split
    · rw [tributary_onLine]; exact .ofLine _ _ rfl
    · exact .loseAlignment s t .hunt

theorem FramingKept.framingBit (s : State) (t : Fin 16) (b : Bool) :
    FramingKept (s.tributary t) ((s.framingBit t b).tributary t) := by
  unfold State.framingBit
  extract_lets k n odd framed
  split
  · exact .refl _
  · exact tributary_frameBit s t
  · exact .searchBit s t b
  · exact .refl _
  · split
    · exact (tributary_frameBit s t).trans (.alarmBit framed t b)
    · split
      · exact (tributary_frameBit s t).trans (.wordCheck framed t)
      · exact tributary_frameBit s t

end Sys2Proof.Machine

/-! PROOFS. AIS, judged every 512 bits (R3). -/

namespace Sys2Proof.Machine

variable {s u : State} {t : Fin 16}

/-- What the operations that are no part of the AIS detector leave alone of it. -/
structure AisKept (k v : Tributary) : Prop where
  bits  : v.line.aisBits = k.line.aisBits
  zeros : v.line.aisZeros = k.line.aisZeros
  ais   : v.line.ais = k.line.ais
  flag  : v.flags[TributaryFlag.aisChange.code.val] = k.flags[TributaryFlag.aisChange.code.val]

theorem AisKept.refl (k : Tributary) : AisKept k k := ⟨rfl, rfl, rfl, rfl⟩

theorem AisKept.trans {k v w : Tributary} (h : AisKept k v) (i : AisKept v w) : AisKept k w :=
  ⟨i.bits.trans h.bits, i.zeros.trans h.zeros, i.ais.trans h.ais, i.flag.trans h.flag⟩

theorem FramingKept.aisKept {k v : Tributary} (h : FramingKept k v) : AisKept k v :=
  ⟨h.ais.1, h.ais.2.1, h.ais.2.2, h.flags _ (by decide) (by decide)⟩

theorem AisKept.raised {k v : Tributary} (h : AisKept k v) (f : TributaryFlag) (d : Detail) (other : f ≠ .aisChange) :
    AisKept k (v.raised f d) :=
  ⟨h.bits, h.zeros, h.ais, by rw [Tributary.flags_raised, if_neg other.symm]; exact h.flag⟩

theorem AisKept.loopFollows (s : State) (t : Fin 16) : AisKept (s.tributary t) ((s.loopFollows t).tributary t) := by
  have moved (m : ClockMode) : AisKept (s.tributary t) ((s.setActual t m).tributary t) := by
    rw [tributary_setActual_self]
    split
    · exact .refl _
    · refine .raised ?_ _ _ (by decide)
      exact ⟨rfl, rfl, rfl, rfl⟩
  rcases loopFollows_cases s t with ⟨_, _, _, e⟩ | ⟨_, _, _, e⟩ | ⟨_, _, e⟩ <;> rw [e]
  · exact moved .free
  · exact moved .loop
  · exact .refl _

/-- The change of the signal state leaves the AIS detector alone (R2). -/
theorem AisKept.declareLoss (s : State) (t : Fin 16) : AisKept (s.tributary t) ((s.declareLoss t).tributary t) := by
  simp only [State.declareLoss]
  refine .trans ?_ (.loopFollows _ t)
  split
  · refine .trans ?_ (FramingKept.loseAlignment _ t .idle).aisKept
    rw [raiseTributary_eq, tributary_raise_self, tributary_onLine]
    refine .raised ?_ _ _ (by decide)
    exact ⟨rfl, rfl, rfl, rfl⟩
  · rw [raiseTributary_eq, tributary_raise_self, tributary_onLine]
    refine .raised ?_ _ _ (by decide)
    exact ⟨rfl, rfl, rfl, rfl⟩

/-- A line unit whose loss of signal has cleared, by its framing (R2, R4, R8). -/
def LineUnit.lossCleared (u : LineUnit) (framing : Framing) : LineUnit :=
  { u with
    signal := .present, zeroRun := 0, blockBits := 0, blockOnes := 0
    search := if framing = .framed then .hunt else u.search
    searchBits := if framing = .framed then 0 else u.searchBits
    source := if framing = .unframed then .line else u.source
    frameBits := if framing = .unframed then 0 else u.frameBits
    gathered := if framing = .unframed then [] else u.gathered }

/-- A tributary whose loss of signal has cleared, before R155. -/
def Tributary.lossCleared (k : Tributary) : Tributary :=
  ({ k with line := k.line.lossCleared k.entry.framing } : Tributary).raised .signalChange (.signal .present)

theorem clearLoss_eq (s : State) (t : Fin 16) :
    ∃ v : State, s.clearLoss t = v.loopFollows t ∧ v.tributary t = (s.tributary t).lossCleared := by
  refine ⟨_, rfl, ?_⟩
  rw [raiseTributary_eq, tributary_raise_self, tributary_onLine, Tributary.lossCleared]
  cases (s.tributary t).entry.framing <;> rfl

theorem AisKept.clearLoss (s : State) (t : Fin 16) : AisKept (s.tributary t) ((s.clearLoss t).tributary t) := by
  obtain ⟨v, form, tributary⟩ := clearLoss_eq s t
  rw [form]
  refine .trans ?_ (.loopFollows v t)
  rw [tributary]
  refine .raised ?_ _ _ (by decide)
  exact ⟨rfl, rfl, rfl, rfl⟩

theorem AisKept.signalBit (s : State) (t : Fin 16) (b : Bool) : AisKept (s.tributary t) ((s.signalBit t b).tributary t) := by
  unfold State.signalBit
  extract_lets w run ones
  split
  · split
    · exact .declareLoss s t
    · rw [tributary_onLine]; exact ⟨rfl, rfl, rfl, rfl⟩
  · split
    · rw [tributary_onLine]; exact ⟨rfl, rfl, rfl, rfl⟩
    · split
      · exact .clearLoss s t
      · rw [tributary_onLine]; exact ⟨rfl, rfl, rfl, rfl⟩

/-- A received bit, as the AIS detector has it (R3). -/
theorem receiveBit_ais (s : State) (t : Fin 16) (b : Bool) :
    AisKept (({ s.tributary t with line := (s.tributary t).line.aisTaken b } : Tributary).raisedIf
        (decide ((s.tributary t).line.ais ≠ ((s.tributary t).line.aisTaken b).ais)) .aisChange
        (.seen ((s.tributary t).line.aisTaken b).ais)) ((s.receiveBit t b).tributary t) := by
  obtain ⟨x, looped⟩ := tributary_loopBit s t
  have before : AisKept (s.tributary t) ((((s.loopBit t).onLine t
      (fun u => { u with recent := (u.recent <<< 1) ||| BitVec.ofNat 8 b.toNat })).signalBit t b).tributary t) := by
    refine .trans ?_ (.signalBit _ t b)
    rw [tributary_onLine, looped]
    exact ⟨rfl, rfl, rfl, rfl⟩
  have detected : AisKept (({ s.tributary t with line := (s.tributary t).line.aisTaken b } : Tributary).raisedIf
        (decide ((s.tributary t).line.ais ≠ ((s.tributary t).line.aisTaken b).ais)) .aisChange
        (.seen ((s.tributary t).line.aisTaken b).ais)) ((s.detected t b).tributary t) := by
    have taken : ∀ {k v : LineUnit}, v.aisBits = k.aisBits → v.aisZeros = k.aisZeros → v.ais = k.ais →
        (v.aisTaken b).aisBits = (k.aisTaken b).aisBits ∧ (v.aisTaken b).aisZeros = (k.aisTaken b).aisZeros
        ∧ (v.aisTaken b).ais = (k.aisTaken b).ais := by
      intro k v bits zeros ais
      simp only [LineUnit.aisTaken, bits, zeros]
      split
      · exact ⟨rfl, rfl, ais⟩
      · exact ⟨rfl, rfl, rfl⟩
    obtain ⟨bits, zeros, ais⟩ := taken before.bits before.zeros before.ais
    rw [State.detected, tributary_aisBit]
    refine ⟨bits, zeros, ais, ?_⟩
    rw [Tributary.flags_raisedIf, Tributary.flags_raisedIf, ais, before.ais]
    simp only [before.flag]
  rw [receiveBit_eq]
  split
  · exact detected.trans (FramingKept.framingBit _ t b).aisKept
  · exact detected

/-- The rest of a block of 512 bits, as the AIS detector has it (R3). -/
theorem receiveBits_aisBlock (bits : List Bool) (s : State) (begun : bits ≠ [])
    (block : (s.tributary t).line.aisBits + bits.length = 512) :
    let now : SeenState := if (s.tributary t).line.aisZeros + bits.count false < 3 then .seen else .clear
    let v := (s.receiveBits t bits).tributary t
    v.line.ais = now ∧ v.line.aisBits = 0 ∧ v.line.aisZeros = 0
    ∧ v.flags[TributaryFlag.aisChange.code.val] = if (s.tributary t).line.ais = now then
        (s.tributary t).flags[TributaryFlag.aisChange.code.val]
      else some (((s.tributary t).flags[TributaryFlag.aisChange.code.val]).getD (.seen now)) := by
  induction bits generalizing s with
  | nil => exact absurd rfl begun
  | cons b bits ih =>
    have one := receiveBit_ais s t b
    have zero : (!b).toNat = if b = false then 1 else 0 := by cases b <;> rfl
    rw [receiveBits_cons]
    cases bits with
    | nil =>
      have last : ¬(s.tributary t).line.aisBits + 1 < 512 := by simpa using block.ge
      have taken : (s.tributary t).line.aisTaken b = { (s.tributary t).line with
          aisBits := 0, aisZeros := 0
          ais := if (s.tributary t).line.aisZeros + (!b).toNat < 3 then .seen else .clear } := if_neg last
      have count : [b].count false = (!b).toNat := by cases b <;> rfl
      rw [taken] at one
      rw [receiveBits_nil, count]
      refine ⟨one.ais, one.bits, one.zeros, ?_⟩
      rw [one.flag, Tributary.flags_raisedIf]
      simp only [decide_eq_true_eq, ne_eq, and_true, ite_not]
    | cons b' rest =>
      have short : (s.tributary t).line.aisBits + 1 < 512 := by simp at block; omega
      have taken : (s.tributary t).line.aisTaken b = { (s.tributary t).line with
          aisBits := (s.tributary t).line.aisBits + 1, aisZeros := (s.tributary t).line.aisZeros + (!b).toNat } := if_pos short
      rw [taken] at one
      simp only [ne_eq, not_true_eq_false, decide_false, Tributary.raisedIf_false] at one
      have later := ih (s.receiveBit t b) (List.cons_ne_nil _ _) (by
        rw [one.bits]; simp only [List.length_cons] at block ⊢; omega)
      have count : (b :: b' :: rest).count false = (!b).toNat + (b' :: rest).count false := by
        cases b <;> simp [Nat.add_comm]
      rw [one.zeros, one.ais, one.flag] at later
      rw [count, ← Nat.add_assoc]
      exact later

/-- Settles O9. -/
theorem aisIsJudgedEvery512Bits : Obligations.AisIsJudgedEvery512Bits := by
  intro t bits s noBits noZeros length now
  have block := receiveBits_aisBlock (t := t) bits s (by intro e; rw [e] at length; cases length) (by omega)
  simp only [noZeros, Nat.zero_add] at block
  obtain ⟨ais, ended, zeros, flag⟩ := block
  exact ⟨_, rfl, ais, ended, zeros, flag⟩

end Sys2Proof.Machine

/-! PROOFS. The loss of signal: declared after 256 zeros, cleared after a block with 32 ones (R2). -/

namespace Sys2Proof.Machine

variable {s u : State} {t : Fin 16}

/-! ### LOOP follows the signal (R155) -/

/-- A tributary after R155 at a change of its signal state. -/
def Tributary.followed (k : Tributary) : Tributary :=
  if k.clocking.inForce = .loop ∧ k.line.signal = .lost ∧ k.clocking.actual = .loop then
    (k.changeMode .free).raised .clockModeChange (.clockMode .free)
  else if k.clocking.inForce = .loop ∧ k.line.signal = .present ∧ k.clocking.actual = .free then
    (k.changeMode .loop).raised .clockModeChange (.clockMode .loop)
  else k

theorem tributary_loopFollows (s : State) (t : Fin 16) : (s.loopFollows t).tributary t = (s.tributary t).followed := by
  unfold Tributary.followed
  rcases loopFollows_cases s t with ⟨force, lost, actual, e⟩ | ⟨force, present, actual, e⟩ | ⟨h₁, h₂, e⟩
  · rw [e, tributary_setActual_self, if_neg (by rw [actual]; decide), if_pos ⟨force, lost, actual⟩]
  · rw [e, tributary_setActual_self, if_neg (by rw [actual]; decide),
      if_neg (fun h => absurd (h.2.1.symm.trans present) (by decide)), if_pos ⟨force, present, actual⟩]
  · rw [e, if_neg h₁, if_neg h₂]

theorem followed_line (k : Tributary) : k.followed.line = k.line ∧ k.followed.entry = k.entry := by
  unfold Tributary.followed
  split
  · exact ⟨rfl, rfl⟩
  · split <;> exact ⟨rfl, rfl⟩

theorem followed_flags (k : Tributary) (g : TributaryFlag) (other : g ≠ .clockModeChange) :
    k.followed.flags[g.code.val] = k.flags[g.code.val] := by
  unfold Tributary.followed
  split
  · rw [Tributary.flags_raised, if_neg other]; rfl
  · split
    · rw [Tributary.flags_raised, if_neg other]; rfl
    · rfl

/-! ### What the AIS detector and the bit edge leave -/

theorem aisTaken_rest (u : LineUnit) (b : Bool) : u.aisTaken b = { u with
    aisBits := (u.aisTaken b).aisBits, aisZeros := (u.aisTaken b).aisZeros, ais := (u.aisTaken b).ais } := by
  unfold LineUnit.aisTaken
  split <;> rfl

/-- A tributary but for the AIS detector, its flag and the transmit side. -/
structure AlikeButAis (k v : Tributary) : Prop where
  entry    : v.entry = k.entry
  clocking : v.clocking = k.clocking
  line     : v.line = { k.line with aisBits := v.line.aisBits, aisZeros := v.line.aisZeros, ais := v.line.ais }
  flags    : ∀ g : TributaryFlag, g ≠ .aisChange → v.flags[g.code.val] = k.flags[g.code.val]

theorem AlikeButAis.aisBit (s : State) (t : Fin 16) (b : Bool) :
    AlikeButAis (s.tributary t) ((s.aisBit t b).tributary t) := by
  rw [tributary_aisBit]
  refine ⟨rfl, rfl, aisTaken_rest _ b, fun g other => ?_⟩
  rw [Tributary.flags_raisedIf, if_neg (fun h => other h.2)]

/-- A tributary at the bit edge of a received bit (R1, R148): the transmit bit of LOOP has ended, and the bit is the newest of
the last eight. -/
theorem tributary_shifted (s : State) (t : Fin 16) (b : Bool) :
    ∃ x, ((s.loopBit t).onLine t (fun u => { u with recent := (u.recent <<< 1) ||| BitVec.ofNat 8 b.toNat })).tributary t
      = { s.tributary t with
          transmit := x
          line := { (s.tributary t).line with recent := ((s.tributary t).line.recent <<< 1) ||| BitVec.ofNat 8 b.toNat } } := by
  obtain ⟨x, looped⟩ := tributary_loopBit s t
  exact ⟨x, by rw [tributary_onLine, looped]⟩

/-- While the signal is LOST before it, a received bit reaches the detectors alone. -/
theorem receiveBit_lost (lost : (s.tributary t).line.signal = .lost) (b : Bool) : s.receiveBit t b = s.detected t b := by
  rw [receiveBit_eq, if_neg (fun h => absurd (h.1.symm.trans lost) (by decide))]

/-! ### A clearing block (R2) -/

/-- What a bit inside a clearing block does: it is counted. -/
theorem receiveBit_block (lost : (s.tributary t).line.signal = .lost) (b : Bool)
    (short : (s.tributary t).line.blockBits + 1 < 256) :
    let k := s.tributary t
    let v := (s.receiveBit t b).tributary t
    v.entry = k.entry ∧ v.clocking = k.clocking ∧ v.line.signal = .lost ∧ v.line.blockBits = k.line.blockBits + 1
    ∧ v.line.blockOnes = k.line.blockOnes + b.toNat
    ∧ v.flags[TributaryFlag.signalChange.code.val] = k.flags[TributaryFlag.signalChange.code.val] := by
  intro k v
  obtain ⟨x, shifted⟩ := tributary_shifted s t b
  have form : v = (s.detected t b).tributary t := by rw [← receiveBit_lost lost]
  rw [form, State.detected]
  generalize (s.loopBit t).onLine t (fun u => { u with recent := (u.recent <<< 1) ||| BitVec.ofNat 8 b.toNat }) = w at shifted ⊢
  have alike := AlikeButAis.aisBit (w.signalBit t b) t b
  have counted : (w.signalBit t b).tributary t = { w.tributary t with line := { (w.tributary t).line with
      blockBits := (w.tributary t).line.blockBits + 1, blockOnes := (w.tributary t).line.blockOnes + b.toNat } } := by
    rw [signalBit_block (by rw [shifted]; exact lost) b (by rw [shifted]; exact short), tributary_onLine]
  rw [counted, shifted] at alike
  generalize ((w.signalBit t b).aisBit t b).tributary t = y at alike ⊢
  refine ⟨alike.entry, alike.clocking, ?_, ?_, ?_, alike.flags _ (by decide)⟩
  · rw [alike.line]; exact lost
  · rw [alike.line]
  · rw [alike.line]

/-- What the rest of a clearing block leaves of its tributary (R2), told from the tributary before it and the ones in it. -/
def BlockEnded (k v : Tributary) (ones : Nat) : Prop :=
  v.line.blockBits = 0 ∧ v.line.blockOnes = 0
  ∧ (32 ≤ ones → v.line.signal = .present
      ∧ v.flags[TributaryFlag.signalChange.code.val]
        = some ((k.flags[TributaryFlag.signalChange.code.val]).getD (.signal .present))
      ∧ (k.entry.framing = .framed → v.line.search = .hunt ∧ v.line.searchBits = 0)
      ∧ (k.entry.framing = .unframed → v.line.source = .line ∧ v.line.frameBits = 0)
      ∧ (k.clocking.inForce = .loop → k.clocking.actual = .free → v.clocking.actual = .loop))
  ∧ (¬32 ≤ ones → v.line.signal = .lost
      ∧ v.flags[TributaryFlag.signalChange.code.val] = k.flags[TributaryFlag.signalChange.code.val])

/-- What the last bit of a clearing block does: the loss clears when the block held 32 ones (R2). -/
theorem receiveBit_blockEnd (lost : (s.tributary t).line.signal = .lost) (b : Bool)
    (full : (s.tributary t).line.blockBits = 255) :
    BlockEnded (s.tributary t) ((s.receiveBit t b).tributary t) ((s.tributary t).line.blockOnes + b.toNat) := by
  obtain ⟨x, shifted⟩ := tributary_shifted s t b
  rw [receiveBit_lost lost, State.detected]
  generalize (s.loopBit t).onLine t (fun u => { u with recent := (u.recent <<< 1) ||| BitVec.ofNat 8 b.toNat }) = w at shifted ⊢
  have alike := AlikeButAis.aisBit (w.signalBit t b) t b
  have judged := signalBit_blockEnd (s := w) (t := t) (by rw [shifted]; exact lost) b
    (by rw [shifted]; show ¬(s.tributary t).line.blockBits + 1 < 256; omega)
  have ones : (w.tributary t).line.blockOnes = (s.tributary t).line.blockOnes := by rw [shifted]
  rw [ones] at judged
  by_cases many : 32 ≤ (s.tributary t).line.blockOnes + b.toNat
  · rw [if_pos many] at judged
    obtain ⟨y, cleared, tributary⟩ := clearLoss_eq w t
    have after : (w.signalBit t b).tributary t = (w.tributary t).lossCleared.followed := by
      rw [judged, cleared, tributary_loopFollows, tributary]
    obtain ⟨line, entry⟩ := followed_line (w.tributary t).lossCleared
    have flag := followed_flags (w.tributary t).lossCleared .signalChange (by decide)
    rw [after] at alike
    generalize ((w.signalBit t b).aisBit t b).tributary t = y at alike ⊢
    have lineOf := alike.line
    rw [line, shifted] at lineOf
    refine ⟨by rw [lineOf]; rfl, by rw [lineOf]; rfl, fun _ => ⟨by rw [lineOf]; rfl, ?_, fun framed => ?_, fun unframed => ?_,
      fun force free => ?_⟩, fun h => absurd many h⟩
    · rw [alike.flags _ (by decide), flag, Tributary.lossCleared, Tributary.flags_raised, if_pos rfl, shifted]
    · rw [lineOf]
      simp [Tributary.lossCleared, LineUnit.lossCleared, framed]
    · rw [lineOf]
      simp [Tributary.lossCleared, LineUnit.lossCleared, unframed]
    · rw [alike.clocking, shifted]
      simp [Tributary.followed, Tributary.lossCleared, LineUnit.lossCleared, Tributary.changeMode, Tributary.raised, force, free]
  · rw [if_neg many] at judged
    have after : (w.signalBit t b).tributary t
        = { w.tributary t with line := { (w.tributary t).line with blockBits := 0, blockOnes := 0 } } := by
      rw [judged, tributary_onLine]
    rw [after, shifted] at alike
    generalize ((w.signalBit t b).aisBit t b).tributary t = y at alike ⊢
    refine ⟨by rw [alike.line], by rw [alike.line], fun h => absurd h many, fun _ => ⟨?_, alike.flags _ (by decide)⟩⟩
    rw [alike.line]; exact lost

theorem receiveBits_block (bits : List Bool) (s : State) (begun : bits ≠ []) (lost : (s.tributary t).line.signal = .lost)
    (block : (s.tributary t).line.blockBits + bits.length = 256) :
    BlockEnded (s.tributary t) ((s.receiveBits t bits).tributary t) ((s.tributary t).line.blockOnes + bits.count true) := by
  induction bits generalizing s with
  | nil => exact absurd rfl begun
  | cons b bits ih =>
    rw [receiveBits_cons]
    cases bits with
    | nil =>
      have count : [b].count true = b.toNat := by cases b <;> rfl
      rw [receiveBits_nil, count]
      exact receiveBit_blockEnd lost b (by simp at block; omega)
    | cons b' rest =>
      obtain ⟨entry, clocking, still, bits, ones, flag⟩ :=
        receiveBit_block lost b (by simp only [List.length_cons] at block; omega)
      have later := ih (s.receiveBit t b) (List.cons_ne_nil _ _) still (by
        rw [bits]; simp only [List.length_cons] at block ⊢; omega)
      have count : (b :: b' :: rest).count true = b.toNat + (b' :: rest).count true := by
        cases b <;> simp [Nat.add_comm]
      rw [count, ← Nat.add_assoc, ← ones]
      unfold BlockEnded at later ⊢
      rwa [entry, clocking, flag] at later

/-- Settles O8. -/
theorem lossOfSignalClearsAfterABlock : Obligations.LossOfSignalClearsAfterABlock := by
  intro t bits s lost noBits noOnes length
  obtain ⟨ended, zeros, cleared, stays⟩ := receiveBits_block bits s (by intro e; rw [e] at length; cases length) lost
    (by rw [noBits, length])
  rw [noOnes, Nat.zero_add] at cleared stays
  refine ⟨_, rfl, ended, zeros, ?_⟩
  split
  · next many => exact cleared many
  · next few => exact stays few

end Sys2Proof.Machine

/-! PROOFS. The framing side while the signal is PRESENT: the search, the alignment word, the remote alarm (R4 to R6), and the loss of
signal after 256 zeros (R2). -/

namespace Sys2Proof.Machine

variable {s u : State} {t : Fin 16}

/-! ### A bit that reaches the framing side -/

/-- The last eight bits after one more (log 23). -/
def LineUnit.shifted (u : LineUnit) (b : Bool) : BitVec 8 := (u.recent <<< 1) ||| BitVec.ofNat 8 b.toNat

/-- A tributary whose detectors have taken a bit that declares nothing of the signal: only the last eight bits, the run of zeros
and the AIS detector have changed, and AIS_CHANGE. -/
structure DetectedQuietly (k v : Tributary) (b : Bool) : Prop where
  entry    : v.entry = k.entry
  clocking : v.clocking = k.clocking
  line     : v.line = { k.line with
              recent := k.line.shifted b, zeroRun := if b then 0 else k.line.zeroRun + 1
              aisBits := v.line.aisBits, aisZeros := v.line.aisZeros, ais := v.line.ais }
  flags    : ∀ g : TributaryFlag, g ≠ .aisChange → v.flags[g.code.val] = k.flags[g.code.val]

theorem detected_quietly (present : (s.tributary t).line.signal = .present) (b : Bool)
    (short : (if b then 0 else (s.tributary t).line.zeroRun + 1) < 256) :
    DetectedQuietly (s.tributary t) ((s.detected t b).tributary t) b := by
  obtain ⟨x, shifted⟩ := tributary_shifted s t b
  rw [State.detected]
  generalize (s.loopBit t).onLine t (fun u => { u with recent := (u.recent <<< 1) ||| BitVec.ofNat 8 b.toNat }) = w at shifted ⊢
  have alike := AlikeButAis.aisBit (w.signalBit t b) t b
  have counted : (w.signalBit t b).tributary t = { w.tributary t with line := { (w.tributary t).line with
      zeroRun := if b then 0 else (w.tributary t).line.zeroRun + 1 } } := by
    rw [signalBit_quiet_run (by rw [shifted]; exact present) b (by rw [shifted]; exact short), tributary_onLine]
  rw [counted, shifted] at alike
  exact ⟨alike.entry, alike.clocking, alike.line, alike.flags⟩

/-- While the signal stays PRESENT a received bit reaches the framing side. -/
theorem receiveBit_present (present : (s.tributary t).line.signal = .present) (b : Bool)
    (short : (if b then 0 else (s.tributary t).line.zeroRun + 1) < 256) :
    s.receiveBit t b = (s.detected t b).framingBit t b := by
  have after : ((s.detected t b).tributary t).line.signal = .present := by
    rw [(detected_quietly present b short).line]; exact present
  rw [receiveBit_eq, if_pos ⟨present, after⟩]

theorem short_of {b : Bool} {n : Nat} (h : b = true ∨ n < 255) : (if b then 0 else n + 1) < 256 := by
  rcases h with rfl | h
  · rw [if_pos rfl]; decide
  · split <;> omega

/-! ### The search, bit by bit (R4) -/

theorem isAlignmentWord_iff (octet : BitVec 8) : isAlignmentWord octet = true ↔ octet.extractLsb' 0 7 = 0b0011011#7 := by
  simp [isAlignmentWord]

/-- In SEARCHING the framing side of a FRAMED tributary is its search (R4). -/
theorem framingBit_searching (framed : (s.tributary t).entry.framing = .framed)
    (searching : (s.tributary t).line.alignment = .searching) (b : Bool) : s.framingBit t b = s.searchBit t b := by
  simp only [State.framingBit, framed, searching]

theorem searchBit_hunt (phase : (s.tributary t).line.search = .hunt) (b : Bool) : s.searchBit t b
    = if 6 ≤ (s.tributary t).line.searchBits ∧ (s.tributary t).line.recent.extractLsb' 0 7 = 0b0011011#7 then
        s.onLine t (fun u => { u with search := .confirmOdd, searchBits := 6 })
      else s.onLine t (fun u => { u with searchBits := (s.tributary t).line.searchBits + 1 }) := by
  simp only [State.searchBit, phase, Bool.and_eq_true, decide_eq_true_eq, isAlignmentWord_iff, Nat.reduceLeDiff]

theorem searchBit_confirmOdd (phase : (s.tributary t).line.search = .confirmOdd) (b : Bool) : s.searchBit t b
    = if (s.tributary t).line.searchBits + 1 < 256 then
        s.onLine t (fun u => { u with searchBits := (s.tributary t).line.searchBits + 1 })
      else if b then
        s.onLine t (fun u => { u with search := .confirmEven, searchBits := (s.tributary t).line.searchBits + 1 })
      else s.onLine t (fun u => { u with search := .hunt, searchBits := 0 }) := by
  simp only [State.searchBit, phase]

theorem searchBit_confirmEven (phase : (s.tributary t).line.search = .confirmEven) (b : Bool) : s.searchBit t b
    = if (s.tributary t).line.searchBits + 1 < 518 then
        s.onLine t (fun u => { u with searchBits := (s.tributary t).line.searchBits + 1 })
      else if isAlignmentWord (s.tributary t).line.recent then s.declareAlignment t
      else s.onLine t (fun u => { u with search := .hunt, searchBits := 0 }) := by
  simp only [State.searchBit, phase]

/-- Settles O10, by the phase of the search. -/
theorem alignmentIsFoundInThreePhases : Obligations.AlignmentIsFoundInThreePhases := by
  intro t b s framed present searching zeros octet n
  have short := short_of zeros
  have quiet := detected_quietly present b short
  have form : s.receiveBits t [b] = (s.detected t b).searchBit t b := by
    rw [receiveBits_cons, receiveBits_nil, receiveBit_present present b short]
    exact framingBit_searching (by rw [quiet.entry, framed]) (by rw [quiet.line, searching]) b
  refine ⟨(s.detected t b).searchBit t b, congrArg Host.Outcome.next form, ?_, ?_⟩
  · rw [(FramingKept.searchBit (s.detected t b) t b).recent, quiet.line]; rfl
  have align : ((s.detected t b).flag (.tributary t .alignChange)) = s.flag (.tributary t .alignChange) :=
    quiet.flags _ (by decide)
  have line := quiet.line
  generalize s.detected t b = v at line align ⊢
  have recent : (v.tributary t).line.recent = octet := by rw [line]; rfl
  have aligned : (v.tributary t).line.alignment = .searching := by rw [line]; exact searching
  have bits : (v.tributary t).line.searchBits = n := by rw [line]
  have phase : (v.tributary t).line.search = (s.tributary t).line.search := by rw [line]
  intro x
  cases e : (s.tributary t).line.search with
  | idle =>
    have same : v.searchBit t b = v := by simp only [State.searchBit, phase, e]
    exact ⟨by rw [show x = (v.tributary t).line by rw [← same]]; exact aligned,
      by rw [show x = (v.tributary t).line by rw [← same]]; exact phase.trans e⟩
  | hunt =>
    have step := searchBit_hunt (phase.trans e) b
    rw [recent, bits] at step
    by_cases word : 6 ≤ n ∧ octet.extractLsb' 0 7 = 0b0011011#7
    · have after : x = { (v.tributary t).line with search := .confirmOdd, searchBits := 6 } := by
        show ((v.searchBit t b).tributary t).line = _
        rw [step, if_pos word, tributary_onLine]
      dsimp only
      rw [after, if_pos word]
      exact ⟨aligned, rfl, rfl⟩
    · have after : x = { (v.tributary t).line with searchBits := n + 1 } := by
        show ((v.searchBit t b).tributary t).line = _
        rw [step, if_neg word, tributary_onLine]
      dsimp only
      rw [after, if_neg word]
      exact ⟨aligned, phase.trans e, rfl⟩
  | confirmOdd =>
    have step := searchBit_confirmOdd (phase.trans e) b
    rw [bits] at step
    by_cases early : n < 255
    · have after : x = { (v.tributary t).line with searchBits := n + 1 } := by
        show ((v.searchBit t b).tributary t).line = _
        rw [step, if_pos (by omega), tributary_onLine]
      dsimp only
      rw [after, if_pos early]
      exact ⟨aligned, phase.trans e, rfl⟩
    · rw [if_neg (by omega)] at step
      cases b with
      | true =>
        have after : x = { (v.tributary t).line with search := .confirmEven, searchBits := n + 1 } := by
          show ((v.searchBit t true).tributary t).line = _
          rw [step, if_pos rfl, tributary_onLine]
        dsimp only
        rw [after, if_neg early, if_pos rfl]
        exact ⟨aligned, rfl, rfl⟩
      | false =>
        have after : x = { (v.tributary t).line with search := .hunt, searchBits := 0 } := by
          show ((v.searchBit t false).tributary t).line = _
          rw [step, if_neg (by decide), tributary_onLine]
        dsimp only
        rw [after, if_neg early, if_neg (by decide)]
        exact ⟨aligned, rfl, rfl⟩
  | confirmEven =>
    have step := searchBit_confirmEven (phase.trans e) b
    rw [bits, recent] at step
    by_cases early : n < 517
    · have after : x = { (v.tributary t).line with searchBits := n + 1 } := by
        show ((v.searchBit t b).tributary t).line = _
        rw [step, if_pos (by omega), tributary_onLine]
      dsimp only
      rw [after, if_pos early]
      exact ⟨aligned, phase.trans e, rfl⟩
    · rw [if_neg (by omega)] at step
      by_cases word : octet.extractLsb' 0 7 = 0b0011011#7
      · rw [if_pos ((isAlignmentWord_iff _).mpr word)] at step
        have declared := tributary_declareAlignment v t
        rw [← step, recent] at declared
        dsimp only
        rw [if_neg early, if_pos word, show x = _ from congrArg Tributary.line declared]
        refine ⟨rfl, rfl, rfl, rfl, rfl, rfl, rfl, rfl, ?_⟩
        rw [flag_tributary_of_raised (s := v) declared rfl, if_pos rfl, State.flagAfter, align]
        rfl
      · have after : x = { (v.tributary t).line with search := .hunt, searchBits := 0 } := by
          show ((v.searchBit t b).tributary t).line = _
          rw [step, if_neg (fun h => word ((isAlignmentWord_iff _).mp h)), tributary_onLine]
        dsimp only
        rw [after, if_neg early, if_neg word]
        exact ⟨aligned, rfl, rfl⟩

/-! ### The bits of an aligned frame (R5, R6) -/

theorem frameBit_open (short : (s.tributary t).line.frameBits + 1 < 256) : s.frameBit t = s.onLine t (fun u => { u with
      frameBits := (s.tributary t).line.frameBits + 1
      gathered := if ((s.tributary t).line.frameBits + 1) % 8 = 0 then
          (s.tributary t).line.gathered ++ [(s.tributary t).line.recent]
        else (s.tributary t).line.gathered }) := by
  simp only [State.frameBit, short, if_true]

theorem tributary_frameBit_open (short : (s.tributary t).line.frameBits + 1 < 256) : (s.frameBit t).tributary t
    = { s.tributary t with line := { (s.tributary t).line with
        frameBits := (s.tributary t).line.frameBits + 1
        gathered := if ((s.tributary t).line.frameBits + 1) % 8 = 0 then
            (s.tributary t).line.gathered ++ [(s.tributary t).line.recent]
          else (s.tributary t).line.gathered } } := by
  rw [frameBit_open short, tributary_onLine]

/-- In ALIGNED a bit joins the frame, and bit 2 of an odd frame and the last bit of slot 0 of an even one are judged (R5, R6). -/
theorem framingBit_aligned (framed : (s.tributary t).entry.framing = .framed)
    (aligned : (s.tributary t).line.alignment = .aligned) (b : Bool) : s.framingBit t b
    = if (s.tributary t).line.oddFrame = true ∧ (s.tributary t).line.frameBits = 2 then (s.frameBit t).alarmBit t b
      else if (s.tributary t).line.oddFrame = false ∧ (s.tributary t).line.frameBits = 7 then (s.frameBit t).wordCheck t
      else s.frameBit t := by
  simp only [State.framingBit, framed, aligned, Bool.and_eq_true, beq_iff_eq, Nat.reduceEqDiff, Bool.not_eq_true']

/-- A bit of an aligned frame, received. -/
theorem receiveBits_aligned (framed : (s.tributary t).entry.framing = .framed)
    (present : (s.tributary t).line.signal = .present) (aligned : (s.tributary t).line.alignment = .aligned) {b : Bool}
    (zeros : b = true ∨ (s.tributary t).line.zeroRun < 255) :
    DetectedQuietly (s.tributary t) ((s.detected t b).tributary t) b ∧ s.receiveBits t [b]
      = if (s.tributary t).line.oddFrame = true ∧ (s.tributary t).line.frameBits = 2 then
          ((s.detected t b).frameBit t).alarmBit t b
        else if (s.tributary t).line.oddFrame = false ∧ (s.tributary t).line.frameBits = 7 then
          ((s.detected t b).frameBit t).wordCheck t
        else (s.detected t b).frameBit t := by
  have quiet := detected_quietly present b (short_of zeros)
  refine ⟨quiet, ?_⟩
  have odd : ((s.detected t b).tributary t).line.oddFrame = (s.tributary t).line.oddFrame := by rw [quiet.line]
  have bits : ((s.detected t b).tributary t).line.frameBits = (s.tributary t).line.frameBits := by rw [quiet.line]
  rw [receiveBits_cons, receiveBits_nil, receiveBit_present present b (short_of zeros),
    framingBit_aligned (by rw [quiet.entry]; exact framed) (by rw [quiet.line]; exact aligned), odd, bits]

theorem wordCheck_good (word : isAlignmentWord (s.tributary t).line.recent = true) :
    s.wordCheck t = s.onLine t (fun u => { u with erroredRun := 0 }) := by
  simp only [State.wordCheck, word, if_true]

theorem wordCheck_errored (errored : isAlignmentWord (s.tributary t).line.recent = false) : s.wordCheck t
    = if (s.tributary t).line.erroredRun + 1 < 3 then s.onLine t (fun u => { u with erroredRun := u.erroredRun + 1 })
      else s.loseAlignment t .hunt := by
  simp only [State.wordCheck, errored, Bool.false_eq_true, if_false]

/-- The flags of a tributary after one flag and, on a condition, another. -/
theorem flag_tributary_of_raised_raisedIf {u : State} {k : Tributary} {f g : TributaryFlag} {d e : Detail} {P : Prop} [Decidable P]
    (h : u.tributary t = (k.raised f d).raisedIf (decide P) g e) (flags : k.flags = (s.tributary t).flags) (apart : f ≠ g) :
    u.flag (.tributary t f) = s.flagAfter (.tributary t f) d
    ∧ u.flag (.tributary t g) = if P then s.flagAfter (.tributary t g) e else s.flag (.tributary t g) := by
  simp only [State.flag, State.flagAfter, h, Tributary.flags_raisedIf, Tributary.flags_raised, flags, apart, apart.symm]
  simp

/-- Settles O11, by the word and the run of errored ones. -/
theorem thirdErroredWordEndsAlignment : Obligations.ThirdErroredWordEndsAlignment := by
  intro t b s framed present aligned even bits zeros octet
  obtain ⟨quiet, form⟩ := receiveBits_aligned framed present aligned zeros
  rw [if_neg (by rw [even]; simp), if_pos ⟨even, bits⟩] at form
  refine ⟨_, congrArg Host.Outcome.next form, ?_⟩
  have framesBits : ((s.detected t b).tributary t).line.frameBits = 7 := by rw [quiet.line]; exact bits
  have joined := tributary_frameBit_open (s := s.detected t b) (t := t) (by rw [framesBits]; decide)
  have line := quiet.line
  have align : (s.detected t b).flag (.tributary t .alignChange) = s.flag (.tributary t .alignChange) := quiet.flags _ (by decide)
  have alarm : (s.detected t b).flag (.tributary t .remoteAlarmChange) = s.flag (.tributary t .remoteAlarmChange) :=
    quiet.flags _ (by decide)
  generalize s.detected t b = v at joined line align alarm framesBits ⊢
  have recent : ((v.frameBit t).tributary t).line.recent = octet := by rw [joined, line]; rfl
  have count : ((v.frameBit t).tributary t).line.frameBits = 8 := by rw [joined]; simp only [framesBits]
  have held : ((v.frameBit t).tributary t).line.alignment = .aligned := by rw [joined, line]; exact aligned
  have run : ((v.frameBit t).tributary t).line.erroredRun = (s.tributary t).line.erroredRun := by rw [joined, line]
  have seen : ((v.frameBit t).tributary t).line.remoteAlarm = (s.tributary t).line.remoteAlarm := by rw [joined, line]
  have flags (g : TributaryFlag) : (v.frameBit t).flag (.tributary t g) = v.flag (.tributary t g) := by
    simp only [State.flag, joined]
  generalize v.frameBit t = w at recent count held run seen flags ⊢
  by_cases word : octet.extractLsb' 0 7 = 0b0011011#7
  · rw [if_pos word, wordCheck_good (by rw [recent]; exact (isAlignmentWord_iff _).mpr word), tributary_onLine]
    exact ⟨held, rfl, count⟩
  · have errored : isAlignmentWord (w.tributary t).line.recent = false := by
      rw [recent, Bool.eq_false_iff]; exact fun h => word ((isAlignmentWord_iff _).mp h)
    rw [if_neg word, wordCheck_errored errored, run]
    by_cases early : (s.tributary t).line.erroredRun < 2
    · rw [if_pos early, if_pos (by omega), tributary_onLine]
      exact ⟨held, count, by rw [← run]⟩
    · rw [if_neg early, if_neg (by omega)]
      have lost := tributary_loseAlignment w t .hunt
      rw [seen] at lost
      obtain ⟨changed, alarmed⟩ := flag_tributary_of_raised_raisedIf (s := w) lost rfl (by decide)
      refine ⟨by rw [lost]; rfl, by rw [lost]; rfl, by rw [lost]; rfl, by rw [lost]; rfl, by rw [lost]; rfl, ?_, ?_⟩
      · rw [changed, State.flagAfter, State.flagAfter, flags, align]
      · rw [alarmed, State.flagAfter, State.flagAfter, flags, alarm]

end Sys2Proof.Machine

/-! PROOFS. The remote alarm (R6) and the loss of signal after 256 zeros (R2). -/

namespace Sys2Proof.Machine

variable {s u : State} {t : Fin 16}

/-- The state a remote alarm indicator names (R6). -/
def indicatedBy (b : Bool) : SeenState := if b then .seen else .clear

/-- An indicator equal to the state held. -/
theorem alarmBit_same {b : Bool} (same : (s.tributary t).line.remoteAlarm = indicatedBy b) :
    s.alarmBit t b = s.onLine t (fun u => { u with lastIndicator := some b, alarmRun := 0 }) := by
  unfold indicatedBy at same
  simp only [State.alarmBit, same, if_true]

/-- The run of indicators that differ from the state held, with one more. -/
def LineUnit.differingRun (u : LineUnit) (b : Bool) : Nat := if u.lastIndicator = some b then u.alarmRun + 1 else 1

theorem alarmBit_first {b : Bool} (differs : (s.tributary t).line.remoteAlarm ≠ indicatedBy b)
    (one : (s.tributary t).line.differingRun b < 2) : s.alarmBit t b = s.onLine t (fun u => { u with
      lastIndicator := some b, alarmRun := (s.tributary t).line.differingRun b }) := by
  unfold indicatedBy at differs
  unfold LineUnit.differingRun at one ⊢
  simp only [State.alarmBit, differs, if_false, if_neg (Nat.not_le_of_lt one)]

theorem alarmBit_second {b : Bool} (differs : (s.tributary t).line.remoteAlarm ≠ indicatedBy b)
    (two : 2 ≤ (s.tributary t).line.differingRun b) : s.alarmBit t b = (s.onLine t (fun u => { u with
      lastIndicator := some b, alarmRun := 0, remoteAlarm := indicatedBy b })).raise (.tributary t .remoteAlarmChange)
        (.seen (indicatedBy b)) := by
  unfold indicatedBy at differs
  unfold LineUnit.differingRun at two
  simp only [State.alarmBit, differs, if_false, if_pos two, raiseTributary_eq]
  rfl

/-- Settles O12, by the indicator and the run of differing ones. -/
theorem remoteAlarmFollowsTwoIndicators : Obligations.RemoteAlarmFollowsTwoIndicators := by
  intro t b s framed present aligned odd bits zeros indicated x
  obtain ⟨quiet, form⟩ := receiveBits_aligned framed present aligned zeros
  rw [if_pos ⟨odd, bits⟩] at form
  refine ⟨_, congrArg Host.Outcome.next form, ?_⟩
  have line := quiet.line
  have framesBits : ((s.detected t b).tributary t).line.frameBits = 2 := by rw [line]; exact bits
  have joined := tributary_frameBit_open (s := s.detected t b) (t := t) (by rw [framesBits]; decide)
  have alarm : (s.detected t b).flag (.tributary t .remoteAlarmChange) = s.flag (.tributary t .remoteAlarmChange) :=
    quiet.flags _ (by decide)
  generalize s.detected t b = v at joined line alarm framesBits ⊢
  have count : ((v.frameBit t).tributary t).line.frameBits = 3 := by rw [joined]; simp only [framesBits]
  have held : ((v.frameBit t).tributary t).line.alignment = .aligned := by rw [joined, line]; exact aligned
  have seen : ((v.frameBit t).tributary t).line.remoteAlarm = x.remoteAlarm := by rw [joined, line]
  have run : ((v.frameBit t).tributary t).line.differingRun b = x.differingRun b := by rw [joined, line]; rfl
  have flag : (v.frameBit t).flag (.tributary t .remoteAlarmChange) = s.flag (.tributary t .remoteAlarmChange) := by
    rw [← alarm]; simp only [State.flag, joined]
  generalize v.frameBit t = w at count held seen run flag ⊢
  have kept (f : LineUnit → LineUnit) : (w.onLine t f).flag (.tributary t .remoteAlarmChange)
      = s.flag (.tributary t .remoteAlarmChange) := by
    rw [← flag]; simp only [State.flag, tributary_onLine]
  by_cases same : x.remoteAlarm = indicated
  · rw [if_pos same, alarmBit_same (by rw [seen]; exact same), tributary_onLine]
    exact ⟨count, rfl, held, seen, rfl, kept _⟩
  · have differs : (w.tributary t).line.remoteAlarm ≠ indicatedBy b := by rw [seen]; exact same
    rw [if_neg same]
    by_cases again : x.lastIndicator = some b ∧ 1 ≤ x.alarmRun
    · have two : 2 ≤ (w.tributary t).line.differingRun b := by
        rw [run, LineUnit.differingRun, if_pos again.1]; omega
      rw [if_pos again, alarmBit_second differs two, tributary_raise_self, tributary_onLine, flag_raise_self, kept]
      exact ⟨count, rfl, held, rfl, rfl, rfl⟩
    · have one : (w.tributary t).line.differingRun b = 1 := by
        rw [run, LineUnit.differingRun]
        split
        · next last =>
          have never : ¬1 ≤ x.alarmRun := fun h => again ⟨last, h⟩
          omega
        · rfl
      rw [if_neg again, alarmBit_first differs (by rw [one]; decide), tributary_onLine, kept, one]
      exact ⟨count, rfl, held, seen, rfl, rfl⟩

/-! ### A run of zeros (R2, R5) -/

/-- What zeros can do to the alignment and the remote alarm of a tributary: alignment may end, with the alarm CLEAR, and an alarm may
clear; nothing else, and no alignment is found, since the alignment word ends in a one (R4 to R6). -/
structure ZeroFate (k v : Tributary) : Prop where
  apart   : k.line.alignment ≠ .aligned → v.line.alignment = k.line.alignment ∧ v.line.remoteAlarm = k.line.remoteAlarm
              ∧ v.flags[TributaryFlag.alignChange.code.val] = k.flags[TributaryFlag.alignChange.code.val]
              ∧ v.flags[TributaryFlag.remoteAlarmChange.code.val] = k.flags[TributaryFlag.remoteAlarmChange.code.val]
  aligned : k.line.alignment = .aligned →
              (v.line.alignment = .aligned
                ∧ v.flags[TributaryFlag.alignChange.code.val] = k.flags[TributaryFlag.alignChange.code.val])
              ∨ (v.line.alignment = .searching ∧ v.line.remoteAlarm = .clear
                ∧ v.flags[TributaryFlag.alignChange.code.val]
                  = some ((k.flags[TributaryFlag.alignChange.code.val]).getD (.alignment .searching)))
  alarm   : k.line.alignment = .aligned →
              (v.line.remoteAlarm = k.line.remoteAlarm
                ∧ v.flags[TributaryFlag.remoteAlarmChange.code.val] = k.flags[TributaryFlag.remoteAlarmChange.code.val])
              ∨ (k.line.remoteAlarm = .seen ∧ v.line.remoteAlarm = .clear
                ∧ v.flags[TributaryFlag.remoteAlarmChange.code.val]
                  = some ((k.flags[TributaryFlag.remoteAlarmChange.code.val]).getD (.seen .clear)))

/-- A change of neither state nor their flags. -/
theorem ZeroFate.of_same {k v : Tributary} (alignment : v.line.alignment = k.line.alignment)
    (alarm : v.line.remoteAlarm = k.line.remoteAlarm)
    (flags : ∀ g ∈ [TributaryFlag.alignChange, .remoteAlarmChange], v.flags[g.code.val] = k.flags[g.code.val]) : ZeroFate k v :=
  ⟨fun _ => ⟨alignment, alarm, flags _ (by simp), flags _ (by simp)⟩,
    fun h => .inl ⟨alignment.trans h, flags _ (by simp)⟩, fun _ => .inl ⟨alarm, flags _ (by simp)⟩⟩

theorem ZeroFate.trans {k v w : Tributary} (h : ZeroFate k v) (i : ZeroFate v w) : ZeroFate k w := by
  refine ⟨fun apart => ?_, fun aligned => ?_, fun aligned => ?_⟩
  · obtain ⟨a, r, fa, fr⟩ := h.apart apart
    obtain ⟨a', r', fa', fr'⟩ := i.apart (by rw [a]; exact apart)
    exact ⟨a'.trans a, r'.trans r, fa'.trans fa, fr'.trans fr⟩
  · rcases h.aligned aligned with ⟨still, flag⟩ | ⟨ended, clear, flag⟩
    · rw [← flag]; exact i.aligned still
    · obtain ⟨a', r', fa', -⟩ := i.apart (by rw [ended]; decide)
      exact .inr ⟨a'.trans ended, r'.trans clear, fa'.trans flag⟩
  · rcases h.aligned aligned with ⟨still, -⟩ | ⟨ended, -, -⟩
    · rcases h.alarm aligned with ⟨same, flag⟩ | ⟨seen, clear, flag⟩
      · rw [← same, ← flag]; exact i.alarm still
      · rcases i.alarm still with ⟨same, flag'⟩ | ⟨seen', -, -⟩
        · exact .inr ⟨seen, same.trans clear, flag'.trans flag⟩
        · exact absurd (seen'.symm.trans clear) (by decide)
    · obtain ⟨-, r', -, fr'⟩ := i.apart (by rw [ended]; decide)
      rw [r', fr']
      exact h.alarm aligned

/-- A tributary whose alignment has ended (R5). -/
def Tributary.unaligned (k : Tributary) (search : SearchPhase) : Tributary :=
  (({ k with line := (k.line.unaligned search).unalarmed } : Tributary).raised .alignChange (.alignment .searching)).raisedIf
    (decide (k.line.remoteAlarm = .seen)) .remoteAlarmChange (.seen .clear)

theorem ZeroFate.unaligned {k : Tributary} (search : SearchPhase) (aligned : k.line.alignment = .aligned) :
    ZeroFate k (k.unaligned search) := by
  refine ⟨fun apart => absurd aligned apart, fun _ => .inr ⟨rfl, rfl, ?_⟩, fun _ => ?_⟩
  · rw [Tributary.unaligned, Tributary.flags_raisedIf, if_neg (by simp), Tributary.flags_raised, if_pos rfl]
  · rw [Tributary.unaligned, Tributary.flags_raisedIf, Tributary.flags_raised]
    cases k.line.remoteAlarm with
    | seen => exact .inr ⟨rfl, rfl, by simp⟩
    | clear => exact .inl ⟨rfl, by simp⟩

theorem ZeroFate.loseAlignment (s : State) (t : Fin 16) (search : SearchPhase) (aligned : (s.tributary t).line.alignment = .aligned) :
    ZeroFate (s.tributary t) ((s.loseAlignment t search).tributary t) := by
  rw [tributary_loseAlignment]
  exact .unaligned search aligned

theorem isAlignmentWord_shifted_false (u : LineUnit) : isAlignmentWord (u.shifted false) = false := by
  rw [Bool.eq_false_iff]
  intro word
  have bit := congrArg (fun x : BitVec 7 => x.getLsbD 0) ((isAlignmentWord_iff _).mp word)
  simp [LineUnit.shifted] at bit

/-- A bit that joins a frame changes nothing of the tributary but the frame in progress and the frame event's count and time. -/
theorem tributary_frameBit_rest (s : State) (t : Fin 16) : (s.frameBit t).tributary t
    = { s.tributary t with line := { (s.tributary t).line with
        frameBits := ((s.frameBit t).tributary t).line.frameBits, gathered := ((s.frameBit t).tributary t).line.gathered
        oddFrame := ((s.frameBit t).tributary t).line.oddFrame, frameCount := ((s.frameBit t).tributary t).line.frameCount
        lastEvent := ((s.frameBit t).tributary t).line.lastEvent } } := by
  unfold State.frameBit
  extract_lets w n gathered begun
  split
  · rw [tributary_onLine]
  · rw [tributary_receiveFrame, tributary_onLine]

theorem ZeroFate.frameBit (s : State) (t : Fin 16) : ZeroFate (s.tributary t) ((s.frameBit t).tributary t) := by
  rw [tributary_frameBit_rest]
  exact .of_same rfl rfl (fun _ _ => rfl)

theorem ZeroFate.onLine (s : State) (t : Fin 16) (f : LineUnit → LineUnit)
    (alignment : (f (s.tributary t).line).alignment = (s.tributary t).line.alignment)
    (alarm : (f (s.tributary t).line).remoteAlarm = (s.tributary t).line.remoteAlarm) :
    ZeroFate (s.tributary t) ((s.onLine t f).tributary t) := by
  rw [tributary_onLine]
  exact .of_same alignment alarm (fun _ _ => rfl)

theorem ZeroFate.wordCheck (aligned : (s.tributary t).line.alignment = .aligned)
    (errored : isAlignmentWord (s.tributary t).line.recent = false) :
    ZeroFate (s.tributary t) ((s.wordCheck t).tributary t) := by
  rw [wordCheck_errored errored]
  split
  · exact .onLine s t _ rfl rfl
  · exact .loseAlignment s t .hunt aligned

theorem ZeroFate.alarmBit (aligned : (s.tributary t).line.alignment = .aligned) :
    ZeroFate (s.tributary t) ((s.alarmBit t false).tributary t) := by
  by_cases same : (s.tributary t).line.remoteAlarm = indicatedBy false
  · rw [alarmBit_same same]; exact .onLine s t _ rfl rfl
  · rcases Nat.lt_or_ge ((s.tributary t).line.differingRun false) 2 with one | two
    · rw [alarmBit_first same one]; exact .onLine s t _ rfl rfl
    · have seen : (s.tributary t).line.remoteAlarm = .seen := by
        cases e : (s.tributary t).line.remoteAlarm with
        | seen => rfl
        | clear => exact absurd e same
      rw [alarmBit_second same two, tributary_raise_self, tributary_onLine]
      refine ⟨fun apart => absurd aligned apart, fun _ => .inl ⟨aligned, ?_⟩, fun _ => .inr ⟨seen, rfl, ?_⟩⟩
      · rw [Tributary.flags_raised, if_neg (by decide)]
      · rw [Tributary.flags_raised, if_pos rfl]; rfl

theorem ZeroFate.searchBit (noWord : isAlignmentWord (s.tributary t).line.recent = false) :
    ZeroFate (s.tributary t) ((s.searchBit t false).tributary t) := by
  cases phase : (s.tributary t).line.search with
  | idle =>
    have same : s.searchBit t false = s := by simp only [State.searchBit, phase]
    rw [same]
    exact .of_same rfl rfl (fun _ _ => rfl)
  | hunt =>
    rw [searchBit_hunt phase]
    split <;> exact .onLine s t _ rfl rfl
  | confirmOdd =>
    rw [searchBit_confirmOdd phase]
    split
    · exact .onLine s t _ rfl rfl
    · split <;> exact .onLine s t _ rfl rfl
  | confirmEven =>
    rw [searchBit_confirmEven phase, noWord]
    simp only [Bool.false_eq_true, if_false]
    split
    · exact .onLine s t _ rfl rfl
    · exact .onLine s t _ rfl rfl

/-- A zero at the framing side. -/
theorem ZeroFate.framingBit (noWord : isAlignmentWord (s.tributary t).line.recent = false) :
    ZeroFate (s.tributary t) ((s.framingBit t false).tributary t) := by
  have idle : ZeroFate (s.tributary t) (s.tributary t) := .of_same rfl rfl (fun _ _ => rfl)
  cases framing : (s.tributary t).entry.framing with
  | off =>
    have same : s.framingBit t false = s := by simp only [State.framingBit, framing]
    rw [same]; exact idle
  | unframed =>
    have same : s.framingBit t false = s.frameBit t := by simp only [State.framingBit, framing]
    rw [same]; exact .frameBit s t
  | framed =>
    cases alignment : (s.tributary t).line.alignment with
    | searching => rw [framingBit_searching framing alignment]; exact .searchBit noWord
    | notFramed =>
      have same : s.framingBit t false = s := by simp only [State.framingBit, framing, alignment]
      rw [same]; exact idle
    | aligned =>
      have joined := tributary_frameBit_rest s t
      have held : ((s.frameBit t).tributary t).line.alignment = .aligned := by rw [joined]; exact alignment
      have errored : isAlignmentWord ((s.frameBit t).tributary t).line.recent = false := by rw [joined]; exact noWord
      rw [framingBit_aligned framing alignment]
      split
      · exact (ZeroFate.frameBit s t).trans (.alarmBit held)
      · split
        · exact (ZeroFate.frameBit s t).trans (.wordCheck held errored)
        · exact .frameBit s t

/-- What zeros that declare nothing leave of a tributary whose signal is PRESENT (R2). -/
structure ZerosTaken (k v : Tributary) (n : Nat) : Prop where
  clocking : v.clocking = k.clocking
  present  : v.line.signal = .present
  run      : v.line.zeroRun = k.line.zeroRun + n
  fate     : ZeroFate k v
  flags    : ∀ g ∈ [TributaryFlag.signalChange, .clockModeChange], v.flags[g.code.val] = k.flags[g.code.val]

theorem receiveBit_zero (present : (s.tributary t).line.signal = .present) (short : (s.tributary t).line.zeroRun + 1 < 256) :
    ZerosTaken (s.tributary t) ((s.receiveBit t false).tributary t) 1 := by
  have quiet := detected_quietly (t := t) present false short
  rw [receiveBit_present present false short]
  have kept := FramingKept.framingBit (s.detected t false) t false
  have noWord : isAlignmentWord ((s.detected t false).tributary t).line.recent = false := by
    rw [quiet.line]; exact isAlignmentWord_shifted_false _
  have same : ZeroFate (s.tributary t) ((s.detected t false).tributary t) :=
    .of_same (by rw [quiet.line]) (by rw [quiet.line]) (fun g own => quiet.flags g (by rintro rfl; simp at own))
  refine ⟨kept.clocking.trans quiet.clocking, kept.signal.1.trans (by rw [quiet.line]; exact present),
    kept.signal.2.trans (by rw [quiet.line]; rfl), same.trans (.framingBit noWord), fun g own => ?_⟩
  rw [kept.flags g (by rintro rfl; simp at own) (by rintro rfl; simp at own)]
  exact quiet.flags g (by rintro rfl; simp at own)

theorem receiveBits_zeros (n : Nat) (s : State) (present : (s.tributary t).line.signal = .present)
    (short : (s.tributary t).line.zeroRun + n < 256) :
    ZerosTaken (s.tributary t) ((s.receiveBits t (List.replicate n false)).tributary t) n := by
  induction n generalizing s with
  | zero => exact ⟨rfl, present, rfl, .of_same rfl rfl (fun _ _ => rfl), fun _ _ => rfl⟩
  | succ n ih =>
    have one := receiveBit_zero present (by omega)
    have rest := ih (s.receiveBit t false) one.present (by rw [one.run]; omega)
    rw [List.replicate_succ, receiveBits_cons]
    exact ⟨rest.clocking.trans one.clocking, rest.present, by rw [rest.run, one.run]; omega, one.fate.trans rest.fate,
      fun g own => (rest.flags g own).trans (one.flags g own)⟩

/-! ### The last zero of 256 (R2, R155) -/

/-- A line unit whose signal has just been declared lost, before its alignment ends (R2). -/
def LineUnit.lost (u : LineUnit) : LineUnit :=
  { u with
    signal := .lost, zeroRun := 0, blockBits := 0, blockOnes := 0, source := .generated
    search := .idle, searchBits := 0, frameBits := 0, gathered := [] }

/-- A tributary whose signal has just been declared lost, before its alignment ends and LOOP follows (R2). -/
def Tributary.lost (k : Tributary) : Tributary :=
  ({ k with line := k.line.lost } : Tributary).raised .signalChange (.signal .lost)

theorem flags_lost (k : Tributary) (g : TributaryFlag) : k.lost.flags[g.code.val]
    = if g = .signalChange then some ((k.flags[g.code.val]).getD (.signal .lost)) else k.flags[g.code.val] :=
  Tributary.flags_raised _ _ _ _

/-- The end of alignment at a loss of signal, where there was alignment (R5). -/
def Tributary.lostAlignment (k : Tributary) : Tributary := if k.line.alignment = .aligned then k.unaligned .idle else k

theorem tributary_declareLoss (s : State) (t : Fin 16) :
    (s.declareLoss t).tributary t = (s.tributary t).lost.lostAlignment.followed := by
  simp only [State.declareLoss, tributary_loopFollows]
  congr 1
  have lost : ((s.onLine t LineUnit.lost).raiseTributary t .signalChange (.signal .lost)).tributary t = (s.tributary t).lost := by
    rw [raiseTributary_eq, tributary_raise_self, tributary_onLine]; rfl
  have alignment : (s.tributary t).lost.line.alignment = (s.tributary t).line.alignment := rfl
  rw [Tributary.lostAlignment, alignment]
  split
  · refine (tributary_loseAlignment _ t .idle).trans ?_
    have again : ((s.onLine t (fun u => u.lost)).raiseTributary t .signalChange (.signal .lost)).tributary t
        = (s.tributary t).lost := lost
    simp only [LineUnit.lost] at again
    rw [again]
    rfl
  · exact lost

theorem lostAlignment_fate (k : Tributary) : ZeroFate k k.lostAlignment ∧ k.lostAlignment.line.alignment ≠ .aligned := by
  unfold Tributary.lostAlignment
  split
  · next aligned =>
    refine ⟨.unaligned .idle aligned, ?_⟩
    show AlignmentState.searching ≠ .aligned
    decide
  · next apart => exact ⟨.of_same rfl rfl (fun _ _ => rfl), apart⟩

/-- The end of alignment leaves the detectors, the clock and the other flags. -/
theorem lostAlignment_rest (k : Tributary) : k.lostAlignment.clocking = k.clocking
    ∧ k.lostAlignment.line.signal = k.line.signal ∧ k.lostAlignment.line.zeroRun = k.line.zeroRun
    ∧ k.lostAlignment.line.blockBits = k.line.blockBits ∧ k.lostAlignment.line.blockOnes = k.line.blockOnes
    ∧ (k.line.source = .generated → k.lostAlignment.line.source = .generated)
    ∧ (k.line.search = .idle → k.lostAlignment.line.search = .idle)
    ∧ ∀ g ∈ [TributaryFlag.signalChange, .clockModeChange], k.lostAlignment.flags[g.code.val] = k.flags[g.code.val] := by
  unfold Tributary.lostAlignment
  split
  · refine ⟨rfl, rfl, rfl, rfl, rfl, fun _ => rfl, fun _ => rfl, fun g own => ?_⟩
    rw [Tributary.unaligned, Tributary.flags_raisedIf, Tributary.flags_raised]
    rw [if_neg (by rintro ⟨_, rfl⟩; simp at own), if_neg (by rintro rfl; simp at own)]
  · exact ⟨rfl, rfl, rfl, rfl, rfl, id, id, fun _ _ => rfl⟩

/-- R155 at a loss of signal: LOOP gives way to FREE, with its flag. -/
theorem followed_lost {k : Tributary} (lost : k.line.signal = .lost) :
    if k.clocking.inForce = .loop ∧ k.clocking.actual = .loop then k.followed.clocking.actual = .free
        ∧ k.followed.flags[TributaryFlag.clockModeChange.code.val]
          = some ((k.flags[TributaryFlag.clockModeChange.code.val]).getD (.clockMode .free))
      else k.followed.clocking.actual = k.clocking.actual
        ∧ k.followed.flags[TributaryFlag.clockModeChange.code.val] = k.flags[TributaryFlag.clockModeChange.code.val] := by
  unfold Tributary.followed
  split
  · next loop =>
    rw [if_pos ⟨loop.1, lost, loop.2⟩]
    refine ⟨rfl, ?_⟩
    rw [Tributary.flags_raised, if_pos rfl]; rfl
  · next apart =>
    rw [if_neg (fun h => apart ⟨h.1, h.2.2⟩), if_neg (fun h => absurd (h.2.1.symm.trans lost) (by decide))]
    exact ⟨rfl, rfl⟩

/-- What the last of 256 zeros leaves of its tributary. -/
theorem receiveBit_lastZero (present : (s.tributary t).line.signal = .present) (full : (s.tributary t).line.zeroRun = 255) :
    ∃ k : Tributary, k.clocking = (s.tributary t).clocking ∧ k.flags = (s.tributary t).flags
      ∧ k.line = { (s.tributary t).line with recent := k.line.recent }
      ∧ AlikeButAis k.lost.lostAlignment.followed ((s.receiveBit t false).tributary t) := by
  obtain ⟨x, shifted⟩ := tributary_shifted s t false
  refine ⟨{ s.tributary t with transmit := x, line := { (s.tributary t).line with recent := (s.tributary t).line.shifted false } },
    rfl, rfl, rfl, ?_⟩
  have reached : AlikeButAis ((({ s.tributary t with transmit := x, line := { (s.tributary t).line with
      recent := (s.tributary t).line.shifted false } } : Tributary)).lost.lostAlignment.followed) ((s.detected t false).tributary t) := by
    rw [State.detected]
    generalize (s.loopBit t).onLine t (fun u => { u with recent := (u.recent <<< 1) ||| BitVec.ofNat 8 false.toNat }) = w
      at shifted ⊢
    have alike := AlikeButAis.aisBit (w.signalBit t false) t false
    have declared : (w.signalBit t false).tributary t = (w.tributary t).lost.lostAlignment.followed := by
      rw [signalBit_loss (by rw [shifted]; exact present) (by rw [shifted]; exact full.ge), tributary_declareLoss]
    rw [declared, shifted] at alike
    exact alike
  have signal : ((s.detected t false).tributary t).line.signal = .lost := by
    rw [reached.line, (followed_line _).1]
    exact (lostAlignment_rest _).2.1
  rw [receiveBit_eq, if_neg (fun h => absurd (h.2.symm.trans signal) (by decide))]
  exact reached

/-- What 256 zeros leave of a tributary (R2, R5, R155). -/
theorem lossDeclared {k₀ k v : Tributary} (fate : ZeroFate k₀ k) (clocking : k.clocking = k₀.clocking)
    (flags : ∀ g ∈ [TributaryFlag.signalChange, .clockModeChange], k.flags[g.code.val] = k₀.flags[g.code.val])
    (alike : AlikeButAis k.lost.lostAlignment.followed v) :
    v.line.signal = .lost ∧ v.line.source = .generated ∧ v.line.search = .idle ∧ v.line.zeroRun = 0 ∧ v.line.blockBits = 0
    ∧ v.line.blockOnes = 0 ∧ v.line.alignment ≠ .aligned ∧ ZeroFate k₀ v
    ∧ v.flags[TributaryFlag.signalChange.code.val]
      = some ((k₀.flags[TributaryFlag.signalChange.code.val]).getD (.signal .lost))
    ∧ (if k₀.clocking.inForce = .loop ∧ k₀.clocking.actual = .loop then v.clocking.actual = .free
        ∧ v.flags[TributaryFlag.clockModeChange.code.val]
          = some ((k₀.flags[TributaryFlag.clockModeChange.code.val]).getD (.clockMode .free))
      else v.clocking.actual = k₀.clocking.actual
        ∧ v.flags[TributaryFlag.clockModeChange.code.val] = k₀.flags[TributaryFlag.clockModeChange.code.val]) := by
  obtain ⟨fateLost, ended⟩ := lostAlignment_fate k.lost
  obtain ⟨clock, signal, run, bits, ones, source, search, kept⟩ := lostAlignment_rest k.lost
  obtain ⟨line, -⟩ := followed_line k.lost.lostAlignment
  have followed := followed_lost (k := k.lost.lostAlignment) signal
  have lineOf := alike.line
  rw [line] at lineOf
  have markedLost : ZeroFate k k.lost := .of_same rfl rfl (fun g own => by
    rw [flags_lost, if_neg (by rintro rfl; simp at own)])
  have followedFate : ZeroFate k.lost.lostAlignment k.lost.lostAlignment.followed := .of_same (by rw [line]) (by rw [line])
    (fun g own => followed_flags _ g (by rintro rfl; simp at own))
  have alikeFate : ZeroFate k.lost.lostAlignment.followed v := .of_same (by rw [alike.line]) (by rw [alike.line])
    (fun g own => alike.flags g (by rintro rfl; simp at own))
  refine ⟨by rw [lineOf]; exact signal, by rw [lineOf]; exact source rfl, by rw [lineOf]; exact search rfl,
    by rw [lineOf]; exact run, by rw [lineOf]; exact bits, by rw [lineOf]; exact ones, by rw [lineOf]; exact ended,
    (((fate.trans markedLost).trans fateLost).trans followedFate).trans alikeFate, ?_, ?_⟩
  · rw [alike.flags _ (by decide), followed_flags _ _ (by decide), kept _ (by simp), flags_lost, if_pos rfl, flags _ (by simp)]
  · have flag : k.lost.lostAlignment.flags[TributaryFlag.clockModeChange.code.val]
        = k₀.flags[TributaryFlag.clockModeChange.code.val] := by
      rw [kept _ (by simp), flags_lost, if_neg (by decide), flags _ (by simp)]
    rw [clock, flag, show k.lost.clocking = k₀.clocking from clocking] at followed
    rw [alike.clocking, alike.flags _ (by decide)]
    exact followed

/-! ### Ones (R2) -/

theorem receiveBit_one (present : (s.tributary t).line.signal = .present) :
    ((s.receiveBit t true).tributary t).line.signal = .present ∧ ((s.receiveBit t true).tributary t).line.zeroRun = 0
    ∧ (s.receiveBit t true).flag (.tributary t .signalChange) = s.flag (.tributary t .signalChange) := by
  have short : (if true then 0 else (s.tributary t).line.zeroRun + 1) < 256 := short_of (.inl rfl)
  have quiet := detected_quietly present true short
  have kept := FramingKept.framingBit (s.detected t true) t true
  rw [receiveBit_present present true short]
  exact ⟨kept.signal.1.trans (by rw [quiet.line]; exact present), kept.signal.2.trans (by rw [quiet.line]; rfl),
    (kept.flags _ (by decide) (by decide)).trans (quiet.flags _ (by decide))⟩

theorem receiveBits_ones (n : Nat) (s : State) (present : (s.tributary t).line.signal = .present) :
    ((s.receiveBits t (List.replicate (n + 1) true)).tributary t).line.signal = .present
    ∧ ((s.receiveBits t (List.replicate (n + 1) true)).tributary t).line.zeroRun = 0
    ∧ (s.receiveBits t (List.replicate (n + 1) true)).flag (.tributary t .signalChange)
      = s.flag (.tributary t .signalChange) := by
  induction n generalizing s with
  | zero => exact receiveBit_one present
  | succ n ih =>
    obtain ⟨still, -, flag⟩ := receiveBit_one present
    obtain ⟨last, run, flags⟩ := ih (s.receiveBit t true) still
    rw [List.replicate_succ, receiveBits_cons]
    exact ⟨last, run, flags.trans flag⟩

/-- Settles O7: zeros before the last, the last zero, and ones. -/
theorem lossOfSignalAfter256Zeros : Obligations.LossOfSignalAfter256Zeros := by
  intro t n s present run
  refine ⟨fun full => ?_, fun short => ?_, fun begun => ?_⟩
  · obtain ⟨m, rfl⟩ : ∃ m, n = m + 1 := ⟨n - 1, by omega⟩
    have zeros := receiveBits_zeros m s present (by omega)
    have cut : s.receiveBits t (List.replicate (m + 1) false) = (s.receiveBits t (List.replicate m false)).receiveBit t false := by
      rw [List.replicate_succ', receiveBits_append]; rfl
    refine ⟨_, congrArg Host.Outcome.next cut, ?_⟩
    generalize s.receiveBits t (List.replicate m false) = v at zeros ⊢
    obtain ⟨k, clocking, flags, line, alike⟩ := receiveBit_lastZero zeros.present (by rw [zeros.run]; omega)
    have fate : ZeroFate (s.tributary t) k := zeros.fate.trans (.of_same (by rw [line]) (by rw [line]) (fun _ _ => by rw [flags]))
    obtain ⟨signal, source, search, zeroRun, blockBits, blockOnes, ended, final, changed, clock⟩ := lossDeclared fate
      (clocking.trans zeros.clocking) (fun g own => by rw [flags]; exact zeros.flags g own) alike
    refine ⟨signal, ended, source, search, zeroRun, blockBits, blockOnes, changed, ?_, clock⟩
    intro was
    by_cases aligned : was.alignment = .aligned
    · rw [if_pos aligned]
      rcases final.aligned aligned with ⟨still, -⟩ | ⟨searching, clear, flag⟩
      · exact absurd still ended
      · refine ⟨searching, clear, flag, ?_⟩
        rcases final.alarm aligned with ⟨same, kept⟩ | ⟨seen, -, set⟩
        · rw [if_neg (fun seen => absurd ((same.trans seen).symm.trans clear) (by decide))]
          exact kept
        · rw [if_pos seen]
          exact set
    · rw [if_neg aligned]
      exact final.apart aligned
  · have zeros := receiveBits_zeros n s present short
    exact ⟨_, rfl, zeros.present, zeros.run, zeros.flags _ (by simp)⟩
  · obtain ⟨m, rfl⟩ : ∃ m, n = m + 1 := ⟨n - 1, by omega⟩
    exact ⟨_, rfl, receiveBits_ones m s present⟩

end Sys2Proof.Machine

/-! PROOFS. What received bits and receive frame events leave alone (R1 to R10). -/

namespace Sys2Proof.Machine

variable {s u : State} {t : Fin 16} {c : Fin 64} {p : Port}

theorem OnlyReceive.refl (s : State) (t : Fin 16) : OnlyReceive s s t :=
  ⟨.refl s, .refl s, fun _ _ => rfl, rfl, rfl, rfl, fun _ => rfl, fun _ _ => rfl, fun _ => rfl⟩

theorem OnlyReceive.trans {w : State} (h : OnlyReceive s u t) (i : OnlyReceive u w t) : OnlyReceive s w t where
  run := h.run.trans i.run
  events := h.events.trans i.events
  others := fun v apart => (i.others v apart).trans (h.others v apart)
  entry := i.entry.trans h.entry
  clocking := by rw [i.clocking, h.clocking]
  transmit := by rw [i.transmit, h.transmit]
  circuits := fun c => by rw [i.circuits c, h.circuits c]
  apart := fun c away => by
    have still : ((u.circuit c).engaged && (u.circuit c).names t) = false := by rw [h.apart c away]; exact away
    rw [i.apart c still, h.apart c away]
  ports := fun p => by rw [i.ports p, h.ports p]

/-- A tributary's clock but for the actual mode and the bit in progress. -/
structure ClockKept (k v : Tributary) : Prop where
  clocking : v.clocking = { k.clocking with actual := v.clocking.actual }
  transmit : v.transmit = { k.transmit with bits := v.transmit.bits, bitTime := v.transmit.bitTime }

theorem ClockKept.of_same {k v : Tributary} (clocking : v.clocking = k.clocking) (transmit : v.transmit = k.transmit) :
    ClockKept k v := ⟨by rw [clocking], by rw [transmit]⟩

theorem ClockKept.followed {k v : Tributary} (clocking : v.clocking = k.clocking) (transmit : v.transmit = k.transmit) :
    ClockKept k v.followed := by
  have moved (m : ClockMode) : (v.changeMode m).transmit
      = { v.transmit with bits := (v.changeMode m).transmit.bits, bitTime := (v.changeMode m).transmit.bitTime } := by
    rcases changeMode_transmit v m with e | ⟨_, _, _, e⟩ <;> rw [e]
  unfold Tributary.followed
  split
  · exact ⟨by rw [← clocking]; rfl, by rw [← transmit]; exact moved .free⟩
  · split
    · exact ⟨by rw [← clocking]; rfl, by rw [← transmit]; exact moved .loop⟩
    · exact .of_same clocking transmit

theorem OnlyTributary.onlyReceive (only : OnlyTributary s u t) (kept : ClockKept (s.tributary t) (u.tributary t)) :
    OnlyReceive s u t :=
  ⟨only.run, only.events, only.others, only.entry, kept.clocking, kept.transmit,
    fun c => by rw [State.circuit_congr only.circuits c], fun c _ => State.circuit_congr only.circuits c,
    fun p => by rw [State.port_congr only.ports p]⟩

theorem FramingKept.clockKept {k v : Tributary} (h : FramingKept k v) : ClockKept k v := .of_same h.clocking h.transmit

theorem ClockKept.signalBit (s : State) (t : Fin 16) (b : Bool) : ClockKept (s.tributary t) ((s.signalBit t b).tributary t) := by
  have line (f : LineUnit → LineUnit) : ClockKept (s.tributary t) ((s.onLine t f).tributary t) := by
    rw [tributary_onLine]; exact .of_same rfl rfl
  unfold State.signalBit
  extract_lets w run ones
  split
  · split
    · rw [tributary_declareLoss]
      refine .followed (lostAlignment_rest _).1 ?_
      unfold Tributary.lostAlignment
      split <;> rfl
    · exact line _
  · split
    · exact line _
    · split
      · obtain ⟨v, form, cleared⟩ := clearLoss_eq s t
        rw [form, tributary_loopFollows, cleared]
        exact .followed rfl rfl
      · exact line _

theorem OnlyReceive.onLine (s : State) (t : Fin 16) (f : LineUnit → LineUnit) : OnlyReceive s (s.onLine t f) t :=
  ((OnlyTributary.refl s t).thenLine f).onlyReceive (by rw [tributary_onLine]; exact .of_same rfl rfl)

/-! ### A receive frame event (R8 to R10) -/

/-- What the packetizer of one circuit on a tributary leaves alone when it takes a frame. -/
theorem OnlyReceive.ofCircuit (names : (s.circuit c).engaged = true ∧ (s.circuit c).names t = true)
    (only : OnlyCircuitAndPorts s u c) (tributaries : u.tributaries = s.tributaries)
    (circuit : u.circuit c = { s.circuit c with packetizer := (u.circuit c).packetizer, counters := (u.circuit c).counters })
    (ports : ∀ p, u.port p = { s.port p with
      circuitQueue := (u.port p).circuitQueue, counters := (u.port p).counters, flags := (u.port p).flags }) :
    OnlyReceive s u t where
  run := ⟨only.run.lt, only.run.answer, only.run.draws, only.run.pending⟩
  events := only.events
  others := fun v _ => State.tributary_congr tributaries v
  entry := by rw [State.tributary_congr tributaries]
  clocking := by rw [State.tributary_congr tributaries]
  transmit := by rw [State.tributary_congr tributaries]
  circuits := fun d => by
    by_cases same : d = c
    · subst same; exact circuit
    · have other : u.circuit d = s.circuit d := only.others d same
      rw [other]
  apart := fun d away => by
    have other : d ≠ c := by
      rintro rfl
      rw [names.1, names.2] at away
      cases away
    exact only.others d other
  ports := ports

theorem offered_rest (k : PortState) (x : Copy) : k.offered x = { k with
    circuitQueue := (k.offered x).circuitQueue, counters := (k.offered x).counters, flags := (k.offered x).flags } := by
  unfold PortState.offered
  split <;> rfl

theorem completePacket_ports (s : State) (c : Fin 64) (a : Assembly) (p : Port) : (s.completePacket c a).port p = { s.port p with
    circuitQueue := ((s.completePacket c a).port p).circuitQueue, counters := ((s.completePacket c a).port p).counters
    flags := ((s.completePacket c a).port p).flags } := by
  cases record : (s.circuit c).entry.paths.get p with
  | none => rw [(completePacket_absent record).1]
  | some r =>
    cases link : (s.port p).link with
    | down => rw [(completePacket_down record link).1]
    | up => rw [(completePacket_up record link).1]; exact offered_rest _ _

theorem OnlyReceive.completePacket (names : (s.circuit c).engaged = true ∧ (s.circuit c).names t = true) (a : Assembly) :
    OnlyReceive s (s.completePacket c a) t :=
  .ofCircuit names (completePacket_only s c a) (tributaries_completePacket s c a)
    (by rw [circuit_completePacket]; rfl) (completePacket_ports s c a)

theorem OnlyReceive.collectOf (s : State) (t : Fin 16) (stamp : Ticks) (frame : List Byte) (faulted : Bool) (c : Fin 64) :
    OnlyReceive s (s.collectOf t stamp frame faulted c) t := by
  unfold State.collectOf
  split
  · next names =>
    rw [Bool.and_eq_true] at names
    have packed (f : Packetizer → Packetizer) : OnlyReceive s (s.onPacketizer c f) t :=
      .ofCircuit names ((OnlyCircuit.refl s c).thenPacketizer f).andPorts rfl
        (by rw [onPacketizer_eq, circuit_onCircuit_self]) (fun p => by rw [onPacketizer_eq, port_onCircuit])
    simp only [State.collectFrame]
    split
    · exact packed _
    · split
      · refine (packed _).trans (.completePacket ?_ _)
        rw [onPacketizer_eq, circuit_onCircuit_self]
        exact names
      · exact packed _
  · exact .refl s t

theorem OnlyReceive.receiveFrame (s : State) (t : Fin 16) (frame : List Byte) (faulted : Bool) :
    OnlyReceive s (s.receiveFrame t frame faulted) t := by
  rw [receiveFrame_eq]
  refine .trans (forEach_relation (OnlyReceive · · t) (fun s => .refl s t) (fun h i => h.trans i) _
    (fun c s => OnlyReceive.collectOf s t _ frame faulted c) allCircuits s) (.onLine _ t _)

/-! ### A received bit (R1 to R8) -/

theorem OnlyReceive.frameBit (s : State) (t : Fin 16) : OnlyReceive s (s.frameBit t) t := by
  unfold State.frameBit
  extract_lets w n gathered begun
  split
  · exact .onLine s t _
  · exact (OnlyReceive.onLine s t _).trans (.receiveFrame _ t _ _)

theorem OnlyReceive.framingBit (s : State) (t : Fin 16) (b : Bool) : OnlyReceive s (s.framingBit t b) t := by
  unfold State.framingBit
  extract_lets k n odd framed
  split
  · exact .refl s t
  · exact .frameBit s t
  · exact (searchBit_only s t b).onlyReceive (FramingKept.searchBit s t b).clockKept
  · exact .refl s t
  · split
    · exact (OnlyReceive.frameBit s t).trans ((alarmBit_only framed t b).onlyReceive (FramingKept.alarmBit framed t b).clockKept)
    · split
      · exact (OnlyReceive.frameBit s t).trans ((wordCheck_only framed t).onlyReceive (FramingKept.wordCheck framed t).clockKept)
      · exact .frameBit s t

theorem OnlyReceive.loopBit (s : State) (t : Fin 16) : OnlyReceive s (s.loopBit t) t := by
  refine (loopBit_only s t).onlyReceive ?_
  unfold State.loopBit
  split
  · rw [onTransmit_eq, tributary_onTributary_self]; exact ⟨rfl, rfl⟩
  · exact .of_same rfl rfl

theorem OnlyReceive.receiveBit (s : State) (t : Fin 16) (b : Bool) : OnlyReceive s (s.receiveBit t b) t := by
  have ais (v : State) : OnlyReceive v (v.aisBit t b) t := (aisBit_only v t b).onlyReceive (by
    rw [tributary_aisBit]; exact .of_same rfl rfl)
  have signal (v : State) : OnlyReceive v (v.signalBit t b) t := (signalBit_only v t b).onlyReceive (.signalBit v t b)
  have detected : OnlyReceive s (s.detected t b) t :=
    (((OnlyReceive.loopBit s t).trans (.onLine _ t _)).trans (signal _)).trans (ais _)
  rw [receiveBit_eq]
  split
  · exact detected.trans (.framingBit _ t b)
  · exact detected

theorem OnlyReceive.receiveBits (s : State) (t : Fin 16) (bits : List Bool) : OnlyReceive s (s.receiveBits t bits) t :=
  forEach_relation (OnlyReceive · · t) (fun s => .refl s t) (fun h i => h.trans i) _
    (fun b s => OnlyReceive.receiveBit s t b) bits s

/-- Settles O6: each of the line commands is the bits it brings. -/
theorem lineCommandsTakeBitsInOrder : Obligations.LineCommandsTakeBitsInOrder := by
  intro t i line s
  have form (bits : List Bool) (s : State) : exec (i bits) s = .next (s.receiveBits t bits) := by
    simp only [List.mem_cons, List.not_mem_nil, or_false] at line
    rcases line with rfl | rfl | rfl | rfl | rfl | rfl | rfl <;> rfl
  refine ⟨form [] s, fun bits more u step => ?_, fun bits => ⟨_, form bits s, .receiveBits s t bits⟩⟩
  rw [form, Host.Outcome.next.injEq] at step
  rw [form, form, receiveBits_append, step]

end Sys2Proof.Machine

/-! PROOFS. What a receive frame event makes of the packetizers and the trunk ports (R8 to R10, R73 to R78). -/

namespace Sys2Proof.Machine

variable {s u : State} {t : Fin 16} {c : Fin 64} {p : Port} {stamp : Ticks} {framing : Framing} {frame : List Byte}
  {faulted : Bool}

/-! ### Copies brought to a port, one after the other (R76, R78) -/

/-- A port to whose circuit queue the copies of a receive frame event have been brought, in order; none is with the link DOWN. -/
def PortState.taking (k : PortState) (copies : List Copy) : PortState :=
  match k.link with
  | .up => copies.foldl PortState.offered k
  | .down => k

theorem offered_link (k : PortState) (x : Copy) : (k.offered x).link = k.link := by
  rw [offered_rest]

theorem foldl_offered_link (copies : List Copy) (k : PortState) : (copies.foldl PortState.offered k).link = k.link := by
  induction copies generalizing k with
  | nil => rfl
  | cons x rest ih => rw [List.foldl_cons, ih, offered_link]

theorem taking_up {k : PortState} (up : k.link = .up) (copies : List Copy) :
    k.taking copies = copies.foldl PortState.offered k := by simp only [PortState.taking, up]

theorem taking_down {k : PortState} (down : k.link = .down) (copies : List Copy) : k.taking copies = k := by
  simp only [PortState.taking, down]

theorem taking_nil (k : PortState) : k.taking [] = k := by
  unfold PortState.taking
  split <;> rfl

theorem taking_link (k : PortState) (copies : List Copy) : (k.taking copies).link = k.link := by
  unfold PortState.taking
  split
  · exact foldl_offered_link copies k
  · rfl

theorem taking_append (k : PortState) (copies more : List Copy) : k.taking (copies ++ more) = (k.taking copies).taking more := by
  cases link : k.link with
  | up => rw [taking_up link, taking_up link, taking_up ((foldl_offered_link _ _).trans link), List.foldl_append]
  | down => rw [taking_down link, taking_down link, taking_down link]

/-- The TX_DROP flag a port's row holds. -/
def PortState.txDrop (k : PortState) : Option Detail := k.flags[PortFlag.txDrop.code.val]

/-- The transmit drops a port has counted. -/
def PortState.txDrops (k : PortState) : Nat := k.counters.get PortCounter.txDrops.place

theorem offered_room {k : PortState} (room : k.circuitQueue.length < 64) (x : Copy) :
    k.offered x = { k with circuitQueue := k.circuitQueue ++ [x] } := by
  unfold PortState.offered
  rw [if_pos room]

theorem offered_full {k : PortState} (full : ¬k.circuitQueue.length < 64) (x : Copy) :
    (k.offered x).circuitQueue = k.circuitQueue ∧ (k.offered x).txDrops = countUp k.txDrops
      ∧ (k.offered x).txDrop = some (k.txDrop.getD (.circuit x.circuit)) := by
  unfold PortState.offered
  rw [if_neg full]
  refine ⟨rfl, get_bump_self _ _, ?_⟩
  simp only [PortState.txDrop, PortState.raised, getElem_raisedRow, if_true]

theorem offered_all (copies : List Copy) (k : PortState) :
    (copies.foldl PortState.offered k).circuitQueue = k.circuitQueue ++ copies.take (64 - k.circuitQueue.length) := by
  induction copies generalizing k with
  | nil => simp
  | cons x rest ih =>
    rw [List.foldl_cons, ih]
    by_cases room : k.circuitQueue.length < 64
    · obtain ⟨m, left⟩ : ∃ m, 64 - k.circuitQueue.length = m + 1 := ⟨63 - k.circuitQueue.length, by omega⟩
      have next : 64 - (k.circuitQueue ++ [x]).length = m := by rw [List.length_append, List.length_singleton]; omega
      rw [offered_room room]
      simp only [next, left, List.take_succ_cons, List.append_assoc, List.singleton_append]
    · have none : 64 - k.circuitQueue.length = 0 := by omega
      rw [(offered_full room x).1, none, List.take_zero, List.take_zero]

theorem txDrops_foldl_offered (copies : List Copy) (k : PortState) (bounded : k.txDrops ≤ 4294967295) :
    (copies.foldl PortState.offered k).txDrops
      = min 4294967295 (k.txDrops + (copies.drop (64 - k.circuitQueue.length)).length) := by
  induction copies generalizing k with
  | nil => simp only [List.foldl_nil, List.drop_nil, List.length_nil]; omega
  | cons x rest ih =>
    rw [List.foldl_cons]
    by_cases room : k.circuitQueue.length < 64
    · have same : (k.offered x).txDrops = k.txDrops := by rw [offered_room room]; rfl
      have queue : (k.offered x).circuitQueue.length = k.circuitQueue.length + 1 := by rw [offered_room room]; simp
      rw [ih _ (by rw [same]; exact bounded), same, queue, List.length_drop, List.length_drop, List.length_cons]
      omega
    · obtain ⟨queue, drops, -⟩ := offered_full room x
      have counted : countUp k.txDrops = min 4294967295 (k.txDrops + 1) := by unfold countUp; split <;> omega
      rw [ih _ (by rw [drops, counted]; omega), drops, counted, queue, List.length_drop, List.length_drop, List.length_cons]
      omega

/-- TX_DROP after copies of which the listed ones found the queue full: it names the first of them. -/
def txDropAfter (flag : Option Detail) : List Copy → Option Detail
  | [] => flag
  | x :: _ => some (flag.getD (.circuit x.circuit))

theorem txDrop_foldl_offered (copies : List Copy) (k : PortState) : (copies.foldl PortState.offered k).txDrop
    = txDropAfter k.txDrop (copies.drop (64 - k.circuitQueue.length)) := by
  induction copies generalizing k with
  | nil => rw [List.drop_nil]; rfl
  | cons x rest ih =>
    rw [List.foldl_cons, ih]
    by_cases room : k.circuitQueue.length < 64
    · obtain ⟨m, left⟩ : ∃ m, 64 - k.circuitQueue.length = m + 1 := ⟨63 - k.circuitQueue.length, by omega⟩
      have next : 64 - (k.circuitQueue ++ [x]).length = m := by rw [List.length_append, List.length_singleton]; omega
      rw [offered_room room]
      simp only [next, left, List.drop_succ_cons]
      rfl
    · obtain ⟨queue, -, flag⟩ := offered_full room x
      have none : 64 - k.circuitQueue.length = 0 := by omega
      rw [queue, flag, none, List.drop_zero, List.drop_zero]
      cases rest <;> rfl

/-! ### One circuit's part of a receive frame event (R73 to R76) -/

/-- The packet under assembly of a circuit with a frame joined to it (R73, R74). -/
def Circuit.joined (k : Circuit) (stamp : Ticks) (framing : Framing) (frame : List Byte) (faulted : Bool) : Assembly :=
  let a := k.packetizer.opened stamp
  ⟨a.ts, a.taken + 1, a.octets ++ takeOctets framing k.entry frame, a.faulted || faulted⟩

/-- The copy for the path on port `p` that circuit `c` makes of a receive frame event of tributary `t`, if any (R75, R76). -/
def Circuit.copyOn (k : Circuit) (c : Fin 64) (t : Fin 16) (stamp : Ticks) (framing : Framing) (frame : List Byte) (faulted : Bool)
    (p : Port) : Option Copy :=
  let a := k.packetizer.opened stamp
  if k.engaged = true ∧ k.names t = true ∧ k.entry.frames ≤ a.taken + 1 then
    (k.entry.paths.get p).map (fun record =>
      { circuit := c, record := record, seq := k.packetizer.nextSeq, ts := a.ts, frames := k.entry.frames
        l := a.faulted || faulted, r := k.control.state != .playing
        payload := a.octets ++ takeOctets framing k.entry frame })
  else none

theorem packetCopies_eq (s : State) (t : Fin 16) (frame : List Byte) (faulted : Bool) (p : Port) : packetCopies s t frame faulted p
    = allCircuits.filterMap (fun c =>
        (s.circuit c).copyOn c t (s.tributary t).line.frameCount (s.tributary t).entry.framing frame faulted p) := rfl

theorem copyOn_circuit {k : Circuit} {x : Copy} (made : k.copyOn c t stamp framing frame faulted p = some x) : x.circuit = c := by
  unfold Circuit.copyOn at made
  dsimp only at made
  split at made
  · obtain ⟨record, -, rfl⟩ := Option.map_eq_some_iff.mp made
    rfl
  · cases made

/-- A circuit that takes part in the receive frame events of tributary `t`: engaged and naming it, its packetizer running. -/
structure Circuit.collects (k : Circuit) (t : Fin 16) : Prop where
  engaged : k.engaged = true
  names   : k.names t = true
  running : k.packetizer.phase ≠ .idle

/-- A circuit with a frame joined to its packet under assembly, before the packet is judged complete (R73, R74). -/
def Circuit.joinedTo (k : Circuit) (a : Assembly) : Circuit :=
  { k with packetizer := { k.packetizer with phase := .collecting, assembly := some a } }

theorem collectOf_apart (away : ((s.circuit c).engaged && (s.circuit c).names t) = false) :
    s.collectOf t stamp frame faulted c = s := by
  unfold State.collectOf
  rw [away]
  rfl

theorem framingOf_names (names : (s.circuit c).names t = true) :
    s.framingOf (s.circuit c).entry = (s.tributary t).entry.framing := framingOf_some ((names_iff _ t).mp names)

theorem addFrame_running {z : Packetizer} (running : z.phase ≠ .idle) (stamp : Ticks) (octets : List Byte) (faulted : Bool) :
    z.addFrame stamp octets faulted = { z with
      phase := .collecting
      assembly := some ⟨(z.opened stamp).ts, (z.opened stamp).taken + 1, (z.opened stamp).octets ++ octets,
        (z.opened stamp).faulted || faulted⟩ } := by
  cases phase : z.phase with
  | idle => exact absurd phase running
  | armed => simp only [Packetizer.addFrame, phase]; rfl
  | collecting => simp only [Packetizer.addFrame, phase]; rfl

/-- What one circuit that takes part makes of a receive frame event (R73 to R75). -/
theorem collectOf_eq (takes : (s.circuit c).collects t) (joined : Assembly)
    (form : joined = (s.circuit c).joined stamp (s.tributary t).entry.framing frame faulted) :
    s.collectOf t stamp frame faulted c
      = if (s.circuit c).entry.frames ≤ joined.taken then
          (s.onCircuit c (fun k => k.joinedTo joined)).completePacket c joined
        else s.onCircuit c (fun k => k.joinedTo joined) := by
  subst form
  have own : s.onPacketizer c (fun _ => (s.circuit c).packetizer.addFrame stamp
        (takeOctets (s.framingOf (s.circuit c).entry) (s.circuit c).entry frame) faulted)
      = s.onCircuit c (fun k => k.joinedTo ((s.circuit c).joined stamp (s.tributary t).entry.framing frame faulted)) := by
    rw [onPacketizer_eq, addFrame_running takes.running, framingOf_names takes.names]
    exact onCircuit_congr s c rfl
  unfold State.collectOf
  rw [takes.engaged, takes.names]
  simp only [Bool.and_self, if_true, State.collectFrame]
  rw [own, addFrame_running takes.running, framingOf_names takes.names]
  rfl

/-- What a circuit that takes part keeps of a receive frame event, and what it sends to its ports. -/
structure CollectedBy (s u : State) (t : Fin 16) (stamp : Ticks) (framing : Framing) (frame : List Byte) (faulted : Bool)
    (c : Fin 64) : Prop where
  packetizer : (u.circuit c).packetizer
    = if (s.circuit c).entry.frames ≤ ((s.circuit c).joined stamp framing frame faulted).taken then
        (((s.circuit c).joinedTo ((s.circuit c).joined stamp framing frame faulted)).completed
          ((s.circuit c).joined stamp framing frame faulted)).packetizer
      else ((s.circuit c).joinedTo ((s.circuit c).joined stamp framing frame faulted)).packetizer
  port : ∀ p, u.port p = (s.port p).taking ((s.circuit c).copyOn c t stamp framing frame faulted p).toList
  notSent : ∀ p, (u.circuit c).counters.get (CircuitCounter.notSent p).place
    = if (s.port p).link = .down ∧ ((s.circuit c).copyOn c t stamp framing frame faulted p).isSome = true then
        countUp ((s.circuit c).counters.get (CircuitCounter.notSent p).place)
      else (s.circuit c).counters.get (CircuitCounter.notSent p).place

theorem collectOf_collected (takes : (s.circuit c).collects t) (stamp : Ticks) (frame : List Byte) (faulted : Bool) :
    CollectedBy s (s.collectOf t stamp frame faulted c) t stamp (s.tributary t).entry.framing frame faulted c := by
  generalize a_def : (s.circuit c).joined stamp (s.tributary t).entry.framing frame faulted = a
  have takenOne : a.taken = ((s.circuit c).packetizer.opened stamp).taken + 1 := by rw [← a_def]; rfl
  rw [collectOf_eq takes a a_def.symm]
  have own : (s.onCircuit c (fun k => k.joinedTo a)).circuit c = (s.circuit c).joinedTo a := circuit_onCircuit_self s c _
  have entry : ((s.onCircuit c (fun k => k.joinedTo a)).circuit c).entry = (s.circuit c).entry := by rw [own]; rfl
  have counters : ((s.onCircuit c (fun k => k.joinedTo a)).circuit c).counters = (s.circuit c).counters := by rw [own]; rfl
  by_cases full : (s.circuit c).entry.frames ≤ a.taken
  · have copyOn (p : Port) : (s.circuit c).copyOn c t stamp (s.tributary t).entry.framing frame faulted p
        = ((s.circuit c).entry.paths.get p).map (fun record => ((s.circuit c).joinedTo a).copyOf c a record) := by
      unfold Circuit.copyOn
      dsimp only
      rw [if_pos ⟨takes.engaged, takes.names, takenOne ▸ full⟩, ← a_def]
      rfl
    have outcome (p : Port) :
        ((s.onCircuit c (fun k => k.joinedTo a)).completePacket c a).port p
            = (s.port p).taking ((s.circuit c).copyOn c t stamp (s.tributary t).entry.framing frame faulted p).toList
        ∧ (((s.onCircuit c (fun k => k.joinedTo a)).completePacket c a).circuit c).counters.get (CircuitCounter.notSent p).place
          = if (s.port p).link = .down
              ∧ ((s.circuit c).copyOn c t stamp (s.tributary t).entry.framing frame faulted p).isSome = true then
              countUp ((s.circuit c).counters.get (CircuitCounter.notSent p).place)
            else (s.circuit c).counters.get (CircuitCounter.notSent p).place := by
      rw [copyOn]
      cases record : (s.circuit c).entry.paths.get p with
      | none =>
        obtain ⟨port, count⟩ := completePacket_absent (a := a) (by rw [entry]; exact record)
        exact ⟨by rw [port, port_onCircuit]; exact (taking_nil _).symm, by rw [count, counters]; simp⟩
      | some r =>
        cases link : (s.port p).link with
        | down =>
          obtain ⟨port, count⟩ := completePacket_down (a := a) (by rw [entry]; exact record) (by rw [port_onCircuit]; exact link)
          exact ⟨by rw [port, port_onCircuit, taking_down link], by rw [count, counters]; simp⟩
        | up =>
          obtain ⟨port, count⟩ := completePacket_up (a := a) (by rw [entry]; exact record) (by rw [port_onCircuit]; exact link)
          exact ⟨by rw [port, port_onCircuit, taking_up link, own]; rfl, by rw [count, counters]; simp⟩
    rw [if_pos full]
    refine ⟨?_, fun p => (outcome p).1, fun p => (outcome p).2⟩
    rw [a_def, if_pos full, circuit_completePacket, own]
  · have copyOn (p : Port) : (s.circuit c).copyOn c t stamp (s.tributary t).entry.framing frame faulted p = none := by
      unfold Circuit.copyOn
      dsimp only
      rw [if_neg (fun h => full (takenOne ▸ h.2.2))]
    rw [if_neg full]
    refine ⟨by rw [a_def, if_neg full, own], fun p => ?_, fun p => ?_⟩
    · rw [copyOn, port_onCircuit]; exact (taking_nil _).symm
    · rw [copyOn, counters]; simp

/-! ### The circuits of a tributary, one after the other (log 12) -/

theorem collectOf_only (s : State) (t : Fin 16) (stamp : Ticks) (frame : List Byte) (faulted : Bool) (c : Fin 64) :
    OnlyCircuitAndPorts s (s.collectOf t stamp frame faulted c) c := by
  have packed (f : Packetizer → Packetizer) : OnlyCircuitAndPorts s (s.onPacketizer c f) c :=
    ((OnlyCircuit.refl s c).thenPacketizer f).andPorts
  unfold State.collectOf
  split
  · simp only [State.collectFrame]
    split
    · exact packed _
    · split
      · exact (packed _).trans (completePacket_only _ c _)
      · exact packed _
  · exact (OnlyCircuit.refl s c).andPorts

theorem circuit_collectOf_of_ne {d : Fin 64} (apart : d ≠ c) : (s.collectOf t stamp frame faulted c).circuit d = s.circuit d :=
  (collectOf_only s t stamp frame faulted c).others d apart

theorem circuit_collected_of_notMem {l : List (Fin 64)} (away : c ∉ l) (s : State) :
    (forEach l (State.collectOf t stamp frame faulted) s).circuit c = s.circuit c := by
  induction l generalizing s with
  | nil => rfl
  | cons d rest ih =>
    rw [List.mem_cons, not_or] at away
    exact (ih away.2 _).trans (circuit_collectOf_of_ne away.1)

theorem framing_collectOf (s : State) : ((s.collectOf t stamp frame faulted c).tributary t).entry.framing
    = (s.tributary t).entry.framing := by
  rw [State.tributary_congr (tributaries_collectOf s t stamp frame faulted c)]

theorem packetizer_collected {l : List (Fin 64)} (once : l.Nodup) (listed : c ∈ l) (s : State) (takes : (s.circuit c).collects t) :
    ((forEach l (State.collectOf t stamp frame faulted) s).circuit c).packetizer
      = ((s.collectOf t stamp frame faulted c).circuit c).packetizer := by
  induction l generalizing s with
  | nil => cases listed
  | cons d rest ih =>
    rw [List.nodup_cons] at once
    show ((forEach rest (State.collectOf t stamp frame faulted) (s.collectOf t stamp frame faulted d)).circuit c).packetizer = _
    by_cases own : c = d
    · subst own
      rw [circuit_collected_of_notMem once.1]
    · have kept : (s.collectOf t stamp frame faulted d).circuit c = s.circuit c := circuit_collectOf_of_ne own
      have takes' : ((s.collectOf t stamp frame faulted d).circuit c).collects t := by rw [kept]; exact takes
      rw [ih once.2 ((List.mem_cons.mp listed).resolve_left own) _ takes', (collectOf_collected takes' _ _ _).packetizer,
        (collectOf_collected takes _ _ _).packetizer, framing_collectOf, kept]

theorem copyOn_apart {k : Circuit} (away : (k.engaged && k.names t) = false) :
    k.copyOn c t stamp framing frame faulted p = none := by
  unfold Circuit.copyOn
  dsimp only
  rw [if_neg]
  rintro ⟨engaged, names, -⟩
  rw [engaged, names] at away
  cases away

/-- What one circuit, taking part or not, makes of its port and its not-sent count when every engaged circuit's packetizer runs. -/
theorem collectOf_outcome (running : (s.circuit c).engaged = true → (s.circuit c).packetizer.phase ≠ .idle) (p : Port) :
    (s.collectOf t stamp frame faulted c).port p
        = (s.port p).taking ((s.circuit c).copyOn c t stamp (s.tributary t).entry.framing frame faulted p).toList
    ∧ ((s.collectOf t stamp frame faulted c).circuit c).counters.get (CircuitCounter.notSent p).place
      = if (s.port p).link = .down
          ∧ ((s.circuit c).copyOn c t stamp (s.tributary t).entry.framing frame faulted p).isSome = true then
          countUp ((s.circuit c).counters.get (CircuitCounter.notSent p).place)
        else (s.circuit c).counters.get (CircuitCounter.notSent p).place := by
  rcases Bool.eq_false_or_eq_true ((s.circuit c).engaged && (s.circuit c).names t) with part | away
  · rw [Bool.and_eq_true] at part
    have collected := collectOf_collected ⟨part.1, part.2, running part.1⟩ stamp frame faulted
    exact ⟨collected.port p, collected.notSent p⟩
  · rw [collectOf_apart away, copyOn_apart away]
    exact ⟨(taking_nil _).symm, by simp⟩

/-- What the circuits of a list make of a port and of the not-sent counts. -/
theorem collected_outcome {l : List (Fin 64)} (once : l.Nodup) (s : State)
    (running : ∀ c ∈ l, (s.circuit c).engaged = true → (s.circuit c).packetizer.phase ≠ .idle) (p : Port) :
    (forEach l (State.collectOf t stamp frame faulted) s).port p = (s.port p).taking (l.filterMap (fun c =>
        (s.circuit c).copyOn c t stamp (s.tributary t).entry.framing frame faulted p))
    ∧ ∀ c ∈ l, ((forEach l (State.collectOf t stamp frame faulted) s).circuit c).counters.get (CircuitCounter.notSent p).place
      = if (s.port p).link = .down
          ∧ ((s.circuit c).copyOn c t stamp (s.tributary t).entry.framing frame faulted p).isSome = true then
          countUp ((s.circuit c).counters.get (CircuitCounter.notSent p).place)
        else (s.circuit c).counters.get (CircuitCounter.notSent p).place := by
  induction l generalizing s with
  | nil => exact ⟨(taking_nil _).symm, fun c listed => by cases listed⟩
  | cons d rest ih =>
    rw [List.nodup_cons] at once
    obtain ⟨first, counted⟩ := collectOf_outcome (t := t) (stamp := stamp) (frame := frame) (faulted := faulted)
      (running d List.mem_cons_self) p
    have kept (c : Fin 64) (listed : c ∈ rest) : (s.collectOf t stamp frame faulted d).circuit c = s.circuit c :=
      circuit_collectOf_of_ne (fun same => once.1 (same ▸ listed))
    obtain ⟨port, notSent⟩ := ih once.2 (s.collectOf t stamp frame faulted d)
      (fun c listed => by rw [kept c listed]; exact running c (List.mem_cons_of_mem _ listed))
    have step : forEach (d :: rest) (State.collectOf t stamp frame faulted) s
      = forEach rest (State.collectOf t stamp frame faulted) (s.collectOf t stamp frame faulted d) := rfl
    have copies : rest.filterMap (fun c => ((s.collectOf t stamp frame faulted d).circuit c).copyOn c t stamp
          (s.tributary t).entry.framing frame faulted p)
        = rest.filterMap (fun c => (s.circuit c).copyOn c t stamp (s.tributary t).entry.framing frame faulted p) :=
      List.filterMap_congr (fun c listed => by rw [kept c listed])
    rw [framing_collectOf, copies, first, ← taking_append] at port
    rw [framing_collectOf, first, taking_link] at notSent
    rw [step]
    refine ⟨port.trans (congrArg _ ?_), fun c listed => ?_⟩
    · rw [List.filterMap_cons]
      cases (s.circuit d).copyOn d t stamp (s.tributary t).entry.framing frame faulted p <;> rfl
    · rcases List.mem_cons.mp listed with rfl | later
      · rw [circuit_collected_of_notMem once.1, counted]
      · rw [notSent c later, kept c later]

/-! ### The receive frame event (R8 to R10) -/

theorem frameCollected_of (s : State) (t : Fin 16) (frame : List Byte) (faulted : Bool) (takes : (s.circuit c).collects t) :
    FrameCollected s (s.receiveFrame t frame faulted) t frame faulted c := by
  have whole : ((s.receiveFrame t frame faulted).circuit c).packetizer
      = ((s.collectOf t (s.tributary t).line.frameCount frame faulted c).circuit c).packetizer := by
    rw [receiveFrame_eq, onLine_eq, circuit_onTributary]
    exact packetizer_collected nodup_allCircuits (mem_allCircuits c) s takes
  rw [(collectOf_collected takes _ _ _).packetizer] at whole
  refine ⟨fun short => ?_, fun full => ?_⟩
  · exact whole.trans (if_neg (Nat.not_le_of_lt short))
  · refine (whole.trans (if_pos full)).trans ?_
    simp only [Circuit.completed, Circuit.joinedTo, Circuit.joined, marked_iff]

theorem copiesQueued_of (s : State) (t : Fin 16) (frame : List Byte) (faulted : Bool)
    (running : ∀ c, (s.circuit c).engaged = true → (s.circuit c).packetizer.phase ≠ .idle) (p : Port) :
    CopiesQueued s (s.receiveFrame t frame faulted) t frame faulted p := by
  obtain ⟨port, counted⟩ := collected_outcome (t := t) (stamp := (s.tributary t).line.frameCount) (frame := frame)
    (faulted := faulted) nodup_allCircuits s (fun c _ => running c) p
  rw [← packetCopies_eq] at port
  have atPort : (s.receiveFrame t frame faulted).port p = (s.port p).taking (packetCopies s t frame faulted p) := by
    rw [receiveFrame_eq, onLine_eq, port_onTributary, port]
  have notSent (c : Fin 64) : ((s.receiveFrame t frame faulted).circuit c).counters.get (CircuitCounter.notSent p).place
      = if (s.port p).link = .down ∧ c ∈ (packetCopies s t frame faulted p).map Copy.circuit then
          countUp ((s.circuit c).counters.get (CircuitCounter.notSent p).place)
        else (s.circuit c).counters.get (CircuitCounter.notSent p).place := by
    have made : c ∈ (packetCopies s t frame faulted p).map Copy.circuit
        ↔ ((s.circuit c).copyOn c t (s.tributary t).line.frameCount (s.tributary t).entry.framing frame faulted p).isSome = true := by
      rw [packetCopies_eq, List.mem_map, Option.isSome_iff_exists]
      refine ⟨fun ⟨x, listed, own⟩ => ?_, fun ⟨x, copy⟩ => ?_⟩
      · obtain ⟨d, -, copy⟩ := List.mem_filterMap.mp listed
        have same : d = c := (copyOn_circuit copy).symm.trans own
        subst same
        exact ⟨x, copy⟩
      · exact ⟨x, List.mem_filterMap.mpr ⟨c, mem_allCircuits c, copy⟩, copyOn_circuit copy⟩
    rw [receiveFrame_eq, onLine_eq, circuit_onTributary, counted c (mem_allCircuits c)]
    simp only [made]
  unfold CopiesQueued
  dsimp only
  split
  · next up =>
    rw [taking_up up] at atPort
    have queue := offered_all (packetCopies s t frame faulted p) (s.port p)
    have drops := txDrops_foldl_offered (packetCopies s t frame faulted p) (s.port p)
    have flag := txDrop_foldl_offered (packetCopies s t frame faulted p) (s.port p)
    rw [← atPort] at queue drops flag
    refine ⟨queue, fun c => ?_, drops, flag.trans ?_⟩
    · rw [notSent, up, if_neg (by simp)]
    · cases List.drop (64 - (s.port p).circuitQueue.length) (packetCopies s t frame faulted p) <;> rfl
  · next down =>
    rw [taking_down down] at atPort
    refine ⟨by rw [atPort], by rw [atPort], by simp only [State.flag, atPort], fun c => ?_⟩
    rw [notSent]
    simp only [down, true_and]

theorem receiveFrame_taken (s : State) (t : Fin 16) (frame : List Byte) (faulted : Bool) :
    FrameEventTaken s (s.receiveFrame t frame faulted) t frame faulted := by
  refine ⟨by rw [tributary_receiveFrame], by rw [tributary_receiveFrame], fun c engaged names running => ?_, fun running p => ?_⟩
  · exact frameCollected_of s t frame faulted ⟨engaged, names, running⟩
  · exact copiesQueued_of s t frame faulted running p

/-- Settles O14. -/
theorem generatedFrameEventWhenDue : Obligations.GeneratedFrameEventWhenDue := by
  intro t s generated due
  have taken : s.generatedDue t = true := by
    rw [State.generatedDue, generated, (reached_iff _ _).mpr due]
    rfl
  refine ⟨s.receiveFrame t (List.replicate 32 255) true, ?_, receiveFrame_taken s t _ true, .receiveFrame s t _ true, ?_⟩
  · show Host.Outcome.next (if s.generatedDue t then _ else s) = _
    rw [taken, if_pos rfl]
  · rw [tributary_receiveFrame]

/-- A receive frame event told from an earlier state that has the same circuits, ports, LT, framing and receive frame count. -/
theorem FrameEventTaken.congr {w : State} (circuits : ∀ c, w.circuit c = s.circuit c) (ports : ∀ p, w.port p = s.port p)
    (lt : w.lt = s.lt) (entry : (w.tributary t).entry = (s.tributary t).entry)
    (count : (w.tributary t).line.frameCount = (s.tributary t).line.frameCount) (taken : FrameEventTaken w u t frame faulted) :
    FrameEventTaken s u t frame faulted := by
  obtain ⟨counted, event, collected, queued⟩ := taken
  have copies (p : Port) : packetCopies w t frame faulted p = packetCopies s t frame faulted p := by
    simp only [packetCopies_eq, circuits, count, entry]
  refine ⟨counted.trans (by rw [count]), event.trans lt, fun c engaged names running => ?_, fun running p => ?_⟩
  · have own := collected c (by rw [circuits]; exact engaged) (by rw [circuits]; exact names) (by rw [circuits]; exact running)
    unfold FrameCollected at own ⊢
    rw [circuits, count, entry] at own
    exact own
  · have own := queued (fun c => by rw [circuits]; exact running c) p
    unfold CopiesQueued at own ⊢
    simp only [circuits, copies, ports, State.flag] at own
    exact own

theorem detected_only (s : State) (t : Fin 16) (b : Bool) : OnlyTributary s (s.detected t b) t :=
  (((loopBit_only s t).thenLine _).trans (signalBit_only _ t b)).trans (aisBit_only _ t b)

theorem frameBit_last (full : (s.tributary t).line.frameBits = 255) : s.frameBit t
    = (s.onLine t (fun u => { u with frameBits := 0, oddFrame := !u.oddFrame, gathered := [] })).receiveFrame t
        ((s.tributary t).line.gathered ++ [(s.tributary t).line.recent]) false := by
  have last : ¬255 + 1 < 256 := by decide
  simp only [State.frameBit, full, if_neg last, Nat.reduceAdd, Nat.reduceMod, if_true]

theorem framingBit_last (full : (s.tributary t).line.frameBits = 255)
    (gathers : (s.tributary t).entry.framing = .unframed
      ∨ (s.tributary t).entry.framing = .framed ∧ (s.tributary t).line.alignment = .aligned) (b : Bool) :
    s.framingBit t b = s.frameBit t := by
  rcases gathers with unframed | ⟨framed, aligned⟩
  · simp only [State.framingBit, unframed]
  · simp [State.framingBit, framed, aligned, full]

/-- The event that the last bit of a frame brings, told from before the bit: the detectors have changed nothing it reads. -/
theorem lastBit_taken {v : State} (only : OnlyTributary s v t) (entry : (v.tributary t).entry = (s.tributary t).entry)
    (count : (v.tributary t).line.frameCount = (s.tributary t).line.frameCount) (f : LineUnit → LineUnit)
    (keeps : ∀ x, (f x).frameCount = x.frameCount) (frame : List Byte) (faulted : Bool) :
    FrameEventTaken s ((v.onLine t f).receiveFrame t frame faulted) t frame faulted := by
  have taken := receiveFrame_taken (v.onLine t f) t frame faulted
  have circuits (c : Fin 64) : (v.onLine t f).circuit c = s.circuit c := by
    rw [onLine_eq, circuit_onTributary, State.circuit_congr only.circuits]
  have ports (p : Port) : (v.onLine t f).port p = s.port p := by rw [onLine_eq, port_onTributary, State.port_congr only.ports]
  have entry' : ((v.onLine t f).tributary t).entry = (s.tributary t).entry := by rw [tributary_onLine, entry]
  have count' : ((v.onLine t f).tributary t).line.frameCount = (s.tributary t).line.frameCount := by
    rw [tributary_onLine, keeps, count]
  exact FrameEventTaken.congr circuits ports only.run.lt entry' count' taken

/-- Settles O13. -/
theorem receiveFrameEventEveryFrame : Obligations.ReceiveFrameEventEveryFrame := by
  intro t b s present gathers full zeros
  have short := short_of zeros
  have quiet := detected_quietly present b short
  have only := detected_only s t b
  have form : s.receiveBits t [b] = (s.detected t b).frameBit t := by
    rw [receiveBits_cons, receiveBits_nil, receiveBit_present present b short]
    exact framingBit_last (by rw [quiet.line, full]) (by rw [quiet.entry, quiet.line]; exact gathers) b
  have gathered : ((s.detected t b).tributary t).line.gathered = (s.tributary t).line.gathered := by rw [quiet.line]
  have recent : ((s.detected t b).tributary t).line.recent = ((s.tributary t).line.recent <<< 1) ||| BitVec.ofNat 8 b.toNat := by
    rw [quiet.line, LineUnit.shifted]
  have odd : ((s.detected t b).tributary t).line.oddFrame = (s.tributary t).line.oddFrame := by rw [quiet.line]
  have count : ((s.detected t b).tributary t).line.frameCount = (s.tributary t).line.frameCount := by rw [quiet.line]
  have entry := quiet.entry
  rw [frameBit_last (by rw [quiet.line, full]), gathered, recent] at form
  have receives := OnlyReceive.receiveBits s t [b]
  clear quiet gathered recent
  generalize s.detected t b = v at *
  refine ⟨s.receiveBits t [b], rfl, ?_, ?_, ?_, ?_, receives⟩
  · rw [form, tributary_receiveFrame, tributary_onLine]
  · rw [form, tributary_receiveFrame, tributary_onLine]
  · rw [form, tributary_receiveFrame, tributary_onLine, ← odd]
  · rw [form]
    have keeps (x : LineUnit) : ({ x with frameBits := 0, oddFrame := !x.oddFrame, gathered := [] } : LineUnit).frameCount
      = x.frameCount := rfl
    exact lastBit_taken only entry count _ keeps _ false

end Sys2Proof.Machine

/-! PROOFS. The playout of a circuit: what a frame start makes of its buffer and its counters (R114 to R122). -/

namespace Sys2Proof.Machine

variable {s u : State} {c : Fin 64} {x : Pointer}

/-! ### The pointer advances (R114, R117) -/

/-- A circuit whose play pointer has advanced by one frame (R114, R117). -/
def Circuit.advanced (k : Circuit) : Circuit :=
  match k.buffer.pointer with
  | none => k
  | some x =>
    if x.frame + 1 < k.entry.frames then { k with buffer := { k.buffer with pointer := some { x with frame := x.frame + 1 } } }
    else { k with
      buffer := k.buffer.leave x k.entry.depth k.entry.frames
      counters := if (k.buffer.slot k.entry.depth x.seq).isNone then bump k.counters CircuitCounter.lost.place else k.counters }

theorem advanced_none {k : Circuit} (absent : k.buffer.pointer = none) : k.advanced = k := by
  simp only [Circuit.advanced, absent]

theorem advanced_within {k : Circuit} (pointer : k.buffer.pointer = some x) (within : x.frame + 1 < k.entry.frames) :
    k.advanced = { k with buffer := { k.buffer with pointer := some { x with frame := x.frame + 1 } } } := by
  simp only [Circuit.advanced, pointer, if_pos within]

theorem advanced_leaving {k : Circuit} (pointer : k.buffer.pointer = some x) (leaves : ¬x.frame + 1 < k.entry.frames) :
    k.advanced = { k with
      buffer := k.buffer.leave x k.entry.depth k.entry.frames
      counters := if (k.buffer.slot k.entry.depth x.seq).isNone then bump k.counters CircuitCounter.lost.place
        else k.counters } := by
  simp only [Circuit.advanced, pointer, if_neg leaves]

theorem circuit_advancePointer (s : State) (c : Fin 64) : (s.advancePointer c).circuit c = (s.circuit c).advanced := by
  cases pointer : (s.circuit c).buffer.pointer with
  | none =>
    rw [advanced_none pointer]
    simp only [State.advancePointer, pointer]
  | some x =>
    by_cases within : x.frame + 1 < (s.circuit c).entry.frames
    · rw [advanced_within pointer within]
      simp only [State.advancePointer, pointer, if_pos within, onBuffer_eq, circuit_onCircuit_self]
    · rw [advanced_leaving pointer within]
      simp only [State.advancePointer, pointer, if_neg within, onBuffer_eq, count_eq]
      cases ((s.circuit c).buffer.slot (s.circuit c).entry.depth x.seq).isNone with
      | true => simp only [if_true, onCircuit_onCircuit, circuit_onCircuit_self]
      | false => simp only [Bool.false_eq_true, if_false, circuit_onCircuit_self]

/-- What an advance of the pointer leaves alone in its circuit. -/
structure AdvanceKept (k v : Circuit) : Prop where
  blocks   : v = { k with buffer := v.buffer, counters := v.counters }
  frame    : v.buffer.lastFrame = k.buffer.lastFrame
  run      : v.buffer.substitutionRun = k.buffer.substitutionRun
  mark     : v.buffer.startMark = k.buffer.startMark
  lead     : v.buffer.lastLead = k.buffer.lastLead
  counters : ∀ i, i ≠ CircuitCounter.lost.place → v.counters.get i = k.counters.get i

theorem advanceKept_advanced (k : Circuit) : AdvanceKept k k.advanced := by
  cases pointer : k.buffer.pointer with
  | none => rw [advanced_none pointer]; exact ⟨rfl, rfl, rfl, rfl, rfl, fun _ _ => rfl⟩
  | some x =>
    by_cases within : x.frame + 1 < k.entry.frames
    · rw [advanced_within pointer within]; exact ⟨rfl, rfl, rfl, rfl, rfl, fun _ _ => rfl⟩
    · rw [advanced_leaving pointer within]
      refine ⟨rfl, rfl, rfl, rfl, rfl, fun i apart => ?_⟩
      dsimp only
      split
      · exact get_bump_of_ne _ apart
      · rfl

/-- Advanced, the pointer is within its packet or at the start of the next. -/
theorem pointer_advanced {k : Circuit} (pointer : k.buffer.pointer = some x) : k.advanced.buffer.pointer
    = some (if x.frame + 1 < k.entry.frames then ⟨x.seq, x.frame + 1, x.ts⟩
        else ⟨x.seq + 1, 0, stampAfter x.ts k.entry.frames 1⟩) := by
  simp only [Circuit.advanced, pointer]
  split <;> rfl

theorem stampAfter_one (ts : Ticks) (frames : Nat) : stampAfter ts frames 1 = ts + BitVec.ofNat 32 (frames * 1024) := by
  have whole : (1 * (frames : Int) * 1024) = ((frames * 1024 : Nat) : Int) := by push_cast; ring
  rw [stampAfter, whole, BitVec.ofInt_natCast]

/-- A circuit that agrees with `k` in all an advance reads has its pointer advanced as `k` has (R114, R117). -/
theorem pointerAdvanced_of {k w : Circuit} (pointer : k.buffer.pointer = some x) (entry : w.entry = k.entry)
    (same : w.buffer.pointer = k.buffer.pointer) (slots : w.buffer.slots = k.buffer.slots)
    (history : w.buffer.history = k.buffer.history)
    (lost : w.counters.get CircuitCounter.lost.place = k.counters.get CircuitCounter.lost.place) :
    PointerAdvanced k w.advanced x := by
  have held : w.buffer.slot w.entry.depth x.seq = k.buffer.slot k.entry.depth x.seq := by rw [Buffer.slot, slots, entry]; rfl
  have freed : (w.buffer.withSlot w.entry.depth x.seq none).slots = (k.buffer.withSlot k.entry.depth x.seq none).slots := by
    simp only [Buffer.withSlot, slots, entry]
  unfold PointerAdvanced
  simp only [Circuit.advanced, same, pointer]
  rw [entry] at held freed ⊢
  by_cases within : x.frame + 1 < k.entry.frames
  · simp only [if_pos within]
    exact ⟨trivial, slots, history, lost⟩
  · simp only [if_neg within]
    refine ⟨by rw [← stampAfter_one]; rfl, freed, ?_⟩
    cases slot : k.buffer.slot k.entry.depth x.seq with
    | some e =>
      rw [slot] at held
      simp only [held, Option.isNone_some, Bool.false_eq_true, if_false, Buffer.leave, leavingRecord, history]
      exact ⟨trivial, lost⟩
    | none =>
      rw [slot] at held
      simp only [held, Option.isNone_none, if_true, Buffer.leave, leavingRecord, history, get_bump_self, lost]
      exact ⟨trivial, trivial⟩

/-! ### The frame at the pointer is delivered (R121, R122) -/

theorem width_of_only (only : OnlyCircuit s u c) : u.width c = s.width c := by
  unfold State.width
  rw [only.entry, framingOf_congr (s := s) (fun t => by rw [(only.lines t).1])]

/-- A circuit with the lead it decides on kept (R126). -/
def Circuit.led (k : Circuit) (lead : Int) : Circuit := { k with buffer := { k.buffer with lastLead := some lead } }

/-- The frame start rule once no frame is to be skipped. -/
theorem playFrame_now (pointer : (s.circuit c).buffer.pointer = some x) (idle : Byte) (rt : Ticks)
    (early : leadOf rt x (s.circuit c).entry.playoutDelay < 512) : s.playFrame c idle rt
      = if leadOf rt x (s.circuit c).entry.playoutDelay < -512 then
          (s.onCircuit c (fun k => k.led (leadOf rt x (s.circuit c).entry.playoutDelay))).repeatFrame c (s.width c)
        else (s.onCircuit c (fun k => k.led (leadOf rt x (s.circuit c).entry.playoutDelay))).deliverFrame c x idle (s.width c) := by
  have noSkip : skipsNeeded (leadOf rt x (s.circuit c).entry.playoutDelay) = 0 := if_pos early
  simp only [State.playFrame, pointer, noSkip, State.skipFrames, onBuffer_eq]
  rfl

/-- A circuit that has delivered the octets `o` of a held entry, or `o` as a substitute, before its pointer advances (R121, R122). -/
def Circuit.played (k : Circuit) (o : List Byte) (substituted : Bool) : Circuit :=
  { k with
    buffer := { k.buffer with
      lastFrame := some o
      substitutionRun := if substituted then min 255 (k.buffer.substitutionRun + 1) else 0
      startMark := true }
    counters := if substituted then bump k.counters CircuitCounter.substitutedFrames.place else k.counters }

theorem deliverFrame_held {e : HeldEntry} (held : (s.circuit c).buffer.slot (s.circuit c).entry.depth x.seq = some e) (idle : Byte)
    (n : Nat) : s.deliverFrame c x idle n
      = ((s.onCircuit c (fun k => k.played (frameOctets e x.frame n) false)).advancePointer c, frameOctets e x.frame n) := by
  simp only [State.deliverFrame, held, onBuffer_eq]
  rfl

theorem deliverFrame_missing (missing : (s.circuit c).buffer.slot (s.circuit c).entry.depth x.seq = none) (idle : Byte)
    (n : Nat) : s.deliverFrame c x idle n
      = ((s.onCircuit c (fun k => k.played (substitute (s.circuit c).entry.substitution (s.circuit c).buffer idle n) true)).advancePointer c,
          substitute (s.circuit c).entry.substitution (s.circuit c).buffer idle n) := by
  simp only [State.deliverFrame, missing, onBuffer_eq, count_eq, onCircuit_onCircuit]
  rfl

/-- What a delivery leaves of its circuit but for the frame it chooses. -/
theorem delivered_circuit (s : State) (c : Fin 64) (lead : Int) (o : List Byte) (substituted : Bool)
    (pointer : (s.circuit c).buffer.pointer = some x) (v : Circuit) (form : v = ((((s.circuit c).led lead).played o substituted).advanced)) :
    PointerAdvanced (s.circuit c) v x ∧ v.buffer.lastFrame = some o ∧ v.buffer.startMark = true
      ∧ v.buffer.lastLead = some lead ∧ v.control = (s.circuit c).control ∧ v.recovery = (s.circuit c).recovery
      ∧ v.flags = (s.circuit c).flags
      ∧ v.buffer.substitutionRun = (if substituted then min 255 ((s.circuit c).buffer.substitutionRun + 1) else 0)
      ∧ v.counters.get CircuitCounter.substitutedFrames.place
        = if substituted then countUp ((s.circuit c).counters.get CircuitCounter.substitutedFrames.place)
          else (s.circuit c).counters.get CircuitCounter.substitutedFrames.place := by
  obtain ⟨blocks, frame, run, mark, last, counters⟩ := advanceKept_advanced (((s.circuit c).led lead).played o substituted)
  rw [← form] at blocks frame run mark last counters
  refine ⟨?_, frame, mark, last, by rw [blocks]; rfl, by rw [blocks]; rfl, by rw [blocks]; rfl, run, ?_⟩
  · rw [form]
    refine pointerAdvanced_of pointer rfl rfl rfl rfl ?_
    show (if substituted then bump (s.circuit c).counters CircuitCounter.substitutedFrames.place
      else (s.circuit c).counters).get CircuitCounter.lost.place = _
    split
    · exact get_bump_of_ne _ (by decide)
    · rfl
  · rw [counters _ (by decide)]
    show (if substituted then bump (s.circuit c).counters CircuitCounter.substitutedFrames.place
      else (s.circuit c).counters).get CircuitCounter.substitutedFrames.place = _
    split
    · exact get_bump_self _ _
    · rfl

/-- Settles O21, by what stands at the slot of the pointer's sequence. -/
theorem dueFrameIsDelivered : Obligations.DueFrameIsDelivered := by
  intro s c idle x rt k n lead ones pointer low high
  have due : s.playFrame c idle rt = (s.onCircuit c (fun k => k.led lead)).deliverFrame c x idle n :=
    (playFrame_now pointer idle rt (show lead < 512 by omega)).trans (if_neg (show ¬lead < -512 by omega))
  refine ⟨(s.playFrame c idle rt).1, (s.playFrame c idle rt).2, rfl, playFrame_only s c idle rt, ?_⟩
  have ledCircuit : (s.onCircuit c (fun k => k.led lead)).circuit c = k.led lead := circuit_onCircuit_self s c _
  cases slot : k.buffer.slot k.entry.depth x.seq with
  | some e =>
    rw [deliverFrame_held (e := e) (by rw [ledCircuit]; exact slot)] at due
    rw [due]
    have form := circuit_advancePointer ((s.onCircuit c (fun k => k.led lead)).onCircuit c
      (fun k => k.played (frameOctets e x.frame n) false)) c
    rw [circuit_onCircuit_self, ledCircuit] at form
    obtain ⟨advanced, frame, mark, last, control, recovery, flags, run, count⟩ :=
      delivered_circuit s c lead (frameOctets e x.frame n) false pointer _ form
    exact ⟨advanced, frame, mark, last, control, recovery, flags, rfl, run, count⟩
  | none =>
    have form := circuit_advancePointer ((s.onCircuit c (fun k => k.led lead)).onCircuit c
      (fun v => v.played (substitute k.entry.substitution k.buffer idle n) true)) c
    have chosen : substitute (k.led lead).entry.substitution (k.led lead).buffer idle n
      = substitute k.entry.substitution k.buffer idle n := rfl
    rw [circuit_onCircuit_self, ledCircuit] at form
    rw [deliverFrame_missing (by rw [ledCircuit]; exact slot), ledCircuit, chosen] at due
    rw [due]
    obtain ⟨advanced, frame, mark, last, control, recovery, flags, run, count⟩ :=
      delivered_circuit s c lead (substitute k.entry.substitution k.buffer idle n) true pointer _ form
    refine ⟨advanced, frame, mark, last, control, recovery, flags, ?_, run, count⟩
    show substitute k.entry.substitution k.buffer idle n = _
    unfold substitute
    cases k.entry.substitution <;> rfl

end Sys2Proof.Machine

/-! PROOFS. Early and late frames at the play pointer: repeats and skips (R119, R120). -/

namespace Sys2Proof.Machine

variable {s u : State} {c : Fin 64} {x : Pointer}

/-! ### A frame not yet due (R120) -/

/-- A circuit whose last delivered frame has been repeated (R120). -/
def Circuit.repeated (k : Circuit) : Circuit :=
  ({ k with counters := if k.buffer.startMark then bump k.counters CircuitCounter.repeatSlips.place else k.counters } :
    Circuit).raisedIf k.buffer.startMark .slip (.slip .repeated)

theorem circuit_repeatFrame (s : State) (c : Fin 64) (n : Nat) : ((s.repeatFrame c n).1).circuit c = (s.circuit c).repeated := by
  unfold Circuit.repeated
  cases mark : (s.circuit c).buffer.startMark with
  | true =>
    simp only [State.repeatFrame, mark, if_true, raiseCircuit_eq, circuit_raise_self, count_eq, circuit_onCircuit_self,
      Circuit.raisedIf_true]
  | false => simp only [State.repeatFrame, mark, Bool.false_eq_true, if_false, Circuit.raisedIf_false]

/-! ### A frame skipped (R119) -/

/-- A skip of the frame at the pointer is a delete slip (R119). -/
def Circuit.deletes (k : Circuit) (x : Pointer) : Bool :=
  k.control.state == .playing && k.buffer.startMark && (k.buffer.slot k.entry.depth x.seq).isSome

theorem deletes_iff (k : Circuit) (x : Pointer) : k.deletes x = true ↔ k.control.state = .playing ∧ k.buffer.startMark = true
    ∧ (k.buffer.slot k.entry.depth x.seq).isSome = true := by
  simp only [Circuit.deletes, Bool.and_eq_true, beq_iff_eq, and_assoc]

/-- A circuit in which a skip has counted its delete slip, if it is one, before its pointer advances (R119). -/
def Circuit.deleted (k : Circuit) (slip : Bool) : Circuit :=
  ({ k with counters := if slip then bump k.counters CircuitCounter.deleteSlips.place else k.counters } :
    Circuit).raisedIf slip .slip (.slip .delete)

theorem circuit_skipFrame (pointer : (s.circuit c).buffer.pointer = some x) :
    (s.skipFrame c).circuit c = ((s.circuit c).deleted ((s.circuit c).deletes x)).advanced := by
  unfold State.skipFrame
  extract_lets k held slipped
  have slip : (k.control.state == .playing && k.buffer.startMark && held) = k.deletes x := by
    simp only [held, show k.buffer.pointer = some x from pointer]
    rfl
  rw [circuit_advancePointer]
  simp only [slipped, slip]
  cases k.deletes x with
  | true =>
    simp only [if_true, raiseCircuit_eq, circuit_raise_self, count_eq, circuit_onCircuit_self]
    rfl
  | false =>
    simp only [Bool.false_eq_true, if_false]
    rfl

theorem pointer_skipFrame (pointer : (s.circuit c).buffer.pointer = some x) : ((s.skipFrame c).circuit c).buffer.pointer
    = some (if x.frame + 1 < (s.circuit c).entry.frames then ⟨x.seq, x.frame + 1, x.ts⟩
        else ⟨x.seq + 1, 0, stampAfter x.ts (s.circuit c).entry.frames 1⟩) := by
  rw [circuit_skipFrame pointer]
  exact pointer_advanced pointer

/-! ### The lead after a skip (R119) -/

theorem signed32_sub_ofNat (q y : Ticks) (n : Nat) (low : -2147483648 ≤ signed32 q y - n) (high : signed32 q y - n < 2147483648) :
    signed32 q (y + BitVec.ofNat 32 n) = signed32 q y - n := by
  have apart : q - (y + BitVec.ofNat 32 n) = (q - y) - BitVec.ofNat 32 n := by ring
  unfold signed32 at *
  rw [apart, BitVec.toInt_sub, BitVec.toInt_ofNat', Int.sub_bmod_bmod]
  exact Int.bmod_eq_of_le_mul_two (by push_cast; omega) (by push_cast; omega)

/-- The next frame plays 1024 ticks later, in the packet or at the start of the next (R116). -/
theorem playTime_next {frames : Nat} (within : x.frame < frames) (pd : Nat) :
    playTime (if x.frame + 1 < frames then ⟨x.seq, x.frame + 1, x.ts⟩ else ⟨x.seq + 1, 0, stampAfter x.ts frames 1⟩) pd
      = playTime x pd + BitVec.ofNat 32 1024 := by
  split
  · have sum : (x.frame + 1 + pd) * 1024 = (x.frame + pd) * 1024 + 1024 := by ring
    rw [playTime, playTime, sum, BitVec.ofNat_add, BitVec.add_assoc]
  · have last : frames = x.frame + 1 := by omega
    have sum : frames * 1024 + (0 + pd) * 1024 = (x.frame + pd) * 1024 + 1024 := by rw [last]; ring
    rw [playTime, playTime, stampAfter_one, BitVec.add_assoc, ← BitVec.ofNat_add, sum, BitVec.ofNat_add, BitVec.add_assoc]

/-- The frame at the pointer of a circuit, with its lead for an RT (R116), in a packet of the circuit's frames. -/
structure LeadIs (s : State) (c : Fin 64) (rt : Ticks) (x : Pointer) (lead : Int) : Prop where
  pointer : (s.circuit c).buffer.pointer = some x
  within  : x.frame < (s.circuit c).entry.frames
  lead    : leadOf rt x (s.circuit c).entry.playoutDelay = lead

theorem leadIs_skipFrame {rt : Ticks} {lead : Int} (h : LeadIs s c rt x lead) (late : 512 ≤ lead) :
    ∃ y, LeadIs (s.skipFrame c) c rt y (lead - 1024) := by
  have entry := (skipFrame_only s c).entry
  refine ⟨_, pointer_skipFrame h.pointer, ?_, ?_⟩
  · rw [entry]
    have within := h.within
    split
    · next more => exact more
    · exact Nat.lt_of_le_of_lt (Nat.zero_le _) within
  · have bound : lead < 2147483648 := by
      rw [← h.lead]
      exact BitVec.toInt_lt
    have same : signed32 rt (playTime x (s.circuit c).entry.playoutDelay) = lead := h.lead
    rw [entry, leadOf, playTime_next h.within, signed32_sub_ofNat _ _ _ (by rw [same]; omega) (by rw [same]; omega), same]
    rfl

theorem leadIs_skipFrames {rt : Ticks} (n : Nat) {s : State} {x : Pointer} {lead : Int} (h : LeadIs s c rt x lead)
    (late : lead - 1024 * (n : Int) ≥ -512) : ∃ y, LeadIs (State.skipFrames c n s) c rt y (lead - 1024 * (n : Int)) := by
  induction n generalizing s x lead with
  | zero => exact ⟨x, by simpa [State.skipFrames] using h⟩
  | succ n ih =>
    obtain ⟨y, next⟩ := leadIs_skipFrame h (by push_cast at late; omega)
    obtain ⟨z, last⟩ := ih next (by push_cast at late; omega)
    exact ⟨z, by rw [show lead - 1024 * ((n + 1 : Nat) : Int) = lead - 1024 - 1024 * (n : Int) by push_cast; ring]; exact last⟩

/-- As many frames are skipped as bring the lead into the margin (R119). -/
theorem skipsNeeded_margin {lead : Int} (late : 512 ≤ lead) :
    -512 ≤ lead - 1024 * (skipsNeeded lead : Int) ∧ lead - 1024 * (skipsNeeded lead : Int) ≤ 511 := by
  have count : (skipsNeeded lead : Int) = (lead - 512) / 1024 + 1 := by
    rw [skipsNeeded, if_neg (by omega)]
    omega
  rw [count]
  omega

/-- A playout is the playout of the state its skips leave. -/
theorem playFrame_skipped (pointer : (s.circuit c).buffer.pointer = some x) (idle : Byte) (rt : Ticks) {y : Pointer} {lead : Int}
    (after : LeadIs (State.skipFrames c (skipsNeeded (leadOf rt x (s.circuit c).entry.playoutDelay)) s) c rt y lead)
    (early : lead < 512) : s.playFrame c idle rt
      = (State.skipFrames c (skipsNeeded (leadOf rt x (s.circuit c).entry.playoutDelay)) s).playFrame c idle rt := by
  have only := skipFrames_only s c (skipsNeeded (leadOf rt x (s.circuit c).entry.playoutDelay))
  rw [playFrame_now after.pointer idle rt (by rw [after.lead]; exact early), width_of_only only, only.entry]
  simp only [State.playFrame, pointer, after.pointer, onBuffer_eq]
  rfl

/-- Settles O22: repeats, skips and what one skip does. -/
theorem earlyFramesRepeatAndLateFramesSkip : Obligations.EarlyFramesRepeatAndLateFramesSkip := by
  intro s c idle x rt k lead pointer
  refine ⟨fun early => ?_, fun late within => ?_, ?_, skipFrame_only s c, ?_, ?_⟩
  · have now := (playFrame_now pointer idle rt (show lead < 512 by omega)).trans (if_pos early)
    have circuit : (s.playFrame c idle rt).1.circuit c = (k.led lead).repeated := by
      rw [now, circuit_repeatFrame, circuit_onCircuit_self]
    refine ⟨(s.playFrame c idle rt).1, ?_, playFrame_only s c idle rt, ?_, ?_, ?_⟩
    · rw [now]
      simp only [State.repeatFrame, circuit_onCircuit_self]
      rfl
    · rw [circuit]; rfl
    · rw [circuit]
      show (if k.buffer.startMark then bump k.counters CircuitCounter.repeatSlips.place else k.counters).get _ = _
      split
      · exact get_bump_self _ _
      · rfl
    · rw [flag_circuit_of_raisedIf (s := s) circuit rfl]
      simp only [and_true]
      rfl
  · have start : LeadIs s c rt x lead := ⟨pointer, within, rfl⟩
    obtain ⟨low, high⟩ := skipsNeeded_margin late
    obtain ⟨y, after⟩ := leadIs_skipFrames (skipsNeeded lead) start low
    have same : s.playFrame c idle rt = (State.skipFrames c (skipsNeeded lead) s).playFrame c idle rt :=
      playFrame_skipped pointer idle rt after (by omega)
    have entry := (skipFrames_only s c (skipsNeeded lead)).entry
    obtain ⟨v, o, played, -, -, frame, -, last, -⟩ := dueFrameIsDelivered (State.skipFrames c (skipsNeeded lead) s) c idle y rt
      after.pointer (by rw [← after.lead] at low; exact low) (by rw [← after.lead] at high; exact high)
    refine ⟨y, after.pointer, by rw [← entry]; exact after.lead, low, high, same, ?_, ?_⟩
    · rw [same, played]; exact frame
    · rw [same, played]; exact last.trans (congrArg some after.lead)
  · rw [circuit_skipFrame pointer]
    refine pointerAdvanced_of pointer rfl rfl rfl rfl ?_
    show (if _ then bump k.counters CircuitCounter.deleteSlips.place else k.counters).get _ = _
    split
    · exact get_bump_of_ne _ (by decide)
    · rfl
  · rw [circuit_skipFrame pointer, (advanceKept_advanced _).counters _ (by decide)]
    show (if k.deletes x = true then bump k.counters CircuitCounter.deleteSlips.place else k.counters).get _ = _
    simp only [deletes_iff]
    split
    · exact get_bump_self _ _
    · rfl
  · have flags : ((s.skipFrame c).circuit c).flags = (k.deleted (k.deletes x)).flags := by
      rw [circuit_skipFrame pointer, (advanceKept_advanced _).blocks]
    have form : (s.skipFrame c).circuit c = ({ (s.skipFrame c).circuit c with flags := k.flags } : Circuit).raisedIf (k.deletes x)
        .slip (.slip .delete) := by
      conv_lhs => rw [show (s.skipFrame c).circuit c
        = { (s.skipFrame c).circuit c with flags := ((s.skipFrame c).circuit c).flags } from rfl, flags]
      rfl
    rw [flag_circuit_of_raisedIf (s := s) form rfl]
    simp only [and_true, deletes_iff]

end Sys2Proof.Machine

/-! PROOFS. A transmit frame start: the clocking block it judges (R151, R152). -/

namespace Sys2Proof.Machine

variable {s u : State} {t : Fin 16} {c : Fin 64}

/-! ### What placing circuits leaves of the tributaries (R13, R14) -/

theorem placeCircuit_tributaries (t : Fin 16) (c : Fin 64) (rt : Ticks) (x : State × List Byte) :
    (State.placeCircuit t c rt x).1.tributaries = x.1.tributaries := by
  unfold State.placeCircuit
  dsimp only
  split
  · split
    · rfl
    · rfl
    · rfl
    · exact (playFrame_runs x.1 c _ rt).tributaries
    · exact (playFrame_runs x.1 c _ rt).tributaries
  · rfl

theorem placeCircuits_tributaries (t : Fin 16) (rt : Fin 64 → Ticks) (l : List (Fin 64)) (x : State × List Byte) :
    (l.foldl (fun x c => State.placeCircuit t c (rt c) x) x).1.tributaries = x.1.tributaries := by
  induction l generalizing x with
  | nil => rfl
  | cons c l ih => exact (ih _).trans (placeCircuit_tributaries t c (rt c) x)

/-- The state and the frame that the circuits of a tributary leave, one after the other (log 12). -/
def State.placed (s : State) (t : Fin 16) (rt : Fin 64 → Ticks) : State × List Byte :=
  allCircuits.foldl (fun x c => State.placeCircuit t c (rt c) x) (s, (s.tributary t).blankFrame)

theorem assembleFrame_eq (s : State) (t : Fin 16) (rt : Fin 64 → Ticks) :
    s.assembleFrame t rt = (s.placed t rt).1.onTransmit t (fun k => { k with frame := (s.placed t rt).2 }) := rfl

theorem tributary_assembleFrame (s : State) (t : Fin 16) (rt : Fin 64 → Ticks) : (s.assembleFrame t rt).tributary t
    = { s.tributary t with transmit := { (s.tributary t).transmit with frame := (s.placed t rt).2 } } := by
  have same : (s.placed t rt).1.tributary t = s.tributary t :=
    State.tributary_congr (placeCircuits_tributaries t rt allCircuits (s, (s.tributary t).blankFrame)) t
  rw [assembleFrame_eq, onTransmit_eq, tributary_onTributary_self, same]

/-! ### The clocking block (R151, R152) -/

/-- H and its validity after a frame start has applied the table (R151). -/
def State.refreshed (s : State) (t : Fin 16) : Int × Bool :=
  match meanTowardZero (s.circuit (s.tributary t).entry.timing).recovery.history with
  | some h =>
    if (s.tributary t).clocking.pendingWrite = some true ∧ (s.circuit (s.tributary t).entry.timing).names t = true then (h, true)
    else ((s.tributary t).clocking.holdover, (s.tributary t).clocking.valid)
  | none => ((s.tributary t).clocking.holdover, (s.tributary t).clocking.valid)

theorem refreshHoldover_apart (apart : (s.circuit (s.tributary t).clocking.timing).names t = false) : s.refreshHoldover t = s := by
  simp only [State.refreshHoldover, State.timingCircuit, apart, Bool.false_eq_true, if_false]

theorem refreshHoldover_empty (empty : (s.circuit (s.tributary t).clocking.timing).recovery.mean = none) :
    s.refreshHoldover t = s := by
  unfold State.refreshHoldover State.timingCircuit
  split
  · rfl
  · next c timing =>
    split at timing
    · cases timing; simp only [empty]
    · cases timing

theorem refreshHoldover_mean {h : Int} (names : (s.circuit (s.tributary t).clocking.timing).names t = true)
    (mean : (s.circuit (s.tributary t).clocking.timing).recovery.mean = some h) : s.refreshHoldover t = s.setHoldover t h := by
  simp only [State.refreshHoldover, State.timingCircuit, names, if_true, mean]

/-- A tributary to whose clocking block the table has been applied, H as it was. -/
theorem applyClockTable_kept (plain : (s.tributary t).clocking.pendingWrite ≠ some true) : (s.applyClockTable t).tributary t
    = (s.tributary t).tabled (s.tributary t).clocking.holdover (s.tributary t).clocking.valid := by
  simp only [State.applyClockTable, if_neg plain, tributary_onTributary_self]
  rfl

theorem applyClockTable_refreshed (s : State) (t : Fin 16) : (s.applyClockTable t).tributary t
    = (s.tributary t).tabled (s.refreshed t).1 (s.refreshed t).2 := by
  by_cases refresh : (s.tributary t).clocking.pendingWrite = some true
  · generalize applied_def : s.onTributary t (fun k => { k with clocking :=
      { k.clocking with inForce := k.entry.clockMode, timing := k.entry.timing, pendingWrite := none } }) = v
    have tributary : v.tributary t
        = (s.tributary t).tabled (s.tributary t).clocking.holdover (s.tributary t).clocking.valid := by
      rw [← applied_def, tributary_onTributary_self]
      rfl
    have circuit : v.circuit (v.tributary t).clocking.timing = s.circuit (s.tributary t).entry.timing := by
      rw [tributary, ← applied_def, circuit_onTributary]
      rfl
    have form : s.applyClockTable t = v.refreshHoldover t := by
      simp only [State.applyClockTable, if_pos refresh, applied_def]
    rw [form]
    unfold State.refreshed
    cases mean : meanTowardZero (s.circuit (s.tributary t).entry.timing).recovery.history with
    | none => rw [refreshHoldover_empty (by rw [circuit]; exact mean), tributary]
    | some h =>
      rcases Bool.eq_false_or_eq_true ((s.circuit (s.tributary t).entry.timing).names t) with names | apart
      · rw [refreshHoldover_mean (by rw [circuit]; exact names) (by rw [circuit]; exact mean)]
        simp only [refresh, names, and_self, if_true]
        rw [State.setHoldover, onClocking_eq, tributary_onTributary_self, tributary]
        rfl
      · rw [refreshHoldover_apart (by rw [circuit]; exact apart), tributary]
        simp only [apart, Bool.false_eq_true, and_false, if_false]
  · rw [applyClockTable_kept refresh]
    unfold State.refreshed
    split
    · rw [if_neg (fun both => refresh both.1)]
    · rfl

/-- The state in which a frame start judges the mode, as its tributary has it. -/
theorem applied_refreshed (s : State) (t : Fin 16) : (s.applied t).tributary t
    = ({ s.tributary t with transmit := (s.tributary t).transmit.begin } : Tributary).tabled (s.refreshed t).1
        (s.refreshed t).2 := by
  have begun : (s.onTransmit t Transmit.begin).tributary t
      = { s.tributary t with transmit := (s.tributary t).transmit.begin } := by
    rw [onTransmit_eq, tributary_onTributary_self]
  have same : (s.onTransmit t Transmit.begin).refreshed t = s.refreshed t := by
    have circuits (c : Fin 64) : (s.onTransmit t Transmit.begin).circuit c = s.circuit c := by
      rw [onTransmit_eq, circuit_onTributary]
    simp only [State.refreshed, begun, circuits]
  rw [State.applied, applyClockTable_refreshed, begun, same]

theorem adaptiveReady_iff (s : State) (t : Fin 16) : s.adaptiveReady t = true
    ↔ (s.circuit (s.tributary t).clocking.timing).names t = true
      ∧ (s.circuit (s.tributary t).clocking.timing).control.state = .playing
      ∧ (s.circuit (s.tributary t).clocking.timing).recovery.locked = true := by
  unfold State.adaptiveReady State.timingCircuit
  rcases Bool.eq_false_or_eq_true ((s.circuit (s.tributary t).clocking.timing).names t) with names | apart
  · simp [names]
  · simp [apart]

theorem adaptiveKept_iff (s : State) (t : Fin 16) : s.adaptiveKept t = true
    ↔ (s.circuit (s.tributary t).clocking.timing).names t = true
      ∧ (s.circuit (s.tributary t).clocking.timing).control.state = .playing := by
  unfold State.adaptiveKept State.timingCircuit
  rcases Bool.eq_false_or_eq_true ((s.circuit (s.tributary t).clocking.timing).names t) with names | apart
  · simp [names]
  · simp [apart]

theorem judgedMode_free (force : (s.tributary t).clocking.inForce = .free) : s.judgedMode t = .free := by
  simp only [State.judgedMode, force]

theorem judgedMode_holdover (force : (s.tributary t).clocking.inForce = .holdover) :
    s.judgedMode t = if (s.tributary t).clocking.valid = true then .holdover else .free := by
  simp only [State.judgedMode, force]

theorem judgedMode_ofLoop (force : (s.tributary t).clocking.inForce = .loop) :
    s.judgedMode t = if (s.tributary t).line.signal = .present then .loop else .free := by
  simp only [State.judgedMode, force]

/-- ADAPTIVE in force (R152): ADAPTIVE while the timing circuit plays and is LOCKED or the mode was ADAPTIVE already. -/
theorem judgedMode_ofAdaptive (force : (s.tributary t).clocking.inForce = .adaptive) : s.judgedMode t
    = if (s.circuit (s.tributary t).clocking.timing).names t = true
          ∧ (s.circuit (s.tributary t).clocking.timing).control.state = .playing
          ∧ ((s.circuit (s.tributary t).clocking.timing).recovery.locked = true ∨ (s.tributary t).clocking.actual = .adaptive) then
        .adaptive
      else if (s.tributary t).clocking.actual = .holdover then .holdover else .free := by
  simp only [State.judgedMode, force, adaptiveReady_iff, adaptiveKept_iff]
  by_cases names : (s.circuit (s.tributary t).clocking.timing).names t = true
  · by_cases plays : (s.circuit (s.tributary t).clocking.timing).control.state = .playing
    · cases (s.circuit (s.tributary t).clocking.timing).recovery.locked
      · cases (s.tributary t).clocking.actual <;> simp [names, plays]
      · simp [names, plays]
    · cases (s.tributary t).clocking.actual <;> simp [plays]
  · cases (s.tributary t).clocking.actual <;> simp [names]

/-! ### The mode given (R149, R156) -/

/-- The clocking block and the flags that a frame start leaves. -/
theorem clocked_block (s : State) (t : Fin 16) : ((s.clocked t).tributary t).clocking
      = { ((s.applied t).tributary t).clocking with actual := (s.applied t).judgedMode t }
    ∧ ((s.clocked t).tributary t).flags
      = if ((s.applied t).tributary t).clocking.actual = (s.applied t).judgedMode t then ((s.applied t).tributary t).flags
        else (((s.applied t).tributary t).raised .clockModeChange (.clockMode ((s.applied t).judgedMode t))).flags := by
  have actual := actual_setActual (s.applied t) t ((s.applied t).judgedMode t)
  have given := tributary_setActual_self (s.applied t) t ((s.applied t).judgedMode t)
  have retimed := tributary_retime ((s.applied t).setActual t ((s.applied t).judgedMode t)) t (s.sourceRate t)
  refine ⟨?_, ?_⟩
  · rw [← actual.1]
    refine (congrArg Tributary.clocking retimed).trans ?_
    split <;> rfl
  · have kept : ((s.clocked t).tributary t).flags
        = (((s.applied t).setActual t ((s.applied t).judgedMode t)).tributary t).flags := by
      refine (congrArg Tributary.flags retimed).trans ?_
      split <;> rfl
    rw [kept, given]
    split <;> rfl

theorem exec_transmitFrameStart (due : 256 ≤ (s.tributary t).transmit.bits) :
    exec (.transmitFrameStart t) s = .next ((s.clocked t).assembleFrame t (s.rtAtFrameStart t)) := by
  show Host.Outcome.next (if s.frameStartDue t then s.frameStart t else s) = _
  rw [if_pos (show s.frameStartDue t = true from decide_eq_true due), frameStart_eq]

/-- Settles O20, by the mode in force. -/
theorem clockModeIsJudgedAtFrameStart : Obligations.ClockModeIsJudgedAtFrameStart := by
  intro t s due e old k
  refine ⟨_, exec_transmitFrameStart due, ?_⟩
  obtain ⟨clocking, flags⟩ := clocked_block s t
  have applied := applied_refreshed s t
  have block : (((s.clocked t).assembleFrame t (s.rtAtFrameStart t)).tributary t).clocking
      = { old with
          inForce := e.clockMode, timing := e.timing, pendingWrite := none, holdover := (s.refreshed t).1
          valid := (s.refreshed t).2, actual := (s.applied t).judgedMode t } := by
    rw [tributary_assembleFrame, clocking, applied]
    rfl
  have circuit : (s.applied t).circuit ((s.applied t).tributary t).clocking.timing = k := by
    rw [applied_circuit, applied]
    rfl
  have was : ((s.applied t).tributary t).clocking.actual = old.actual := by rw [applied]; rfl
  have force : ((s.applied t).tributary t).clocking.inForce = e.clockMode := by rw [applied]; rfl
  have line : ((s.applied t).tributary t).line = (s.tributary t).line := by rw [applied]; rfl
  have valid : ((s.applied t).tributary t).clocking.valid = (s.refreshed t).2 := by rw [applied]; rfl
  intro now
  have now_eq : now = _ := block
  refine ⟨by rw [now_eq], by rw [now_eq], by rw [now_eq], ?_, ?_, ?_⟩
  · rw [now_eq]
    dsimp only
    unfold State.refreshed
    cases mean : meanTowardZero k.recovery.history with
    | none =>
      exact ⟨rfl, rfl⟩
    | some h =>
      dsimp only
      by_cases refresh : old.pendingWrite = some true ∧ k.names t = true
      · rw [if_pos refresh, if_pos refresh]; exact ⟨rfl, rfl⟩
      · rw [if_neg refresh, if_neg refresh]; exact ⟨rfl, rfl⟩
  · rw [now_eq]
    dsimp only
    cases mode : e.clockMode with
    | free => rw [judgedMode_free (force.trans mode)]
    | holdover => rw [judgedMode_holdover (force.trans mode), valid]
    | loop => rw [judgedMode_ofLoop (force.trans mode), line]
    | adaptive => rw [judgedMode_ofAdaptive (force.trans mode), circuit, was]
  · have actual : now.actual = (s.applied t).judgedMode t := by rw [now_eq]
    rw [actual]
    have kept : (((s.clocked t).assembleFrame t (s.rtAtFrameStart t)).tributary t).flags = ((s.clocked t).tributary t).flags := by
      rw [tributary_assembleFrame]
    have own : ((s.applied t).tributary t).flags = (s.tributary t).flags := by rw [applied]; rfl
    by_cases same : old.actual = (s.applied t).judgedMode t
    · rw [if_pos (was.trans same)] at flags
      rw [if_pos same.symm]
      simp only [State.flag, kept, flags, own]
    · rw [if_neg (fun h => same (was.symm.trans h))] at flags
      rw [if_neg (fun h => same h.symm)]
      simp only [State.flag, State.flagAfter, kept, flags, Tributary.raised, own, getElem_raisedRow, if_true]

end Sys2Proof.Machine

/-! PROOFS. A playout reads and changes its own circuit alone (R116 to R122), and the octets circuits place in a frame (R13, R14). -/

namespace Sys2Proof.Machine

variable {s u v : State} {t : Fin 16} {c : Fin 64} {x : Pointer}

/-! ### What a playout leaves alone of its circuit -/

/-- A circuit of which only the buffer, the counters and the flags have changed. -/
def PlayKept (k w : Circuit) : Prop := w = { k with buffer := w.buffer, counters := w.counters, flags := w.flags }

theorem PlayKept.trans {k v w : Circuit} (h : PlayKept k v) (i : PlayKept v w) : PlayKept k w := by
  unfold PlayKept at *
  rw [i, h]

theorem PlayKept.advanced {k w : Circuit} (h : PlayKept k w) : PlayKept k w.advanced := by
  refine h.trans ?_
  unfold PlayKept
  rw [(advanceKept_advanced w).blocks]

/-- A circuit after a skip of the frame at its pointer (R119). -/
def Circuit.skipped (k : Circuit) : Circuit :=
  match k.buffer.pointer with
  | none => k
  | some x => (k.deleted (k.deletes x)).advanced

theorem circuit_skipFrame_skipped (s : State) (c : Fin 64) : (s.skipFrame c).circuit c = (s.circuit c).skipped := by
  cases pointer : (s.circuit c).buffer.pointer with
  | none =>
    simp only [State.skipFrame, pointer, Bool.and_false, Bool.false_eq_true, if_false, circuit_advancePointer,
      advanced_none pointer, Circuit.skipped]
  | some x => rw [circuit_skipFrame pointer, Circuit.skipped, pointer]

theorem circuit_skipFrames (c : Fin 64) (n : Nat) (s : State) :
    (State.skipFrames c n s).circuit c = Circuit.skipped^[n] (s.circuit c) := by
  induction n generalizing s with
  | zero => rfl
  | succ n ih => rw [State.skipFrames, ih, circuit_skipFrame_skipped, Function.iterate_succ_apply]

theorem playKept_skipped (k : Circuit) : PlayKept k k.skipped := by
  cases pointer : k.buffer.pointer with
  | none => simp only [Circuit.skipped, pointer]; rfl
  | some x =>
    simp only [Circuit.skipped, pointer]
    exact PlayKept.advanced rfl

theorem playKept_skips (n : Nat) (k : Circuit) : PlayKept k (Circuit.skipped^[n] k) := by
  induction n generalizing k with
  | zero => rfl
  | succ n ih => rw [Function.iterate_succ_apply]; exact (playKept_skipped k).trans (ih _)

/-- A delivery as its circuit and its octets have it: a function of the circuit (R121, R122). -/
theorem deliverFrame_congr (same : v.circuit c = s.circuit c) (x : Pointer) (idle : Byte) (n : Nat) :
    ((v.deliverFrame c x idle n).1.circuit c = (s.deliverFrame c x idle n).1.circuit c
      ∧ (v.deliverFrame c x idle n).2 = (s.deliverFrame c x idle n).2)
    ∧ PlayKept (s.circuit c) ((s.deliverFrame c x idle n).1.circuit c) := by
  cases held : (s.circuit c).buffer.slot (s.circuit c).entry.depth x.seq with
  | some e =>
    rw [deliverFrame_held held, deliverFrame_held (s := v) (e := e) (by rw [same]; exact held)]
    simp only [circuit_advancePointer, circuit_onCircuit_self, same, and_self, true_and]
    exact PlayKept.advanced rfl
  | none =>
    rw [deliverFrame_missing held, deliverFrame_missing (s := v) (by rw [same]; exact held)]
    simp only [circuit_advancePointer, circuit_onCircuit_self, same, and_self, true_and]
    exact PlayKept.advanced rfl

theorem repeatFrame_congr (same : v.circuit c = s.circuit c) (n : Nat) :
    ((v.repeatFrame c n).1.circuit c = (s.repeatFrame c n).1.circuit c ∧ (v.repeatFrame c n).2 = (s.repeatFrame c n).2)
    ∧ PlayKept (s.circuit c) ((s.repeatFrame c n).1.circuit c) := by
  rw [circuit_repeatFrame, circuit_repeatFrame, same]
  refine ⟨⟨rfl, ?_⟩, rfl⟩
  simp only [State.repeatFrame, same]

/-- A playout of a circuit is a function of the circuit and its width, and keeps what is no part of the playout. -/
theorem playFrame_congr (same : v.circuit c = s.circuit c) (width : v.width c = s.width c) (idle : Byte) (rt : Ticks) :
    ((v.playFrame c idle rt).1.circuit c = (s.playFrame c idle rt).1.circuit c
      ∧ (v.playFrame c idle rt).2 = (s.playFrame c idle rt).2)
    ∧ PlayKept (s.circuit c) ((s.playFrame c idle rt).1.circuit c) := by
  simp only [State.playFrame, same, width]
  cases pointer : (s.circuit c).buffer.pointer with
  | none => exact ⟨⟨same, rfl⟩, rfl⟩
  | some x =>
    dsimp only
    generalize skipsNeeded (leadOf rt x (s.circuit c).entry.playoutDelay) = n
    have skips := circuit_skipFrames c n s
    have kept : PlayKept (s.circuit c) ((State.skipFrames c n s).circuit c) := by rw [skips]; exact playKept_skips n _
    have after : (State.skipFrames c n v).circuit c = (State.skipFrames c n s).circuit c := by
      rw [circuit_skipFrames, skips, same]
    rw [after]
    cases (State.skipFrames c n s).circuit c |>.buffer.pointer with
    | none => exact ⟨⟨after, rfl⟩, kept⟩
    | some y =>
      dsimp only
      generalize leadOf rt y (s.circuit c).entry.playoutDelay = lead
      have led : ((State.skipFrames c n v).onBuffer c (fun b => { b with lastLead := some lead })).circuit c
          = ((State.skipFrames c n s).onBuffer c (fun b => { b with lastLead := some lead })).circuit c := by
        rw [onBuffer_eq, circuit_onCircuit_self, onBuffer_eq, circuit_onCircuit_self, after]
      have ledKept : PlayKept (s.circuit c)
          (((State.skipFrames c n s).onBuffer c (fun b => { b with lastLead := some lead })).circuit c) := by
        rw [onBuffer_eq, circuit_onCircuit_self]
        exact kept.trans rfl
      split
      · exact ⟨(repeatFrame_congr led _).1, ledKept.trans (repeatFrame_congr led _).2⟩
      · exact ⟨(deliverFrame_congr led y idle _).1, ledKept.trans (deliverFrame_congr led y idle _).2⟩

/-! ### Octets placed in timeslots (R13) -/

theorem placeOctets_nil (frame octets : List Byte) : placeOctets frame [] octets = frame := by
  cases octets <;> rfl

theorem length_placeOctets (frame : List Byte) (slots : List Nat) (octets : List Byte) :
    (placeOctets frame slots octets).length = frame.length := by
  induction slots generalizing frame octets with
  | nil => rw [placeOctets_nil]
  | cons k slots ih =>
    cases octets with
    | nil => rfl
    | cons b octets => rw [placeOctets, ih, List.length_set]

theorem placeOctets_apart {k : Nat} {slots : List Nat} (apart : k ∉ slots) (frame octets : List Byte) :
    (placeOctets frame slots octets)[k]? = frame[k]? := by
  induction slots generalizing frame octets with
  | nil => rw [placeOctets_nil]
  | cons j slots ih =>
    rw [List.mem_cons, not_or] at apart
    cases octets with
    | nil => rfl
    | cons b octets => rw [placeOctets, ih apart.2, List.getElem?_set_ne (Ne.symm apart.1)]

/-- The `i`th octet stands in the `i`th timeslot. -/
theorem placeOctets_at {k i : Nat} {slots : List Nat} (once : slots.Nodup) {frame octets : List Byte} {b : Byte}
    (room : k < frame.length) (slot : slots[i]? = some k) (octet : octets[i]? = some b) :
    (placeOctets frame slots octets)[k]? = some b := by
  induction slots generalizing frame octets i with
  | nil => cases slot
  | cons j slots ih =>
    rw [List.nodup_cons] at once
    cases octets with
    | nil => cases octet
    | cons a octets =>
      rw [placeOctets]
      cases i with
      | zero =>
        simp only [List.getElem?_cons_zero, Option.some.injEq] at slot octet
        subst slot octet
        rw [placeOctets_apart once.1, List.getElem?_set_self room]
      | succ i =>
        rw [List.getElem?_cons_succ] at slot octet
        exact ih once.2 (by rw [List.length_set]; exact room) slot octet

theorem placeOctets_ones {k : Nat} {slots : List Nat} (once : slots.Nodup) {frame : List Byte} (room : k < frame.length)
    (slot : k ∈ slots) (b : Byte) : (placeOctets frame slots (List.replicate slots.length b))[k]? = some b := by
  obtain ⟨i, at'⟩ := List.getElem?_of_mem slot
  have bound : i < slots.length := (List.getElem?_eq_some_iff.mp at').1
  exact placeOctets_at once room at' (by rw [List.getElem?_replicate, if_pos bound])

theorem slotsOf_nodup (m : BitVec 32) : (slotsOf m).Nodup := List.nodup_range.filter _

theorem mem_slotsOf (m : BitVec 32) (k : Nat) : k ∈ slotsOf m ↔ k < 32 ∧ m.getLsbD k = true := by
  simp [slotsOf]

end Sys2Proof.Machine

/-! PROOFS. The frame of a tributary assembled circuit by circuit (R13, R14, log 12). -/

namespace Sys2Proof.Machine

variable {s u v : State} {t : Fin 16} {c : Fin 64} {rt : Ticks} {x : State × List Byte}

/-! ### What one circuit places -/

/-- The timeslots a circuit fills on a tributary of the given framing (R13, R14). -/
def Circuit.slotsOn (k : Circuit) : Framing → List Nat
  | .framed => slotsOf k.entry.slotSet
  | .unframed => List.range 32
  | .off => []

theorem slotsOn_nodup (k : Circuit) (f : Framing) : (k.slotsOn f).Nodup := by
  cases f
  · exact List.nodup_nil
  · exact slotsOf_nodup _
  · exact List.nodup_range

/-- A circuit that plays (R14). -/
def Circuit.plays (k : Circuit) : Prop := k.control.state = .playing ∨ k.control.state = .starved

/-- A circuit that is engaged and does not play yet (R14). -/
def Circuit.silent (k : Circuit) : Prop := k.control.state = .awaiting ∨ k.control.state = .acquiring

theorem placeCircuit_none (out : (x.1.circuit c).engaged = true → (x.1.circuit c).names t = false) :
    State.placeCircuit t c rt x = x := by
  cases names : (x.1.circuit c).names t with
  | false => simp only [State.placeCircuit, names, Bool.false_eq_true, if_false]
  | true =>
    have off : (x.1.circuit c).control.state = .disabled := by
      by_contra other
      rw [out ((engaged_iff _).mpr other)] at names
      cases names
    simp only [State.placeCircuit, names, if_true, off]

/-- The framing of the tributary whose frame is assembled. -/
def framingIn (x : State × List Byte) (t : Fin 16) : Framing := (x.1.tributary t).entry.framing

theorem placeCircuit_silent (names : (x.1.circuit c).names t = true) (silent : (x.1.circuit c).silent) :
    State.placeCircuit t c rt x = (x.1, placeOctets x.2 ((x.1.circuit c).slotsOn (framingIn x t))
      (List.replicate ((x.1.circuit c).slotsOn (framingIn x t)).length 255)) := by
  unfold framingIn
  rcases silent with state | state
  · cases framing : (x.1.tributary t).entry.framing <;>
      simp only [State.placeCircuit, names, if_true, state, framing, Circuit.slotsOn]
  · cases framing : (x.1.tributary t).entry.framing <;>
      simp only [State.placeCircuit, names, if_true, state, framing, Circuit.slotsOn]

theorem placeCircuit_plays (names : (x.1.circuit c).names t = true) (plays : (x.1.circuit c).plays) :
    State.placeCircuit t c rt x = ((x.1.playFrame c (x.1.tributary t).entry.idle rt).1,
      placeOctets x.2 ((x.1.circuit c).slotsOn (framingIn x t)) (x.1.playFrame c (x.1.tributary t).entry.idle rt).2) := by
  unfold framingIn
  rcases plays with state | state
  · cases framing : (x.1.tributary t).entry.framing <;>
      simp only [State.placeCircuit, names, if_true, state, framing, Circuit.slotsOn]
  · cases framing : (x.1.tributary t).entry.framing <;>
      simp only [State.placeCircuit, names, if_true, state, framing, Circuit.slotsOn]

/-- Every circuit is DISABLED, plays, or is engaged and does not play yet. -/
theorem plays_or_silent {k : Circuit} (engaged : k.engaged = true) : k.plays ∨ k.silent := by
  have on := (engaged_iff k).mp engaged
  unfold Circuit.plays Circuit.silent
  cases state : k.control.state with
  | disabled => exact absurd state on
  | awaiting => simp
  | acquiring => simp
  | playing => simp
  | starved => simp

/-- What one circuit does to the frame being assembled: nothing, or octets in its own timeslots. -/
theorem placeCircuit_cases (t : Fin 16) (c : Fin 64) (rt : Ticks) (x : State × List Byte) :
    State.placeCircuit t c rt x = x
    ∨ ((x.1.circuit c).engaged = true ∧ (x.1.circuit c).names t = true) ∧ ∃ y octets,
        (y = x.1 ∨ (x.1.circuit c).plays ∧ y = (x.1.playFrame c (x.1.tributary t).entry.idle rt).1)
        ∧ State.placeCircuit t c rt x = (y, placeOctets x.2 ((x.1.circuit c).slotsOn (framingIn x t)) octets) := by
  rcases Bool.eq_false_or_eq_true ((x.1.circuit c).engaged && (x.1.circuit c).names t) with on | off
  · rw [Bool.and_eq_true] at on
    rcases plays_or_silent on.1 with plays | silent
    · exact .inr ⟨on, _, _, .inr ⟨plays, rfl⟩, placeCircuit_plays on.2 plays⟩
    · exact .inr ⟨on, _, _, .inl rfl, placeCircuit_silent on.2 silent⟩
  · refine .inl (placeCircuit_none fun engaged => ?_)
    rw [engaged] at off
    exact off

/-! ### The circuits one after the other -/

/-- The circuits of a list place their octets, one after the other (log 12). -/
def placeAll (t : Fin 16) (rt : Fin 64 → Ticks) (l : List (Fin 64)) (x : State × List Byte) : State × List Byte :=
  l.foldl (fun x c => State.placeCircuit t c (rt c) x) x

theorem placed_eq (s : State) (t : Fin 16) (rt : Fin 64 → Ticks) :
    s.placed t rt = placeAll t rt allCircuits (s, (s.tributary t).blankFrame) := rfl

theorem placeAll_append (t : Fin 16) (rt : Fin 64 → Ticks) (l m : List (Fin 64)) (x : State × List Byte) :
    placeAll t rt (l ++ m) x = placeAll t rt m (placeAll t rt l x) := List.foldl_append

/-- What placing circuits leaves alone: the run, every port, every tributary, and of each circuit all but what its playout
changes; the frame keeps its length. -/
structure PlaceKept (x y : State × List Byte) : Prop where
  run         : SameRun x.1 y.1
  ports       : y.1.ports = x.1.ports
  tributaries : y.1.tributaries = x.1.tributaries
  circuits    : ∀ c, PlayKept (x.1.circuit c) (y.1.circuit c)
  length      : y.2.length = x.2.length

theorem PlaceKept.refl (x : State × List Byte) : PlaceKept x x := ⟨.refl x.1, rfl, rfl, fun _ => rfl, rfl⟩

theorem PlaceKept.trans {x y z : State × List Byte} (h : PlaceKept x y) (i : PlaceKept y z) : PlaceKept x z :=
  ⟨h.run.trans i.run, i.ports.trans h.ports, i.tributaries.trans h.tributaries, fun c => (h.circuits c).trans (i.circuits c),
    i.length.trans h.length⟩

theorem circuit_placeCircuit_of_ne {d : Fin 64} (apart : d ≠ c) :
    (State.placeCircuit t c rt x).1.circuit d = x.1.circuit d := by
  rcases placeCircuit_cases t c rt x with e | ⟨-, y, octets, rfl | ⟨-, rfl⟩, e⟩ <;> rw [e]
  exact (playFrame_only x.1 c _ rt).others d apart

theorem placeKept_placeCircuit (t : Fin 16) (c : Fin 64) (rt : Ticks) (x : State × List Byte) :
    PlaceKept x (State.placeCircuit t c rt x) := by
  rcases placeCircuit_cases t c rt x with e | ⟨-, y, octets, rfl | ⟨-, rfl⟩, e⟩ <;> rw [e]
  · exact .refl x
  · exact ⟨.refl _, rfl, rfl, fun _ => rfl, length_placeOctets _ _ _⟩
  · have runs := playFrame_runs x.1 c (x.1.tributary t).entry.idle rt
    refine ⟨runs.only.run, runs.only.ports, runs.tributaries, fun d => ?_, length_placeOctets _ _ _⟩
    by_cases own : d = c
    · subst own
      exact (playFrame_congr rfl rfl _ rt).2
    · show PlayKept _ ((x.1.playFrame c (x.1.tributary t).entry.idle rt).1.circuit d)
      rw [runs.only.others d own]
      rfl

theorem placeKept_placeAll (t : Fin 16) (rt : Fin 64 → Ticks) (l : List (Fin 64)) (x : State × List Byte) :
    PlaceKept x (placeAll t rt l x) := by
  induction l generalizing x with
  | nil => exact .refl x
  | cons c l ih => exact (placeKept_placeCircuit t c (rt c) x).trans (ih _)

theorem circuit_placeAll_of_notMem {rt : Fin 64 → Ticks} {l : List (Fin 64)} (away : c ∉ l) (x : State × List Byte) :
    (placeAll t rt l x).1.circuit c = x.1.circuit c := by
  induction l generalizing x with
  | nil => rfl
  | cons d l ih =>
    rw [List.mem_cons, not_or] at away
    exact (ih away.2 _).trans (circuit_placeCircuit_of_ne away.1)

theorem framingIn_placeCircuit (x : State × List Byte) : framingIn (State.placeCircuit t c rt x) t = framingIn x t := by
  unfold framingIn
  rw [State.tributary_congr (placeCircuit_tributaries t c rt x)]

/-- A circuit that leaves timeslot `k` of a tributary's frame alone. -/
def Circuit.avoids (k : Circuit) (t : Fin 16) (f : Framing) (slot : Nat) : Prop :=
  k.engaged = true → k.names t = true → slot ∉ k.slotsOn f

theorem placeCircuit_apart {k : Nat} (apart : (x.1.circuit c).avoids t (framingIn x t) k) :
    (State.placeCircuit t c rt x).2[k]? = x.2[k]? := by
  rcases placeCircuit_cases t c rt x with e | ⟨⟨engaged, names⟩, y, octets, -, e⟩ <;> rw [e]
  exact placeOctets_apart (apart engaged names) _ _

theorem placeAll_apart {rt : Fin 64 → Ticks} {k : Nat} {l : List (Fin 64)} (once : l.Nodup) (x : State × List Byte)
    (apart : ∀ c ∈ l, (x.1.circuit c).avoids t (framingIn x t) k) : (placeAll t rt l x).2[k]? = x.2[k]? := by
  induction l generalizing x with
  | nil => rfl
  | cons c l ih =>
    rw [List.nodup_cons] at once
    refine (ih once.2 _ fun d listed => ?_).trans (placeCircuit_apart (apart c List.mem_cons_self))
    rw [circuit_placeCircuit_of_ne (fun same : d = c => once.1 (same ▸ listed)), framingIn_placeCircuit]
    exact apart d (List.mem_cons_of_mem c listed)

/-- The frame and the circuit that a circuit of the list leaves, the others leaving a timeslot to it: what it does to a state that
has its circuit and the tributaries as they were at the start. -/
theorem placeAll_own {rt : Fin 64 → Ticks} {l : List (Fin 64)} (once : l.Nodup) (listed : c ∈ l) (x : State × List Byte) :
    ∃ y, PlaceKept x y ∧ y.1.circuit c = x.1.circuit c
      ∧ (placeAll t rt l x).1.circuit c = (State.placeCircuit t c (rt c) y).1.circuit c
      ∧ ∀ k : Nat, (∀ d, d ≠ c → (x.1.circuit d).avoids t (framingIn x t) k) →
          (placeAll t rt l x).2[k]? = (State.placeCircuit t c (rt c) y).2[k]? := by
  obtain ⟨pre, post, rfl⟩ := List.append_of_mem listed
  rw [List.nodup_append] at once
  obtain ⟨_, tail, apart⟩ := once
  rw [List.nodup_cons] at tail
  have before : c ∉ pre := fun h => apart c h c List.mem_cons_self rfl
  have kept := placeKept_placeAll t rt pre x
  have own : (placeAll t rt pre x).1.circuit c = x.1.circuit c := circuit_placeAll_of_notMem before x
  have split : placeAll t rt (pre ++ c :: post) x
      = placeAll t rt post (State.placeCircuit t c (rt c) (placeAll t rt pre x)) := placeAll_append t rt pre (c :: post) x
  refine ⟨placeAll t rt pre x, kept, own, ?_, fun k free => ?_⟩
  · rw [split, circuit_placeAll_of_notMem tail.1]
  · have framing : framingIn (placeAll t rt pre x) t = framingIn x t := by
      unfold framingIn
      rw [State.tributary_congr kept.tributaries]
    rw [split]
    refine placeAll_apart tail.2 _ fun d later => ?_
    have other : d ≠ c := fun same => tail.1 (same ▸ later)
    have fresh : d ∉ pre := fun h => apart d h d (List.mem_cons_of_mem c later) rfl
    rw [circuit_placeCircuit_of_ne other, circuit_placeAll_of_notMem fresh, framingIn_placeCircuit, framing]
    exact free d other

end Sys2Proof.Machine

/-! PROOFS. A transmit frame start as a whole: its bit timing (R149) and the frame it assembles (R11 to R14). -/

namespace Sys2Proof.Machine

variable {s u v : State} {t : Fin 16} {c : Fin 64}

/-! ### RT at the bit edge (R116, R158) -/

theorem rtAtFrameStart_drift (same : ((s.tributary t).transmit.tickRate : Int) = 2 ^ 27 + (s.circuit c).recovery.tickFreq)
    (advances : -2 ^ 27 < (s.circuit c).recovery.tickFreq) : s.rtAtFrameStart t c
      = ((s.circuit c).recovery.rt.getD 0 - BitVec.ofNat 59 (s.tributary t).transmit.bitTime).extractLsb' 27 32 := by
  have rate : fineRate (s.circuit c).recovery.tickFreq = (s.tributary t).transmit.tickRate := by
    unfold fineRate
    omega
  have some : 0 < (s.tributary t).transmit.tickRate := by omega
  simp only [State.rtAtFrameStart, rate, Nat.mul_div_cancel _ some, rtInt]

/-! ### The bit timing (R149) -/

theorem sourceRate_congr (circuits : v.circuits = s.circuits) (actual : (v.tributary t).clocking.actual = (s.tributary t).clocking.actual)
    (timing : (v.tributary t).clocking.timing = (s.tributary t).clocking.timing)
    (holdover : (v.tributary t).clocking.holdover = (s.tributary t).clocking.holdover) : v.sourceRate t = s.sourceRate t := by
  simp only [State.sourceRate, actual, timing, holdover, State.circuit_congr circuits]

/-- A transmit unit at a frame start that gives the mode `m` (R11, R149). -/
def Transmit.started (x : Transmit) (was m : ClockMode) : Transmit :=
  if was = .loop ∧ m ≠ .loop then x.begin.leaveLoop else x.begin

/-- The bit timing that a frame start leaves (R149). -/
theorem clocked_transmit (s : State) (t : Fin 16) : ((s.clocked t).tributary t).transmit
    = if (s.clocked t).sourceRate t = s.sourceRate t then
        (s.tributary t).transmit.started (s.tributary t).clocking.actual ((s.clocked t).tributary t).clocking.actual
      else ((s.tributary t).transmit.started (s.tributary t).clocking.actual
        ((s.clocked t).tributary t).clocking.actual).retimed ((s.clocked t).sourceRate t) := by
  have applied := applied_refreshed s t
  have given := tributary_setActual_self (s.applied t) t ((s.applied t).judgedMode t)
  have retimed := tributary_retime ((s.applied t).setActual t ((s.applied t).judgedMode t)) t (s.sourceRate t)
  have block := (clocked_block s t).1
  have clocking : ((s.clocked t).tributary t).clocking
      = (((s.applied t).setActual t ((s.applied t).judgedMode t)).tributary t).clocking := by
    rw [block, (actual_setActual _ t _).1]
  have rate : (s.clocked t).sourceRate t
      = ((s.applied t).setActual t ((s.applied t).judgedMode t)).sourceRate t :=
    sourceRate_congr (retime_only _ t _).circuits (by rw [clocking]) (by rw [clocking]) (by rw [clocking])
  have was : ((s.applied t).tributary t).clocking.actual = (s.tributary t).clocking.actual := by rw [applied]; rfl
  have begun : ((s.applied t).tributary t).transmit = (s.tributary t).transmit.begin := by rw [applied]; rfl
  have started : (((s.applied t).setActual t ((s.applied t).judgedMode t)).tributary t).transmit
      = (s.tributary t).transmit.started (s.tributary t).clocking.actual ((s.clocked t).tributary t).clocking.actual := by
    rw [given, block]
    unfold Transmit.started
    by_cases same : (s.tributary t).clocking.actual = (s.applied t).judgedMode t
    · rw [if_pos (was.trans same), if_neg (fun h => h.2 (same.symm.trans h.1)), begun]
    · rw [if_neg (fun h => same (was.symm.trans h)), ← was, ← begun]
      rfl
  rw [rate]
  refine (congrArg Tributary.transmit retimed).trans ?_
  split
  · exact started
  · exact congrArg (fun x : Transmit => x.retimed _) started

/-- The fields of the transmit unit after a frame start (R11, R149). -/
theorem started_fields (x : Transmit) (was m : ClockMode) :
    (x.started was m).begun = true ∧ (x.started was m).parity = (if x.begun = true ∧ x.parity = .even then .odd else .even)
    ∧ (x.started was m).tickRate = x.tickRate
    ∧ if was = .loop ∧ m ≠ .loop ∧ 2 ^ 29 ≤ x.bitTime then
        (x.started was m).bits = x.bits - 256 + 1 ∧ (x.started was m).bitTime = 0
      else (x.started was m).bits = x.bits - 256 ∧ (x.started was m).bitTime = x.bitTime := by
  have parity : x.begin.parity = if x.begun = true ∧ x.parity = .even then .odd else .even := by
    show x.nextParity = _
    unfold Transmit.nextParity
    cases x.begun <;> cases x.parity <;> rfl
  have ends : bitFine ≤ x.begin.bitTime ↔ 2 ^ 29 ≤ x.bitTime := Iff.rfl
  rw [← parity]
  unfold Transmit.started
  by_cases leaves : was = .loop ∧ m ≠ .loop
  · rw [if_pos leaves]
    unfold Transmit.leaveLoop
    by_cases long : 2 ^ 29 ≤ x.bitTime
    · rw [if_pos (ends.mpr long), if_pos ⟨leaves.1, leaves.2, long⟩]
      exact ⟨rfl, rfl, rfl, rfl, rfl⟩
    · rw [if_neg (fun h => long (ends.mp h)), if_neg (fun h => long h.2.2)]
      exact ⟨rfl, rfl, rfl, rfl, rfl⟩
  · rw [if_neg leaves, if_neg (fun h => leaves ⟨h.1, h.2.1⟩)]
    exact ⟨rfl, rfl, rfl, rfl, rfl⟩

/-! ### The frame before the circuits (R12 to R14) -/

theorem length_blankFrame (k : Tributary) : k.blankFrame.length = 32 := by
  unfold Tributary.blankFrame
  split <;> simp

theorem blankFrame_off {k : Tributary} (off : k.entry.framing = .off) : k.blankFrame = List.replicate 32 255 := by
  simp only [Tributary.blankFrame, off]

theorem blankFrame_unframed {k : Tributary} (unframed : k.entry.framing = .unframed) :
    k.blankFrame = List.replicate 32 k.entry.idle := by
  simp only [Tributary.blankFrame, unframed]

theorem blankFrame_framed {k : Tributary} (framed : k.entry.framing = .framed) {n : Nat} (inFrame : n < 32) :
    k.blankFrame[n]? = some (if n = 0 then slotZero k.transmit.parity k.line.alignment else k.entry.idle) := by
  simp only [Tributary.blankFrame, framed]
  cases n with
  | zero => rfl
  | succ n =>
    rw [List.getElem?_cons_succ, List.getElem?_replicate, if_pos (by omega), if_neg (by omega)]

/-! ### The frame of the circuits -/

/-- A frame start's frame, circuit by circuit, told from before it: what a circuit named by the tributary leaves of itself and of the
timeslots that no other engaged circuit has. -/
theorem placed_own (s : State) (t : Fin 16) (rt : Fin 64 → Ticks) (c : Fin 64) :
    ∃ y : State × List Byte, y.2.length = 32 ∧ y.1.circuit c = s.circuit c ∧ y.1.width c = s.width c
      ∧ (y.1.tributary t).entry = (s.tributary t).entry
      ∧ (((s.clocked t).placed t rt).1.circuit c) = (State.placeCircuit t c (rt c) y).1.circuit c
      ∧ ∀ k : Nat, (∀ d, d ≠ c → (s.circuit d).avoids t (s.tributary t).entry.framing k) →
          ((s.clocked t).placed t rt).2[k]? = (State.placeCircuit t c (rt c) y).2[k]? := by
  have only := clocked_only s t
  have circuits (d : Fin 64) : (s.clocked t).circuit d = s.circuit d := State.circuit_congr only.circuits d
  obtain ⟨y, kept, own, circuit, frame⟩ := placeAll_own (t := t) (rt := rt) nodup_allCircuits (mem_allCircuits c)
    (s.clocked t, ((s.clocked t).tributary t).blankFrame)
  have entry (e : Fin 16) : (y.1.tributary e).entry = (s.tributary e).entry := by
    rw [State.tributary_congr kept.tributaries]
    by_cases same : e = t
    · subst same; exact only.entry
    · show ((s.clocked t).tributary e).entry = _
      rw [only.others e same]
  have same : y.1.circuit c = s.circuit c := own.trans (circuits c)
  refine ⟨y, kept.length.trans (length_blankFrame _), same, ?_, entry t, circuit, fun k free => frame k fun d other => ?_⟩
  · unfold State.width
    rw [same, framingOf_congr (s := s) (fun e => by rw [entry])]
  · have framing : framingIn (s.clocked t, ((s.clocked t).tributary t).blankFrame) t = (s.tributary t).entry.framing :=
      congrArg TributaryEntry.framing only.entry
    rw [framing]
    show ((s.clocked t).circuit d).avoids _ _ _
    rw [circuits]
    exact free d other

/-- A timeslot no engaged circuit has keeps what the frame begins with. -/
theorem placed_apart (s : State) (t : Fin 16) (rt : Fin 64 → Ticks) {k : Nat}
    (free : ∀ d, (s.circuit d).avoids t (s.tributary t).entry.framing k) :
    ((s.clocked t).placed t rt).2[k]? = ((s.clocked t).tributary t).blankFrame[k]? := by
  have only := clocked_only s t
  refine placeAll_apart nodup_allCircuits (s.clocked t, ((s.clocked t).tributary t).blankFrame) fun d _ => ?_
  have framing : framingIn (s.clocked t, ((s.clocked t).tributary t).blankFrame) t = (s.tributary t).entry.framing :=
    congrArg TributaryEntry.framing only.entry
  rw [framing]
  show ((s.clocked t).circuit d).avoids _ _ _
  rw [State.circuit_congr only.circuits]
  exact free d

theorem length_placed (s : State) (t : Fin 16) (rt : Fin 64 → Ticks) : ((s.clocked t).placed t rt).2.length = 32 :=
  (placeKept_placeAll t rt allCircuits _).length.trans (length_blankFrame _)

/-- A silent circuit's own timeslots hold ones. -/
theorem placed_silent {rt : Fin 64 → Ticks} (names : (s.circuit c).names t = true) (silent : (s.circuit c).silent) {k : Nat}
    (inFrame : k < 32) (slot : k ∈ (s.circuit c).slotsOn (s.tributary t).entry.framing)
    (free : ∀ d, d ≠ c → (s.circuit d).avoids t (s.tributary t).entry.framing k) :
    ((s.clocked t).placed t rt).2[k]? = some 255 := by
  obtain ⟨y, length, circuit, -, entry, -, frame⟩ := placed_own s t rt c
  rw [frame k free, placeCircuit_silent (by rw [circuit]; exact names) (by rw [circuit]; exact silent), circuit, framingIn, entry]
  exact placeOctets_ones (slotsOn_nodup _ _) (by rw [length]; exact inFrame) slot 255

/-- A playing circuit's own timeslots hold the octets of its playout, in ascending order. -/
theorem placed_plays {rt : Fin 64 → Ticks} (names : (s.circuit c).names t = true) (plays : (s.circuit c).plays) {k i : Nat}
    {b : Byte} (inFrame : k < 32) (slot : ((s.circuit c).slotsOn (s.tributary t).entry.framing)[i]? = some k)
    (octet : (s.playFrame c (s.tributary t).entry.idle (rt c)).2[i]? = some b)
    (free : ∀ d, d ≠ c → (s.circuit d).avoids t (s.tributary t).entry.framing k) :
    ((s.clocked t).placed t rt).2[k]? = some b := by
  obtain ⟨y, length, circuit, width, entry, -, frame⟩ := placed_own s t rt c
  rw [frame k free, placeCircuit_plays (by rw [circuit]; exact names) (by rw [circuit]; exact plays), circuit, framingIn, entry,
    (playFrame_congr circuit width _ _).1.2]
  exact placeOctets_at (slotsOn_nodup _ _) (by rw [length]; exact inFrame) slot octet

/-- A playing circuit is as its playout leaves it. -/
theorem placed_circuit {rt : Fin 64 → Ticks} (names : (s.circuit c).names t = true) (plays : (s.circuit c).plays) :
    ((s.clocked t).placed t rt).1.circuit c = (s.playFrame c (s.tributary t).entry.idle (rt c)).1.circuit c := by
  obtain ⟨y, -, circuit, width, entry, own, -⟩ := placed_own s t rt c
  rw [own, placeCircuit_plays (by rw [circuit]; exact names) (by rw [circuit]; exact plays), entry]
  exact (playFrame_congr circuit width _ _).1.1

/-- A circuit that does not play, or does not name the tributary, is as it was. -/
theorem placed_still (s : State) (t : Fin 16) (rt : Fin 64 → Ticks)
    (still : ¬(s.circuit c).plays ∨ (s.circuit c).names t = false) :
    ((s.clocked t).placed t rt).1.circuit c = s.circuit c := by
  obtain ⟨y, -, circuit, -, -, own, -⟩ := placed_own s t rt c
  rw [own]
  rcases placeCircuit_cases t c (rt c) y with e | ⟨⟨-, names⟩, w, octets, rfl | ⟨plays, -⟩, e⟩
  · rw [e, circuit]
  · rw [e, circuit]
  · rw [circuit] at names plays
    rcases still with h | h
    · exact absurd plays h
    · rw [names] at h; cases h

end Sys2Proof.Machine

/-! PROOFS. A transmit frame start, settled (R11 to R14, R116, R149). -/

namespace Sys2Proof.Machine

variable {s : State} {t : Fin 16} {c : Fin 64}

/-- The state a transmit frame start leaves. -/
def State.startedFrame (s : State) (t : Fin 16) : State := (s.clocked t).assembleFrame t (s.rtAtFrameStart t)

theorem tributary_startedFrame (s : State) (t : Fin 16) : (s.startedFrame t).tributary t
    = { (s.clocked t).tributary t with transmit := { ((s.clocked t).tributary t).transmit with
          frame := ((s.clocked t).placed t (s.rtAtFrameStart t)).2 } } := tributary_assembleFrame _ t _

theorem circuit_startedFrame (s : State) (t : Fin 16) (c : Fin 64) :
    (s.startedFrame t).circuit c = ((s.clocked t).placed t (s.rtAtFrameStart t)).1.circuit c := by
  rw [State.startedFrame, assembleFrame_eq, onTransmit_eq, circuit_onTributary]

theorem playKept_startedFrame (s : State) (t : Fin 16) (c : Fin 64) :
    PlayKept (s.circuit c) ((s.startedFrame t).circuit c) := by
  have kept := (placeKept_placeAll t (s.rtAtFrameStart t) allCircuits (s.clocked t, ((s.clocked t).tributary t).blankFrame)).circuits c
  rw [circuit_startedFrame, ← State.circuit_congr (clocked_only s t).circuits c]
  exact kept

theorem sourceRate_startedFrame (s : State) (t : Fin 16) : (s.startedFrame t).sourceRate t = (s.clocked t).sourceRate t := by
  have recovery (c : Fin 64) : ((s.startedFrame t).circuit c).recovery = ((s.clocked t).circuit c).recovery := by
    rw [playKept_startedFrame s t c, State.circuit_congr (clocked_only s t).circuits]
  have clocking : ((s.startedFrame t).tributary t).clocking = ((s.clocked t).tributary t).clocking := by
    rw [tributary_startedFrame]
  simp only [State.sourceRate, recovery, clocking]

/-- The transmit unit after a frame start (R11, R149). -/
theorem transmit_startedFrame (s : State) (t : Fin 16) :
    let x := (s.tributary t).transmit
    let y := ((s.startedFrame t).tributary t).transmit
    let rate := (s.startedFrame t).sourceRate t
    y.begun = true ∧ y.parity = (if x.begun = true ∧ x.parity = .even then .odd else .even)
    ∧ (if (s.tributary t).clocking.actual = .loop ∧ ((s.startedFrame t).tributary t).clocking.actual ≠ .loop
          ∧ 2 ^ 29 ≤ x.bitTime then y.bits = x.bits - 256 + 1 ∧ y.bitTime = 0
      else y.bits = x.bits - 256
        ∧ y.bitTime = if rate = s.sourceRate t then x.bitTime else x.bitTime * rate / x.tickRate)
    ∧ y.tickRate = (if rate = s.sourceRate t then x.tickRate else rate) := by
  intro x y rate
  have timing := clocked_transmit s t
  have mode : ((s.startedFrame t).tributary t).clocking.actual = ((s.clocked t).tributary t).clocking.actual := by
    rw [tributary_startedFrame]
  have form : y = { ((s.clocked t).tributary t).transmit with
      frame := ((s.clocked t).placed t (s.rtAtFrameStart t)).2 } := by
    show ((s.startedFrame t).tributary t).transmit = _
    rw [tributary_startedFrame]
  have unit : (s.tributary t).transmit = x := rfl
  have now : (s.startedFrame t).sourceRate t = rate := rfl
  rw [← sourceRate_startedFrame s t, ← mode, unit, now] at timing
  obtain ⟨begun, parity, tick, bits⟩ := started_fields x (s.tributary t).clocking.actual
    ((s.startedFrame t).tributary t).clocking.actual
  clear_value rate
  by_cases same : rate = s.sourceRate t
  · rw [if_pos same] at timing
    rw [if_pos same, if_pos same, form, timing]
    dsimp only
    exact ⟨begun, parity, bits, tick⟩
  · rw [if_neg same] at timing
    rw [if_neg same, if_neg same, form, timing]
    refine ⟨begun, parity, ?_, rfl⟩
    unfold Transmit.retimed
    dsimp only
    rw [tick]
    split at bits
    · next leaves =>
      obtain ⟨count, time⟩ := bits
      rw [if_pos leaves, time, Nat.zero_mul, Nat.zero_div]
      exact ⟨count, rfl⟩
    · next stays =>
      obtain ⟨count, time⟩ := bits
      rw [if_neg stays]
      exact ⟨count, by rw [time]⟩

theorem rest_startedFrame (s : State) (t : Fin 16) : (s.startedFrame t).ports = s.ports ∧ SameRun s (s.startedFrame t) := by
  have only := clocked_only s t
  have kept := placeKept_placeAll t (s.rtAtFrameStart t) allCircuits (s.clocked t, ((s.clocked t).tributary t).blankFrame)
  rw [← placed_eq] at kept
  rw [State.startedFrame, assembleFrame_eq, onTransmit_eq]
  generalize (s.clocked t).placed t (s.rtAtFrameStart t) = y at kept ⊢
  have run := only.run.trans kept.run
  exact ⟨kept.ports.trans only.ports, run.lt, run.answer, run.draws, run.pending⟩

theorem slotZero_cases (parity : Parity) (alignment : AlignmentState) : slotZero parity alignment
    = if parity = .even then 0b10011011#8 else if alignment = .aligned then 0b11011111#8 else 0b11111111#8 := by
  cases parity <;> rfl

/-- Settles O19: the bit timing, and the frame by the framing. -/
theorem transmitFrameIsAssembled : Obligations.TransmitFrameIsAssembled := by
  intro t s due idle silent plays rate rt played
  have rate_eq (v : State) : rate v = v.sourceRate t := by
    simp only [rate, State.sourceRate, fineRate]
    cases (v.tributary t).clocking.actual <;> rfl
  have edge : s.rtAtFrameStart t = rt := rfl
  have only := clocked_only s t
  have tributary := tributary_startedFrame s t
  have frame : ((s.startedFrame t).tributary t).transmit.frame = ((s.clocked t).placed t rt).2 := by
    rw [tributary, edge]
  have length := length_placed s t rt
  have silent_eq (c : Fin 64) : silent c → (s.circuit c).silent := id
  have plays_eq (c : Fin 64) : plays c → (s.circuit c).plays := id
  have apart {d : Fin 64} (out : (s.circuit d).engaged = true → (s.circuit d).names t = false) (f : Framing) (k : Nat) :
      (s.circuit d).avoids t f k := fun engaged names => by rw [out engaged] at names; cases names
  refine ⟨fun _ => rfl, fun c same advances => ?_, s.startedFrame t, exec_transmitFrameStart due, ?_, ?_, ?_, ?_, ?_, ?_, ?_, ?_, ?_,
    ?_, ?_⟩
  · exact rtAtFrameStart_drift same advances
  · intro x y
    rw [rate_eq, rate_eq]
    obtain ⟨begun, parity, bits, tick⟩ := transmit_startedFrame s t
    exact ⟨begun, parity, bits, tick, by rw [show y.frame = _ from frame]; exact length⟩
  · dsimp only
    rw [frame]
    split
    · next off =>
      refine List.ext_getElem? fun k => ?_
      have none (d : Fin 64) : (s.circuit d).avoids t (s.tributary t).entry.framing k := by
        rw [off]; exact fun _ _ => List.not_mem_nil
      rw [placed_apart s t rt none, blankFrame_off (by rw [only.entry]; exact off)]
    · next unframed =>
      refine ⟨fun out => ?_, fun c names others => ⟨fun quiet => ?_, fun playing whole => ?_⟩⟩
      · refine List.ext_getElem? fun k => ?_
        rw [placed_apart s t rt fun d => apart (out d) _ k, blankFrame_unframed (by rw [only.entry]; exact unframed), only.entry]
      · refine List.ext_getElem? fun k => ?_
        by_cases inFrame : k < 32
        · rw [placed_silent names (silent_eq c quiet) inFrame (by rw [unframed]; exact List.mem_range.mpr inFrame)
            (fun d other => apart (others d other) _ k), List.getElem?_replicate, if_pos inFrame]
        · rw [List.getElem?_eq_none (by omega), List.getElem?_eq_none (by simp; omega)]
      · refine List.ext_getElem? fun k => ?_
        by_cases inFrame : k < 32
        · have octet : (played c).2[k]? = some ((played c).2[k]'(by omega)) := List.getElem?_eq_getElem _
          rw [octet]
          exact placed_plays names (plays_eq c playing) inFrame
            (by rw [unframed]; exact List.getElem?_range inFrame) octet
            (fun d other => apart (others d other) _ k)
        · rw [List.getElem?_eq_none (by omega), List.getElem?_eq_none (by omega)]
    · next framed =>
      refine ⟨fun k inFrame out => ?_, fun c k inFrame names slot others => ⟨fun quiet => ?_, fun playing i b place octet => ?_⟩⟩
      · have none (d : Fin 64) : (s.circuit d).avoids t (s.tributary t).entry.framing k := fun engaged named => by
          rw [framed]
          exact fun listed => by cases (out d engaged named).symm.trans ((mem_slotsOf _ k).mp listed).2
        rw [placed_apart s t rt none, blankFrame_framed (by rw [only.entry]; exact framed) inFrame, only.entry,
          (clocked_clocked s t).line, slotZero_cases, show ((s.startedFrame t).tributary t).transmit.parity
            = ((s.clocked t).tributary t).transmit.parity by rw [tributary]]
        cases ((s.clocked t).tributary t).transmit.parity <;> cases (s.tributary t).line.alignment <;> rfl
      · exact placed_silent names (silent_eq c quiet) inFrame (by rw [framed]; exact (mem_slotsOf _ k).mpr ⟨inFrame, slot⟩)
          (fun d other engaged named => by
            rw [framed]
            exact fun listed => by cases (others d other engaged named).symm.trans ((mem_slotsOf _ k).mp listed).2)
      · exact placed_plays names (plays_eq c playing) inFrame (by rw [framed]; exact place) octet
          (fun d other engaged named => by
            rw [framed]
            exact fun listed => by cases (others d other engaged named).symm.trans ((mem_slotsOf _ k).mp listed).2)
  · exact fun c playing names => (circuit_startedFrame s t c).trans (placed_circuit names (plays_eq c playing))
  · exact fun c still => (circuit_startedFrame s t c).trans (placed_still s t _ (.inl still))
  · intro w other
    have placed := State.tributary_congr (placeKept_placeAll t rt allCircuits (s.clocked t, ((s.clocked t).tributary t).blankFrame)).tributaries w
    rw [State.startedFrame, assembleFrame_eq, onTransmit_eq, tributary_onTributary_of_ne _ _ other]
    exact placed.trans (only.others w other)
  · rw [tributary]; exact only.entry
  · rw [tributary]; exact (clocked_clocked s t).line
  · exact (rest_startedFrame s t).1
  · exact (rest_startedFrame s t).2
  · intro c
    rw [playKept_startedFrame s t c]
    exact ⟨rfl, rfl, rfl, rfl⟩
  · exact fun c out => (circuit_startedFrame s t c).trans (placed_still s t _ (.inr out))

end Sys2Proof.Machine

/-! PROOFS. Anchoring a circuit on an arrival (R60), and a stamp mismatch (R66, R99). -/

namespace Sys2Proof.Machine

variable {s u v w : State} {c : Fin 64} {x : Candidate}

/-! ### The anchored circuit (R60) -/

/-- A circuit anchored on an arrival, before its flags (R60). -/
def Circuit.reanchored (k : Circuit) (x : Candidate) (lt : Ticks) : Circuit :=
  { k.anchored x lt with
    control := { k.control with
      state := .acquiring, mismatchRun := 0, lateRun := 0, engageTimer := none
      starvationTimer := some (lt + BitVec.ofNat 32 (k.entry.starvationTimeout * k.entry.frames * 1024)) }
    recovery := (k.anchored x lt).recovery.unlock
    merge := { k.merge with active := freshActive k.entry.policy k.merge.up, holdOff := none }
    counters := bump k.counters CircuitCounter.firstCopies.place }

theorem circuit_anchoring (s : State) (c : Fin 64) (x : Candidate) : (s.anchoring c x).circuit c
    = ({ (s.circuit c).reanchored x s.lt with
          control := { ((s.circuit c).reanchored x s.lt).control with state := (s.circuit c).control.state } } : Circuit).raisedIf
        (s.circuit c).recovery.locked .lockLost .none := by
  simp only [State.anchoring, State.refreshActive, onMerge_eq, circuit_onCircuit_self, circuit_startStarvation, onControl_eq,
    circuit_loseLock, count_eq, onCircuit_onCircuit]
  have lt : ((((s.onCircuit c (fun k => { k.anchored x s.lt with
      counters := bump (k.anchored x s.lt).counters CircuitCounter.firstCopies.place })).loseLock c).onCircuit c
      (fun k => { k with control := { k.control with mismatchRun := 0, lateRun := 0, engageTimer := none } })).lt) = s.lt :=
    (loseLock_only _ c).run.lt
  rw [lt]
  rfl

/-- A circuit after anchoring, with the flags it sets (R60, R69, R141). -/
theorem circuit_anchor (s : State) (c : Fin 64) (x : Candidate) : (s.anchor c x).circuit c
    = (((s.circuit c).reanchored x s.lt).raisedIf (s.circuit c).recovery.locked .lockLost .none).raisedIf
        (decide ((s.circuit c).control.state ≠ .acquiring)) .stateChanged (.circuitState .acquiring) := by
  rw [anchor_eq, circuit_leavesPlaying]
  by_cases state : (s.circuit c).control.state = .acquiring
  · rw [if_pos state, circuit_anchoring, state]
    rfl
  · rw [if_neg state, circuit_enter, circuit_anchoring, decide_eq_true state]
    rfl

/-- The flags of a circuit after anchoring. -/
theorem flag_anchor (s : State) (c : Fin 64) (x : Candidate) (g : CircuitFlag) : (s.anchor c x).flag (.circuit c g)
    = if g = .stateChanged then
        (if (s.circuit c).control.state = .acquiring then s.flag (.circuit c .stateChanged)
          else s.flagAfter (.circuit c .stateChanged) (.circuitState .acquiring))
      else if g = .lockLost then
        (if (s.circuit c).recovery.locked then s.flagAfter (.circuit c .lockLost) .none else s.flag (.circuit c .lockLost))
      else s.flag (.circuit c g) := by
  have own : ((s.circuit c).reanchored x s.lt).flags = (s.circuit c).flags := rfl
  simp only [State.flag, State.flagAfter, circuit_anchor, flags_raisedIf, own, decide_eq_true_eq]
  by_cases changed : g = .stateChanged
  · subst changed
    by_cases state : (s.circuit c).control.state = .acquiring
    · simp [state]
    · simp [state]
  · by_cases lost : g = .lockLost
    · subst lost
      simp [changed]
    · simp [changed, lost]

theorem tributaries_anchor (state : (s.circuit c).control.state ≠ .playing) (x : Candidate) :
    (s.anchor c x).tributaries = s.tributaries := by
  rw [anchor_eq, tributaries_leavesPlaying_of_ne state]
  split
  · exact (anchoring_runs s c x).tributaries
  · rw [tributaries_enter]; exact (anchoring_runs s c x).tributaries

theorem timingLeft_anchor (playing : (s.circuit c).control.state = .playing) (x : Candidate) :
    TimingLeft s (s.anchor c x) c := by
  have runs := anchoring_runs s c x
  rw [anchor_eq, if_neg (by rw [playing]; decide)]
  refine timingLeft_of_leavesPlaying ?_ (by rw [tributaries_enter]; exact runs.tributaries) playing
  rw [circuit_enter]
  exact runs.only.entry

/-- R153 told from an earlier state with the same tributaries and FREQ history, and of a later one with the same tributaries. -/
theorem TimingLeft.congr (left : TimingLeft v u c) (entry : (v.circuit c).entry = (s.circuit c).entry)
    (history : (v.circuit c).recovery.history = (s.circuit c).recovery.history) (before : v.tributaries = s.tributaries)
    (after : w.tributaries = u.tributaries) : TimingLeft s w c := by
  intro t
  have own := left t
  have tributary := State.tributary_congr before t
  have later := State.tributary_congr after t
  simp only [State.flagAfter, State.flag] at own ⊢
  rw [entry, history, tributary] at own
  rw [later]
  exact own

/-- What anchoring keeps of the circuit as it was. -/
structure AnchorBase (k v : Circuit) : Prop where
  entry      : v.entry = k.entry
  acquired   : v.control.acquired = k.control.acquired
  lastFrame  : v.buffer.lastFrame = k.buffer.lastFrame
  freq       : v.recovery.freq = k.recovery.freq
  integrator : v.recovery.integrator = k.recovery.integrator
  history    : v.recovery.history = k.recovery.history
  packetizer : v.packetizer = k.packetizer

theorem seedRt_eq (ts capture lt : Ticks) (freq : Int) : seedRt ts capture lt freq
    = BitVec.ofInt 59 (ts.toNat * 2 ^ 27 + signed32 lt capture * (2 ^ 27 + freq)) := by
  rw [seedRt, fineTicks, fineAdvance, BitVec.ofInt_add]

/-- Anchoring of a circuit of which only what it does not keep has changed since `s`. -/
theorem anchored_of (lt : v.lt = s.lt) (base : AnchorBase (s.circuit c) (v.circuit c))
    (circuit : u.circuit c = { (v.circuit c).reanchored x v.lt with flags := (u.circuit c).flags, counters := (u.circuit c).counters })
    (counted : (u.circuit c).counters.get CircuitCounter.firstCopies.place
      = countUp ((s.circuit c).counters.get CircuitCounter.firstCopies.place)) : Anchored s u c x := by
  obtain ⟨entry, acquired, lastFrame, freq, integrator, history, packetizer⟩ := base
  unfold Anchored
  dsimp only
  rw [circuit]
  unfold Circuit.reanchored Circuit.anchored
  dsimp only
  rw [lt, entry, acquired, seedRt_eq, freq, integrator, history, packetizer]
  exact ⟨rfl, rfl, rfl, rfl, rfl, rfl, rfl, rfl, rfl, lastFrame, rfl, rfl, rfl, rfl, rfl, rfl, rfl, rfl, rfl, rfl, rfl, rfl, rfl,
    counted⟩

/-- Anchoring of a state in which only what anchoring does not keep has changed since `s`. -/
theorem anchored_anchor (lt : v.lt = s.lt) (base : AnchorBase (s.circuit c) (v.circuit c))
    (count : (v.circuit c).counters.get CircuitCounter.firstCopies.place
      = (s.circuit c).counters.get CircuitCounter.firstCopies.place) (x : Candidate) : Anchored s (v.anchor c x) c x := by
  refine anchored_of lt base (by rw [circuit_anchor]; rfl) ?_
  rw [circuit_anchor, ← count]
  exact get_bump_self _ _

/-! ### A stamp mismatch (R66, R99) -/

theorem takeChecked_mismatch {y : Pointer} (pointer : (s.circuit c).buffer.pointer = some y)
    (differs : x.ts ≠ y.ts + BitVec.ofInt 32 (signed16 x.seq y.seq * (s.circuit c).entry.frames * 1024)) :
    s.takeChecked c x = s.stampMismatch c x := by
  have fails : stampFits y (s.circuit c).entry.frames x.seq x.ts = false := by
    rw [stampFits, beq_eq_false_iff_ne]
    exact differs
  simp only [State.takeChecked, pointer, fails, Bool.false_eq_true, if_false]

theorem stampMismatch_excluded (out : (s.circuit c).samples x.path = false) : s.stampMismatch c x = s.count c .stampMismatch := by
  simp only [State.stampMismatch, out, Bool.false_eq_true, if_false]

theorem stampMismatch_runs (sampling : (s.circuit c).samples x.path = true)
    (runs : ¬((s.circuit c).control.state = .starved ∨ 2 ≤ (s.circuit c).control.mismatchRun)) : s.stampMismatch c x
      = (s.count c .stampMismatch).onCircuit c (fun k => { k with control := { k.control with
          mismatchRun := k.control.mismatchRun + 1 } }) := by
  simp only [State.stampMismatch, sampling, if_true, if_neg runs, onControl_eq]

theorem stampMismatch_anchors (sampling : (s.circuit c).samples x.path = true)
    (last : (s.circuit c).control.state = .starved ∨ 2 ≤ (s.circuit c).control.mismatchRun) : s.stampMismatch c x
      = ((s.count c .stampMismatch).anchor c x).raise (.circuit c .farEndRestart) (.path x.path) := by
  simp only [State.stampMismatch, sampling, if_true, if_pos last, raiseCircuit_eq]

/-- Settles O27, by the path, the state and the run. -/
theorem stampMismatchesReanchor : Obligations.StampMismatchesReanchor := by
  intro s c x y k u pointer differs
  have form : u = s.stampMismatch c x := takeChecked_mismatch pointer differs
  have counted : (s.count c .stampMismatch).circuit c
      = { k with counters := bump k.counters CircuitCounter.stampMismatch.place } := by rw [count_eq, circuit_onCircuit_self]
  have other : CircuitCounter.stampMismatch.place ≠ CircuitCounter.firstCopies.place := by decide
  refine ⟨?_, takeChecked_only s c x, fun out => form.trans (stampMismatch_excluded out),
    fun sampling engaged early => form.trans (stampMismatch_runs sampling (not_or.mpr ⟨engaged, Nat.not_le_of_lt early⟩)), fun sampling last => ?_⟩
  · rw [form]
    rcases Bool.eq_false_or_eq_true (k.samples x.path) with sampling | out
    · by_cases last : k.control.state = .starved ∨ 2 ≤ k.control.mismatchRun
      · rw [stampMismatch_anchors sampling last, circuit_raise_self, circuit_anchor, counted]
        exact (get_bump_of_ne _ other).trans (get_bump_self _ _)
      · rw [stampMismatch_runs sampling last, circuit_onCircuit_self, counted]
        exact get_bump_self _ _
    · rw [stampMismatch_excluded out, counted]
      exact get_bump_self _ _
  · have anchors := form.trans (stampMismatch_anchors sampling last)
    have base : AnchorBase k ((s.count c .stampMismatch).circuit c) := by rw [counted]; exact ⟨rfl, rfl, rfl, rfl, rfl, rfl, rfl⟩
    have first : ((s.count c .stampMismatch).circuit c).counters.get CircuitCounter.firstCopies.place
        = k.counters.get CircuitCounter.firstCopies.place := by rw [counted]; exact get_bump_of_ne _ other.symm
    have before (g : CircuitFlag) : (s.count c .stampMismatch).flag (.circuit c g) = s.flag (.circuit c g) := by
      rw [count_eq]; exact flag_onCircuit _ _ _ _ rfl
    have flags (g : CircuitFlag) (apart : g ≠ .farEndRestart) :
        u.flag (.circuit c g) = ((s.count c .stampMismatch).anchor c x).flag (.circuit c g) := by
      rw [anchors, flag_raise_of_ne]
      exact fun same => apart (by injection same)
    have tributaries : u.tributaries = ((s.count c .stampMismatch).anchor c x).tributaries := by
      rw [anchors, tributaries_raise_circuit]
    refine ⟨?_, ?_, ?_, ?_, fun playing => ?_, fun away => ?_⟩
    · have same : u.circuit c = { ((s.count c .stampMismatch).anchor c x).circuit c with flags := (u.circuit c).flags } := by
        rw [anchors, circuit_raise_self]; rfl
      refine anchored_of (v := s.count c .stampMismatch) rfl base ?_ ?_
      · rw [same, circuit_anchor]; rfl
      · rw [same, circuit_anchor, ← first]; exact get_bump_self _ _
    · rw [anchors, flag_raise_self, flag_anchor, if_neg (by decide), if_neg (by decide), before]
      rfl
    · rw [flags _ (by decide), flag_anchor, if_pos rfl, before, counted]
      simp only [State.flagAfter, before]
    · rw [flags _ (by decide), flag_anchor, if_neg (by decide), if_pos rfl, before, counted]
      simp only [State.flagAfter, before]
    · have left := timingLeft_anchor (s := s.count c .stampMismatch) (c := c) (by rw [counted]; exact playing) x
      exact left.congr (by rw [counted]) (by rw [counted]) rfl tributaries
    · exact tributaries.trans (tributaries_anchor (s := s.count c .stampMismatch) (by rw [counted]; exact away) x)

end Sys2Proof.Machine

/-! PROOFS. The class of an arrival and what it stores or records (R100 to R103, R111). -/

namespace Sys2Proof.Machine

variable {s u v : State} {c : Fin 64} {x : Candidate} {y : Pointer} {b : Buffer} {depth : Nat} {seq : SeqNo}

/-! ### Sampling and excluded paths (R94, R98) -/

theorem excludes_iff (k : Circuit) (p : Port) : k.excludes p = true ↔ k.merge.forced = some (otherPort p) := by
  unfold Circuit.excludes
  cases k.merge.forced with
  | none => simp
  | some q => cases p <;> cases q <;> simp [otherPort]

theorem samples_of_excludes {k : Circuit} {p : Port} (out : k.merge.forced = some (otherPort p)) : k.samples p = false := by
  unfold Circuit.samples
  rw [out]
  cases p <;> rfl

/-! ### The class of an arrival (R100) -/

theorem classOf_firstCopy (ahead : 0 ≤ signed16 seq y.seq) (within : signed16 seq y.seq < depth) (free : b.slot depth seq = none)
    (whole : signed16 seq y.seq ≠ 0 ∨ y.frame = 0) : classOf b y depth seq = .firstCopy := by
  have begun : ¬(signed16 seq y.seq = 0 ∧ 0 < y.frame) := by omega
  simp only [classOf, if_neg (show ¬signed16 seq y.seq < 0 by omega), if_neg (show ¬(depth : Int) ≤ signed16 seq y.seq by omega),
    free, if_neg begun]

theorem classOf_held {e : HeldEntry} (ahead : 0 ≤ signed16 seq y.seq) (within : signed16 seq y.seq < depth)
    (held : b.slot depth seq = some e) : classOf b y depth seq = .duplicateHeld e := by
  simp only [classOf, if_neg (show ¬signed16 seq y.seq < 0 by omega), if_neg (show ¬(depth : Int) ≤ signed16 seq y.seq by omega),
    held]

theorem classOf_begun (now : signed16 seq y.seq = 0) (begun : 0 < y.frame) (pos : 0 < depth) (free : b.slot depth seq = none) :
    classOf b y depth seq = .lateUnknown := by
  simp only [classOf, now, if_neg (show ¬(0 : Int) < 0 by omega), if_neg (show ¬(depth : Int) ≤ 0 by omega), free,
    if_pos begun, true_and]

theorem classOf_unknown (behind : signed16 seq y.seq < 0) (none : b.recordOf seq = none) :
    classOf b y depth seq = .lateUnknown := by
  simp only [classOf, if_pos behind, none]

theorem classOf_missed {h : HistoryRecord} (behind : signed16 seq y.seq < 0) (record : b.recordOf seq = some h)
    (missed : h.outcome = .missed) : classOf b y depth seq = .lateMissed h := by
  simp only [classOf, if_pos behind, record, missed]

theorem classOf_played {h : HistoryRecord} (behind : signed16 seq y.seq < 0) (record : b.recordOf seq = some h)
    (played : h.outcome = .played) : classOf b y depth seq = .duplicatePlayed h := by
  simp only [classOf, if_pos behind, record, played]

theorem classOf_overrun (beyond : (depth : Int) ≤ signed16 seq y.seq) : classOf b y depth seq = .overrun := by
  simp only [classOf, if_neg (show ¬signed16 seq y.seq < 0 by omega), if_pos beyond]

/-! ### What is recorded and what skew sample it gives (R103, R111) -/

theorem recordArrival_eq (a : Pair (Option Ticks)) (p : Port) (capture : Ticks) :
    recordArrival a p capture = arrivalKept a p capture := by
  unfold recordArrival arrivalKept
  cases a.get p with
  | none => rw [if_pos rfl]
  | some _ => rw [if_neg (by simp)]

theorem skewOf_eq (a : Pair (Option Ticks)) (p : Port) (capture : Ticks) : skewOf a p capture = skewGiven a p capture := by
  obtain ⟨onA, onB⟩ := a
  cases p <;> cases onA <;> cases onB <;> rfl

/-- A sampled mark is set by an arrival that gives a sample, or stays. -/
theorem or_and_not (marked sampling : Bool) : (marked || (sampling && !marked)) = (marked || sampling) := by
  cases marked <;> cases sampling <;> rfl

/-- What an arrival of a class makes of the slots and the history, when it may give a sample (R101, R110, R111). -/
structure Taking (b : Buffer) (depth : Nat) (x : Candidate) (cls : ArrivalClass) (sampled : Bool) (n : CircuitCounter)
    (slots : Vector (Option HeldEntry) 128) (history : List HistoryRecord) (skew : Option Int) : Prop where
  take    : b.take cls depth x sampled = { b with slots := slots, history := history }
  counter : cls.counter = n
  late    : cls.isLate = true ↔ n = .late
  skew    : cls.skew x.path x.capture = skew

theorem taking_firstCopy (b : Buffer) (depth : Nat) (x : Candidate) (sampled : Bool) :
    Taking b depth x .firstCopy sampled .firstCopies (b.withSlot depth x.seq (some (x.entry sampled))).slots b.history none :=
  ⟨rfl, rfl, by decide, rfl⟩

theorem taking_held (b : Buffer) (depth : Nat) (x : Candidate) (e : HeldEntry) (sampling : Bool) :
    Taking b depth x (.duplicateHeld e) (sampling && !e.sampled) .duplicates
      (b.withSlot depth x.seq (some { e with
        arrival := arrivalKept e.arrival x.path x.capture, sampled := e.sampled || sampling })).slots b.history
      (skewGiven e.arrival x.path x.capture) := by
  refine ⟨?_, rfl, by simp [ArrivalClass.isLate], skewOf_eq _ _ _⟩
  simp only [Buffer.take, recordArrival_eq, or_and_not]
  rfl

theorem taking_played (b : Buffer) (depth : Nat) (x : Candidate) (h : HistoryRecord) (sampled : Bool) :
    Taking b depth x (.duplicatePlayed h) sampled .duplicates b.slots
      (b.history.map (fun r => if r.seq = x.seq then { r with
        arrival := arrivalKept r.arrival x.path x.capture, sampled := r.sampled || sampled } else r))
      (skewGiven h.arrival x.path x.capture) := by
  refine ⟨?_, rfl, by simp [ArrivalClass.isLate], skewOf_eq _ _ _⟩
  simp only [Buffer.take, recordArrival_eq, Buffer.onRecord]

theorem taking_missed (b : Buffer) (depth : Nat) (x : Candidate) (h : HistoryRecord) (sampled : Bool) :
    Taking b depth x (.lateMissed h) sampled .late b.slots
      (b.history.map (fun r => if r.seq = x.seq then { r with sampled := r.sampled || sampled } else r)) none :=
  ⟨rfl, rfl, by simp [ArrivalClass.isLate], rfl⟩

theorem taking_unknown (b : Buffer) (depth : Nat) (x : Candidate) (sampled : Bool) :
    Taking b depth x .lateUnknown sampled .late b.slots b.history none :=
  ⟨rfl, rfl, by simp [ArrivalClass.isLate], rfl⟩

theorem taking_overrun (b : Buffer) (depth : Nat) (x : Candidate) (sampled : Bool) :
    Taking b depth x .overrun sampled .overrun b.slots b.history none :=
  ⟨rfl, rfl, by simp [ArrivalClass.isLate], rfl⟩

end Sys2Proof.Machine

/-! PROOFS. An arrival that fits its stamp (R67, R98 to R103, R112). -/

namespace Sys2Proof.Machine

variable {s u v : State} {c : Fin 64} {x : Candidate} {y : Pointer} {rt : FineTicks}

/-! ### One circuit changed by nothing, or in one step -/

theorem onCircuit_same {f : Circuit → Circuit} (same : f (s.circuit c) = s.circuit c) : s.onCircuit c f = s := by
  have set : s.circuits.set c.val (s.circuit c) = s.circuits := Vector.set_getElem_self _
  unfold State.onCircuit
  rw [same, set]

/-- A circuit whose mismatch run an arrival that fits its stamp has ended, on a sampling path (R66). -/
def Circuit.matched (k : Circuit) (p : Port) : Circuit :=
  { k with control := { k.control with mismatchRun := if k.samples p then 0 else k.control.mismatchRun } }

/-- The state once an arrival has passed the stamp check (R66, R99). -/
def State.matched (s : State) (c : Fin 64) (x : Candidate) : State := s.onCircuit c (fun k => k.matched x.path)

theorem circuit_matched (s : State) (c : Fin 64) (x : Candidate) : (s.matched c x).circuit c = (s.circuit c).matched x.path :=
  circuit_onCircuit_self s c _

theorem takeChecked_fits (pointer : (s.circuit c).buffer.pointer = some y)
    (fits : x.ts = y.ts + BitVec.ofInt 32 (signed16 x.seq y.seq * (s.circuit c).entry.frames * 1024)) : s.takeChecked c x
      = if (s.circuit c).excludes x.path then s.matched c x else (s.matched c x).takeFitting c x := by
  have passes : stampFits y (s.circuit c).entry.frames x.seq x.ts = true := by
    rw [stampFits, beq_iff_eq]
    exact fits
  have run : (if (s.circuit c).samples x.path then s.onControl c (fun k => { k with mismatchRun := 0 }) else s)
      = s.matched c x := by
    unfold State.matched
    rcases Bool.eq_false_or_eq_true ((s.circuit c).samples x.path) with sampling | out
    · rw [if_pos sampling, onControl_eq]
      refine onCircuit_congr s c ?_
      simp only [Circuit.matched, sampling, if_true]
    · rw [if_neg (by rw [out]; decide)]
      refine (onCircuit_same ?_).symm
      simp only [Circuit.matched, out, Bool.false_eq_true, if_false]
  simp only [State.takeChecked, pointer, passes, if_true, run]

/-! ### The decision on an arrival, once the window has slid (R100 to R103) -/

/-- Stage 3 of R91 for an arrival that fits its stamp, the window slid for it. -/
def State.fitted (s : State) (c : Fin 64) (x : Candidate) (y : Pointer) : State :=
  let k := s.circuit c
  let cls := classOf k.buffer y k.entry.depth x.seq
  let value := k.recovery.sample x.capture s.lt x.ts
  if k.samples x.path && cls.unsampled then
    if k.control.state = .starved then
      if value.natAbs ≤ k.entry.reentryTolerance then
        ((s.takeClass c cls x true).reenter c value).takeSkew c (cls.skew x.path x.capture)
      else s.anchor c x
    else if k.realigns cls then (s.takeClass c cls x true).anchor c x
    else (((s.takeClass c cls x true).lateRunAfter c cls).takeSample c value).takeSkew c (cls.skew x.path x.capture)
  else (s.takeClass c cls x false).takeSkew c (cls.skew x.path x.capture)

theorem takeFitting_eq (pointer : ((s.slideFor c x.seq).circuit c).buffer.pointer = some y) :
    s.takeFitting c x = (s.slideFor c x.seq).fitted c x y := by
  simp only [State.takeFitting, pointer]
  rfl

theorem slideFor_still (pointer : (s.circuit c).buffer.pointer = some y)
    (still : (s.circuit c).control.state = .acquiring → signed16 x.seq y.seq < (s.circuit c).entry.depth) :
    s.slideFor c x.seq = s := by
  unfold State.slideFor
  dsimp only
  split
  · next z state at' =>
    cases pointer.symm.trans at'
    exact if_neg (by have := still state; omega)
  · rfl

/-! ### The state a class leaves (R101, R67) -/

/-- A circuit whose late run an arrival that gives a sample has acted on (R67). -/
def Circuit.lateCounted (k : Circuit) (late : Bool) : Circuit :=
  { k with control := { k.control with
      lateRun := if k.control.state = .playing ∧ k.entry.latePolicy = .realign then (if late then k.control.lateRun + 1 else 0)
        else k.control.lateRun } }

theorem lateRunAfter_eq (s : State) (c : Fin 64) (cls : ArrivalClass) :
    s.lateRunAfter c cls = s.onCircuit c (fun k => k.lateCounted cls.isLate) := by
  by_cases acts : (s.circuit c).control.state = .playing ∧ (s.circuit c).entry.latePolicy = .realign
  · simp only [State.lateRunAfter, acts.1, acts.2, onControl_eq]
    refine onCircuit_congr s c ?_
    simp only [Circuit.lateCounted, acts.1, acts.2, and_self, if_true]
  · have none : s.lateRunAfter c cls = s := by
      unfold State.lateRunAfter
      split
      · next state policy => exact absurd ⟨state, policy⟩ acts
      · rfl
    rw [none]
    refine (onCircuit_same ?_).symm
    simp only [Circuit.lateCounted, if_neg acts]

/-- A circuit in which an arrival of a class has been counted and stored or recorded (R101). -/
def Circuit.taken (k : Circuit) (n : CircuitCounter) (slots : Vector (Option HeldEntry) 128) (history : List HistoryRecord) : Circuit :=
  { k with counters := bump k.counters n.place, buffer := { k.buffer with slots := slots, history := history } }

theorem takeClass_eq {cls : ArrivalClass} {sampled : Bool} {n : CircuitCounter} {slots : Vector (Option HeldEntry) 128}
    {history : List HistoryRecord} {skew : Option Int}
    (taking : Taking (s.circuit c).buffer (s.circuit c).entry.depth x cls sampled n slots history skew) :
    s.takeClass c cls x sampled = s.onCircuit c (fun k => k.taken n slots history) := by
  simp only [State.takeClass, onBuffer_eq, count_eq, onCircuit_onCircuit, taking.counter]
  refine onCircuit_congr s c ?_
  rw [taking.take]
  rfl

/-- The state before the sample and the skew sample of an arrival of a class (R66, R67, R101). -/
def State.classTaken (s : State) (c : Fin 64) (x : Candidate) (n : CircuitCounter) (slots : Vector (Option HeldEntry) 128)
    (history : List HistoryRecord) (sampled : Bool) : State :=
  let k := s.circuit c
  let lateRun := if sampled = true ∧ k.control.state = .playing ∧ k.entry.latePolicy = .realign then
      (if n = .late then k.control.lateRun + 1 else 0)
    else k.control.lateRun
  s.onCircuit c (fun k => { k with
    counters := bump k.counters n.place
    buffer := { k.buffer with slots := slots, history := history }
    control := { k.control with
      lateRun := lateRun, mismatchRun := if k.samples x.path then 0 else k.control.mismatchRun } })

theorem classed_eq (s : State) (c : Fin 64) (x : Candidate) (rt : FineTicks) (n : CircuitCounter)
    (slots : Vector (Option HeldEntry) 128) (history : List HistoryRecord) (sampled : Bool) (skew : Option Int) :
    s.classed c x rt n slots history sampled skew
      = (if sampled then (s.classTaken c x n slots history sampled).takeSample c (sampleValue s c x rt)
          else s.classTaken c x n slots history sampled).takeSkew c skew := by
  cases skew <;> rfl

theorem sample_matched (time : (s.circuit c).recovery.rt = some rt) :
    ((s.matched c x).circuit c).recovery.sample x.capture (s.matched c x).lt x.ts = sampleValue s c x rt := by
  rw [circuit_matched]
  simp only [Recovery.sample, Circuit.matched, time, Option.getD_some]
  rfl

/-- The decision on an arrival of a class, in a state where it neither re-enters nor anchors. -/
theorem fitted_classed {cls : ArrivalClass} {n : CircuitCounter} {slots : Vector (Option HeldEntry) 128}
    {history : List HistoryRecord} {sampled : Bool} {skew : Option Int} (time : (s.circuit c).recovery.rt = some rt)
    (classed : classOf (s.circuit c).buffer y (s.circuit c).entry.depth x.seq = cls)
    (gives : ((s.circuit c).samples x.path && cls.unsampled) = sampled)
    (taking : Taking (s.circuit c).buffer (s.circuit c).entry.depth x cls sampled n slots history skew)
    (plays : ¬((s.circuit c).control.state = .starved ∧ sampled = true))
    (keeps : sampled = true → (s.circuit c).realigns cls = false) :
    (s.matched c x).fitted c x y = s.classed c x rt n slots history sampled skew := by
  have own := circuit_matched s c x
  have taken : Taking ((s.matched c x).circuit c).buffer ((s.matched c x).circuit c).entry.depth x cls sampled n slots history
      skew := by rw [own]; exact taking
  have stored : (s.matched c x).takeClass c cls x sampled
      = s.onCircuit c (fun k => (k.matched x.path).taken n slots history) := by
    rw [takeClass_eq taken, State.matched, onCircuit_onCircuit]
  have cls_eq : classOf ((s.matched c x).circuit c).buffer y ((s.matched c x).circuit c).entry.depth x.seq = cls := by
    rw [own]; exact classed
  have gives' : (((s.matched c x).circuit c).samples x.path && cls.unsampled) = sampled := by rw [own]; exact gives
  rw [classed_eq]
  unfold State.fitted
  dsimp only
  rw [cls_eq, gives', sample_matched time, taking.skew]
  cases sampled with
  | true =>
    have away : ¬((s.matched c x).circuit c).control.state = .starved := by rw [own]; exact fun h => plays ⟨h, rfl⟩
    have keeps' : ((s.matched c x).circuit c).realigns cls = false := by rw [own]; exact keeps rfl
    have late : ((s.matched c x).takeClass c cls x true).lateRunAfter c cls = s.classTaken c x n slots history true := by
      rw [stored, lateRunAfter_eq, onCircuit_onCircuit, State.classTaken]
      refine onCircuit_congr s c ?_
      have same : (if cls.isLate = true then (s.circuit c).control.lateRun + 1 else 0)
          = if n = .late then (s.circuit c).control.lateRun + 1 else 0 := by simp only [taking.late]
      simp only [Circuit.lateCounted, Circuit.taken, Circuit.matched, same, true_and]
    rw [if_pos rfl, if_neg away, if_neg (by rw [keeps']; decide), late, if_pos rfl]
  | false =>
    have plain : (s.matched c x).takeClass c cls x false = s.classTaken c x n slots history false := by
      rw [stored, State.classTaken]
      refine onCircuit_congr s c ?_
      simp only [Circuit.taken, Circuit.matched, Bool.false_eq_true, false_and, if_false]
    rw [if_neg (by decide), if_neg (by decide), plain]

/-- The sixteenth late sample in a row, in PLAYING under REALIGN, anchors the circuit (R67). -/
theorem fitted_realigns {cls : ArrivalClass} (classed : classOf (s.circuit c).buffer y (s.circuit c).entry.depth x.seq = cls)
    (gives : ((s.circuit c).samples x.path && cls.unsampled) = true) (playing : (s.circuit c).control.state = .playing)
    (realigns : (s.circuit c).realigns cls = true) :
    (s.matched c x).fitted c x y = ((s.matched c x).takeClass c cls x true).anchor c x := by
  have own := circuit_matched s c x
  have cls_eq : classOf ((s.matched c x).circuit c).buffer y ((s.matched c x).circuit c).entry.depth x.seq = cls := by
    rw [own]; exact classed
  have gives' : (((s.matched c x).circuit c).samples x.path && cls.unsampled) = true := by rw [own]; exact gives
  have state : ¬((s.matched c x).circuit c).control.state = .starved := by
    rw [own]
    show ¬(s.circuit c).control.state = .starved
    rw [playing]
    decide
  have realigns' : ((s.matched c x).circuit c).realigns cls = true := by rw [own]; exact realigns
  unfold State.fitted
  dsimp only
  rw [cls_eq, if_pos gives', if_neg state, if_pos realigns']

end Sys2Proof.Machine

/-! PROOFS. Every class of an arrival that fits its stamp (R67, R100 to R103), and the window slid for one too far ahead (R112). -/

namespace Sys2Proof.Machine

variable {s u v : State} {c : Fin 64} {x : Candidate} {y : Pointer} {rt : FineTicks}

/-! ### The late run that anchors (R67) -/

/-- A state in which a late arrival has been counted and recorded, anchored on it. -/
theorem realigned {slots : Vector (Option HeldEntry) 128} {history : List HistoryRecord}
    (playing : (s.circuit c).control.state = .playing)
    (form : u = (s.onCircuit c (fun k => (k.matched x.path).taken .late slots history)).anchor c x) :
    Anchored s u c x
    ∧ (u.circuit c).counters.get CircuitCounter.late.place = countUp ((s.circuit c).counters.get CircuitCounter.late.place)
    ∧ u.flag (.circuit c .stateChanged) = s.flagAfter (.circuit c .stateChanged) (.circuitState .acquiring)
    ∧ u.flag (.circuit c .lockLost) = (if (s.circuit c).recovery.locked then s.flagAfter (.circuit c .lockLost) .none
        else s.flag (.circuit c .lockLost))
    ∧ u.flag (.circuit c .farEndRestart) = s.flag (.circuit c .farEndRestart) ∧ TimingLeft s u c := by
  subst form
  have own : (s.onCircuit c (fun k => (k.matched x.path).taken .late slots history)).circuit c
      = ((s.circuit c).matched x.path).taken .late slots history := circuit_onCircuit_self s c _
  have flags (g : CircuitFlag) : (s.onCircuit c (fun k => (k.matched x.path).taken .late slots history)).flag (.circuit c g)
      = s.flag (.circuit c g) := flag_onCircuit _ _ _ _ rfl
  have lt : (s.onCircuit c (fun k => (k.matched x.path).taken .late slots history)).lt = s.lt := rfl
  have tributaries : (s.onCircuit c (fun k => (k.matched x.path).taken .late slots history)).tributaries = s.tributaries := rfl
  generalize s.onCircuit c (fun k => (k.matched x.path).taken .late slots history) = v at own flags lt tributaries ⊢
  have apart : CircuitCounter.firstCopies.place ≠ CircuitCounter.late.place := by decide
  have state : (v.circuit c).control.state = .playing := by rw [own]; exact playing
  refine ⟨anchored_anchor lt (by rw [own]; exact ⟨rfl, rfl, rfl, rfl, rfl, rfl, rfl⟩) ?_ x, ?_, ?_, ?_, ?_, ?_⟩
  · rw [own]; exact get_bump_of_ne _ apart
  · rw [circuit_anchor, own]
    exact (get_bump_of_ne _ apart.symm).trans (get_bump_self _ _)
  · rw [flag_anchor, if_pos rfl, if_neg (by rw [state]; decide)]
    simp only [State.flagAfter, flags]
  · rw [flag_anchor, if_neg (by decide), if_pos rfl, own]
    simp only [State.flagAfter, flags]
    rfl
  · rw [flag_anchor, if_neg (by decide), if_neg (by decide), flags]
  · exact (timingLeft_anchor state x).congr (by rw [own]; rfl) (by rw [own]; rfl) tributaries rfl

/-! ### The window slid in ACQUIRING (R112) -/

theorem signed16_sub_self (q : SeqNo) {n : Nat} (small : n < 32768) : signed16 q (q - BitVec.ofNat 16 n) = n := by
  have apart : q - (q - BitVec.ofNat 16 n) = BitVec.ofNat 16 n := by ring
  rw [signed16, apart, BitVec.toInt_ofNat']
  exact Int.bmod_eq_of_le_mul_two (by push_cast; omega) (by push_cast; omega)

/-- A pointer slid so far that a sequence is the last of the window stands a depth less one before it. -/
theorem slid_seq {q p : SeqNo} {depth : Nat} (pos : 0 < depth) (beyond : (depth : Int) ≤ signed16 q p) :
    p + BitVec.ofNat 16 (signed16 q p - depth + 1).toNat = q - BitVec.ofNat 16 (depth - 1) := by
  have whole : BitVec.ofNat 16 (signed16 q p).toNat = q - p := by
    have back : BitVec.ofInt 16 (q - p).toInt = q - p := BitVec.ofInt_toInt
    rw [← back, ← BitVec.ofInt_natCast]
    congr 1
    unfold signed16 at beyond ⊢
    omega
  have sum : (signed16 q p).toNat = (signed16 q p - depth + 1).toNat + (depth - 1) := by omega
  rw [sum, BitVec.ofNat_add] at whole
  have step : BitVec.ofNat 16 (signed16 q p - depth + 1).toNat = q - p - BitVec.ofNat 16 (depth - 1) := by
    rw [← whole]; ring
  rw [step]
  ring

/-- A circuit whose window has slid for an arrival too far ahead (R112). -/
def Circuit.slidFor (k : Circuit) (x : Candidate) (y : Pointer) : Circuit :=
  let d := signed16 x.seq y.seq
  let seq := x.seq - BitVec.ofNat 16 (k.entry.depth - 1)
  { k with buffer := { k.buffer with
      pointer := some ⟨seq, y.frame, y.ts + BitVec.ofInt 32 ((d - k.entry.depth + 1) * k.entry.frames * 1024)⟩
      slots := k.buffer.slots.map (fun v => v.filter (fun e => decide (0 ≤ signed16 e.seq seq))) } }

theorem slide_eq {k : Circuit} (pointer : k.buffer.pointer = some y) (pos : 0 < k.entry.depth)
    (beyond : (k.entry.depth : Int) ≤ signed16 x.seq y.seq) :
    k.buffer.slide k.entry.frames (signed16 x.seq y.seq - k.entry.depth + 1).toNat = (k.slidFor x y).buffer := by
  have seq := slid_seq pos beyond
  have stamp : stampAfter y.ts k.entry.frames ((signed16 x.seq y.seq - k.entry.depth + 1).toNat : Nat)
      = y.ts + BitVec.ofInt 32 ((signed16 x.seq y.seq - k.entry.depth + 1) * k.entry.frames * 1024) := by
    rw [stampAfter, Int.toNat_of_nonneg (by omega)]
  simp only [Buffer.slide, pointer, seq, stamp, Circuit.slidFor]
  congr 1
  refine congrFun (congrArg Vector.map (funext fun v => ?_)) _
  cases v with
  | none => rfl
  | some e =>
    dsimp only
    by_cases behind : signed16 e.seq (x.seq - BitVec.ofNat 16 (k.entry.depth - 1)) < 0
    · rw [if_pos behind, Option.filter_some, decide_eq_false (by omega), if_neg (by decide)]
    · rw [if_neg behind, Option.filter_some, decide_eq_true (by omega), if_pos rfl]

theorem slideFor_slid (pointer : (s.circuit c).buffer.pointer = some y) (acquiring : (s.circuit c).control.state = .acquiring)
    (pos : 0 < (s.circuit c).entry.depth) (beyond : ((s.circuit c).entry.depth : Int) ≤ signed16 x.seq y.seq) :
    s.slideFor c x.seq = s.onCircuit c (fun k => k.slidFor x y) := by
  simp only [State.slideFor, acquiring, pointer, if_pos beyond, onBuffer_eq]
  refine onCircuit_congr s c ?_
  rw [slide_eq pointer pos beyond]
  rfl

/-- An arrival too far ahead is taken as it is once the window has slid for it (R112). -/
theorem takeChecked_slid (pointer : (s.circuit c).buffer.pointer = some y)
    (fits : x.ts = y.ts + BitVec.ofInt 32 (signed16 x.seq y.seq * (s.circuit c).entry.frames * 1024))
    (acquiring : (s.circuit c).control.state = .acquiring) (pos : 0 < (s.circuit c).entry.depth)
    (beyond : ((s.circuit c).entry.depth : Int) ≤ signed16 x.seq y.seq) (taken : (s.circuit c).excludes x.path = false) :
    s.takeChecked c x = (s.onCircuit c (fun k => k.slidFor x y)).takeChecked c x := by
  have own : (s.onCircuit c (fun k => k.slidFor x y)).circuit c = (s.circuit c).slidFor x y := circuit_onCircuit_self s c _
  have range : signed16 x.seq y.seq ≤ 32767 := (signed16_range x.seq y.seq).2
  have last : signed16 x.seq (x.seq - BitVec.ofNat 16 ((s.circuit c).entry.depth - 1)) = ((s.circuit c).entry.depth - 1 : Nat) :=
    signed16_sub_self _ (by omega)
  have slidPointer : ((s.onCircuit c (fun k => k.slidFor x y)).circuit c).buffer.pointer
      = some ⟨x.seq - BitVec.ofNat 16 ((s.circuit c).entry.depth - 1), y.frame, y.ts + BitVec.ofInt 32
          ((signed16 x.seq y.seq - (s.circuit c).entry.depth + 1) * (s.circuit c).entry.frames * 1024)⟩ := by rw [own]; rfl
  have slidFits : x.ts = y.ts + BitVec.ofInt 32
        ((signed16 x.seq y.seq - (s.circuit c).entry.depth + 1) * (s.circuit c).entry.frames * 1024)
      + BitVec.ofInt 32 (signed16 x.seq (x.seq - BitVec.ofNat 16 ((s.circuit c).entry.depth - 1))
        * ((s.onCircuit c (fun k => k.slidFor x y)).circuit c).entry.frames * 1024) := by
    have sum : (signed16 x.seq y.seq - (s.circuit c).entry.depth + 1) * (s.circuit c).entry.frames * 1024
        + ((s.circuit c).entry.depth - 1 : Nat) * (s.circuit c).entry.frames * 1024
      = signed16 x.seq y.seq * (s.circuit c).entry.frames * 1024 := by
      rw [Int.natCast_sub pos]
      push_cast
      ring
    rw [own, last, BitVec.add_assoc, ← BitVec.ofInt_add]
    show x.ts = y.ts + BitVec.ofInt 32 (_ + ((s.circuit c).entry.depth - 1 : Nat) * (s.circuit c).entry.frames * 1024)
    rw [sum, fits]
  have slidTaken : ((s.onCircuit c (fun k => k.slidFor x y)).circuit c).excludes x.path = false := by rw [own]; exact taken
  have matched := circuit_matched s c x
  have commute : (s.matched c x).onCircuit c (fun k => k.slidFor x y) = (s.onCircuit c (fun k => k.slidFor x y)).matched c x := by
    rw [State.matched, State.matched, onCircuit_onCircuit, onCircuit_onCircuit]
    rfl
  have slides : (s.matched c x).slideFor c x.seq = (s.onCircuit c (fun k => k.slidFor x y)).matched c x := by
    rw [← commute]
    exact slideFor_slid (by rw [matched]; exact pointer) (by rw [matched]; exact acquiring) (by rw [matched]; exact pos)
      (by rw [matched]; exact beyond)
  have after := circuit_matched (s.onCircuit c (fun k => k.slidFor x y)) c x
  have still : ((s.onCircuit c (fun k => k.slidFor x y)).matched c x).slideFor c x.seq
      = (s.onCircuit c (fun k => k.slidFor x y)).matched c x := by
    refine slideFor_still (by rw [after]; exact slidPointer) fun _ => ?_
    rw [after, own, last]
    show (((s.circuit c).entry.depth - 1 : Nat) : Int) < (s.circuit c).entry.depth
    omega
  rw [takeChecked_fits pointer fits, if_neg (by rw [taken]; decide), takeChecked_fits slidPointer slidFits,
    if_neg (by rw [slidTaken]; decide)]
  rw [takeFitting_eq (by rw [slides, after]; exact slidPointer), slides, takeFitting_eq (by rw [still, after]; exact slidPointer),
    still]

end Sys2Proof.Machine

/-! PROOFS. An arrival that fits its stamp, settled class by class (R67, R98 to R103, R110 to R112). -/

namespace Sys2Proof.Machine

variable {s : State} {c : Fin 64} {x : Candidate} {y : Pointer} {rt : FineTicks}

theorem realigns_iff (k : Circuit) (cls : ArrivalClass) : k.realigns cls = true ↔ k.control.state = .playing
    ∧ k.entry.latePolicy = .realign ∧ cls.isLate = true ∧ 15 ≤ k.control.lateRun := by
  simp only [Circuit.realigns, Bool.and_eq_true, beq_iff_eq, decide_eq_true_eq, and_assoc]

/-- An arrival that fits its stamp and slides no window. -/
theorem takeChecked_fitted (pointer : (s.circuit c).buffer.pointer = some y)
    (fits : x.ts = y.ts + BitVec.ofInt 32 (signed16 x.seq y.seq * (s.circuit c).entry.frames * 1024))
    (taken : (s.circuit c).merge.forced ≠ some (otherPort x.path))
    (still : (s.circuit c).control.state = .acquiring → signed16 x.seq y.seq < (s.circuit c).entry.depth) :
    s.takeChecked c x = (s.matched c x).fitted c x y := by
  have matched := circuit_matched s c x
  have stays : (s.matched c x).slideFor c x.seq = s.matched c x :=
    slideFor_still (by rw [matched]; exact pointer) (by rw [matched]; exact still)
  rw [takeChecked_fits pointer fits, if_neg (fun out => taken ((excludes_iff _ _).mp out)),
    takeFitting_eq (by rw [stays, matched]; exact pointer), stays]

/-- A late arrival: counted and recorded, or the one that anchors (R67). -/
theorem fitted_late {cls : ArrivalClass} {slots : Vector (Option HeldEntry) 128} {history : List HistoryRecord} {sampled : Bool}
    (time : (s.circuit c).recovery.rt = some rt)
    (classed : classOf (s.circuit c).buffer y (s.circuit c).entry.depth x.seq = cls)
    (gives : ((s.circuit c).samples x.path && cls.unsampled) = sampled)
    (taking : Taking (s.circuit c).buffer (s.circuit c).entry.depth x cls sampled .late slots history none) :
    let k := s.circuit c
    let u := (s.matched c x).fitted c x y
    if k.control.state = .playing ∧ k.entry.latePolicy = .realign ∧ sampled = true ∧ 15 ≤ k.control.lateRun then
      Anchored s u c x
      ∧ (u.circuit c).counters.get CircuitCounter.late.place = countUp (k.counters.get CircuitCounter.late.place)
      ∧ u.flag (.circuit c .stateChanged) = s.flagAfter (.circuit c .stateChanged) (.circuitState .acquiring)
      ∧ u.flag (.circuit c .lockLost) = (if k.recovery.locked then s.flagAfter (.circuit c .lockLost) .none
          else s.flag (.circuit c .lockLost))
      ∧ u.flag (.circuit c .farEndRestart) = s.flag (.circuit c .farEndRestart) ∧ TimingLeft s u c
    else ¬(k.control.state = .starved ∧ sampled = true) → u = s.classed c x rt .late slots history sampled none := by
  intro k u
  have late : cls.isLate = true := taking.late.mpr rfl
  split
  · next anchors =>
    obtain ⟨playing, policy, sampling, run⟩ := anchors
    subst sampling
    have form := fitted_realigns classed gives playing ((realigns_iff _ _).mpr ⟨playing, policy, late, run⟩)
    rw [takeClass_eq (n := .late) (slots := slots) (history := history) (skew := none)
      (by rw [circuit_matched]; exact taking), State.matched, onCircuit_onCircuit] at form
    exact realigned playing form
  · next keeps =>
    intro plays
    refine fitted_classed time classed gives taking plays fun sampling => ?_
    rw [Bool.eq_false_iff]
    intro realigns
    obtain ⟨playing, policy, -, run⟩ := (realigns_iff _ _).mp realigns
    exact keeps ⟨playing, policy, sampling, run⟩

/-- Settles O26, by the class. -/
theorem fittingArrivalIsClassed : Obligations.FittingArrivalIsClassed := by
  intro s c x y rt k b depth d u sampling state pointer time pos fits
  refine ⟨takeChecked_only s c x, fun out => ?_, ?_⟩
  · have excluded : k.excludes x.path = true := (excludes_iff _ _).mpr out
    have form := takeChecked_fits pointer fits
    rw [if_pos excluded] at form
    refine form.trans (onCircuit_same ?_)
    have away : (s.circuit c).samples x.path = false := samples_of_excludes out
    simp only [Circuit.matched, away, Bool.false_eq_true, if_false]
  intro admitted taken late
  have form (still : k.control.state = .acquiring → d < depth) : u = (s.matched c x).fitted c x y :=
    takeChecked_fitted pointer fits admitted still
  have plain {cls : ArrivalClass} {n : CircuitCounter} {slots : Vector (Option HeldEntry) 128} {history : List HistoryRecord}
      {sampled : Bool} {skew : Option Int} (still : k.control.state = .acquiring → d < depth)
      (classed : classOf b y depth x.seq = cls) (gives : (sampling && cls.unsampled) = sampled) (inTime : cls.isLate = false)
      (taking : Taking b depth x cls sampled n slots history skew) : taken n slots history sampled skew := fun plays => by
    rw [form still]
    refine fitted_classed time classed gives taking plays fun _ => ?_
    rw [Bool.eq_false_iff]
    intro realigns
    obtain ⟨-, -, isLate, -⟩ := (realigns_iff _ _).mp realigns
    rw [inTime] at isLate
    cases isLate
  have lateOf {cls : ArrivalClass} {history : List HistoryRecord} {sampled : Bool} (still : d < depth)
      (classed : classOf b y depth x.seq = cls) (gives : (sampling && cls.unsampled) = sampled)
      (taking : Taking b depth x cls sampled .late b.slots history none) : late history sampled := by
    have decided := fitted_late time classed gives taking
    rw [← form fun _ => still] at decided
    exact decided
  refine ⟨fun ahead within free whole => ?_, fun e ahead within held => ?_, fun now begun free => ?_, fun behind none => ?_,
    fun h behind record => ?_, fun beyond away => ?_, fun beyond acquiring => ?_⟩
  · exact plain (fun _ => within) (classOf_firstCopy ahead within free whole) (Bool.and_true _) rfl (taking_firstCopy ..)
  · exact plain (fun _ => within) (classOf_held ahead within held) rfl rfl (taking_held ..)
  · exact lateOf (by omega) (classOf_begun now begun pos free) (Bool.and_true _) (taking_unknown ..)
  · exact lateOf (by omega) (classOf_unknown behind none) (Bool.and_true _) (taking_unknown ..)
  · intro sampled
    exact ⟨fun missed => lateOf (by omega) (classOf_missed behind record missed) rfl (taking_missed ..),
      fun played => plain (fun _ => by omega) (classOf_played behind record played) rfl rfl (taking_played ..)⟩
  · exact plain (fun acquiring => absurd acquiring away) (classOf_overrun beyond) (Bool.and_true _) rfl (taking_overrun ..)
  · have free : k.excludes x.path = false := by
      rw [Bool.eq_false_iff]
      exact fun out => admitted ((excludes_iff _ _).mp out)
    intro seq
    refine (takeChecked_slid pointer fits acquiring pos beyond free).trans (congrArg (State.takeChecked · c x) ?_)
    exact onCircuit_congr s c rfl

end Sys2Proof.Machine

/-! PROOFS. The first sample in STARVED: re-entry or a new anchor (R65). -/

namespace Sys2Proof.Machine

variable {s u v : State} {c : Fin 64} {x : Candidate} {y : Pointer} {rt : FineTicks}

/-! ### A flag set before or after a change of the circuit's recovery -/

theorem queueRecord_onCircuit (s : State) (r : EventRecord) (c : Fin 64) (f : Circuit → Circuit) :
    (s.queueRecord r).onCircuit c f = (s.onCircuit c f).queueRecord r := by
  have same : (s.onCircuit c f).events = s.events := rfl
  by_cases room : s.events.length < 64
  · simp only [State.queueRecord, same, if_pos room]
    rfl
  · simp only [State.queueRecord, same, if_neg room]
    rfl

theorem raise_onRecovery (s : State) (c : Fin 64) (f : CircuitFlag) (d : Detail) (g : Recovery → Recovery) :
    (s.raise (.circuit c f) d).onRecovery c g = (s.onRecovery c g).raise (.circuit c f) d := by
  have flag : (s.onRecovery c g).flag (.circuit c f) = s.flag (.circuit c f) := by
    rw [onRecovery_eq]; exact flag_onCircuit _ _ _ _ rfl
  have enabled : (s.onRecovery c g).enabled (.circuit c f) = s.enabled (.circuit c f) := by
    rw [onRecovery_eq]
    simp only [State.enabled, circuit_onCircuit_self]
  have marked : (s.withFlag (.circuit c f) (some d)).onRecovery c g = (s.onRecovery c g).withFlag (.circuit c f) (some d) := by
    rw [onRecovery_eq, onRecovery_eq]
    simp only [State.withFlag, onCircuit_onCircuit]
  cases set : s.flag (.circuit c f) with
  | some _ => simp only [State.raise, flag, set]
  | none =>
    simp only [State.raise, flag, set, enabled]
    split
    · rw [← marked, onRecovery_eq, queueRecord_onCircuit, onRecovery_eq]
      rfl
    · exact marked

/-! ### Re-entry (R65) -/

/-- A circuit that has re-entered PLAYING with the given sample, before its flag (R65). -/
def Circuit.entered (k : Circuit) (lt : Ticks) (value : Int) : Circuit :=
  { k with
    buffer := { k.buffer with startMark := false }
    control := { k.control with
      state := .playing
      starvationTimer := some (lt + BitVec.ofNat 32 (k.entry.starvationTimeout * k.entry.frames * 1024)) }
    recovery := { k.recovery with window := some ⟨1, value, k.entry.window⟩ } }

theorem reenter_eq (empty : (s.circuit c).recovery.window = none) (more : 2 ≤ (s.circuit c).entry.window) (value : Int) :
    s.reenter c value
      = (s.onCircuit c (fun k => k.entered s.lt value)).raise (.circuit c .stateChanged) (.circuitState .playing) := by
  have begun : (s.reenter c value)
      = (((s.onBuffer c (fun b => { b with startMark := false })).startStarvation c).enter c .playing).enterSample c value := rfl
  generalize entering : ((s.onBuffer c (fun b => { b with startMark := false })).startStarvation c).enter c .playing = v at begun
  have form : v = (s.onCircuit c (fun k => { k with
      buffer := { k.buffer with startMark := false }
      control := { k.control with
        state := .playing
        starvationTimer := some (s.lt + BitVec.ofNat 32 (k.entry.starvationTimeout * k.entry.frames * 1024)) } })).raise
        (.circuit c .stateChanged) (.circuitState .playing) := by
    rw [← entering, State.enter, raiseCircuit_eq]
    refine congrArg (State.raise · _ _) ?_
    simp only [State.startStarvation, onControl_eq, onBuffer_eq, onCircuit_onCircuit, circuit_onCircuit_self]
    exact onCircuit_congr s c rfl
  have own : v.circuit c = (({ s.circuit c with
      buffer := { (s.circuit c).buffer with startMark := false }
      control := { (s.circuit c).control with
        state := .playing
        starvationTimer := some (s.lt + BitVec.ofNat 32
          ((s.circuit c).entry.starvationTimeout * (s.circuit c).entry.frames * 1024)) } } : Circuit).raised .stateChanged
        (.circuitState .playing)) := by rw [form, circuit_raise_self, circuit_onCircuit_self]
  have window : (v.circuit c).entry.window = (s.circuit c).entry.window := by rw [own]; rfl
  have first : ((v.circuit c).recovery.enter (s.circuit c).entry.window value)
      = { (s.circuit c).recovery with window := some ⟨1, value, (s.circuit c).entry.window⟩ } := by
    rw [own]
    simp only [Recovery.enter, Circuit.raised, empty]
  have last : ((v.onRecovery c (fun r => r.enter (s.circuit c).entry.window value)).circuit c).recovery.windowEnd = none := by
    rw [onRecovery_eq, circuit_onCircuit_self, first]
    simp only [Recovery.windowEnd, if_neg (show ¬(s.circuit c).entry.window ≤ 1 by omega)]
  rw [begun]
  simp only [State.enterSample, window, last]
  rw [form, raise_onRecovery, onRecovery_eq, onCircuit_onCircuit]
  refine congrArg (State.raise · _ _) (onCircuit_congr s c ?_)
  simp only [Circuit.entered, Recovery.enter, empty]

theorem reentered_eq (s : State) (c : Fin 64) (value : Int) (n : CircuitCounter) (slots : Vector (Option HeldEntry) 128)
    (history : List HistoryRecord) (skew : Option Int) : s.reentered c value n slots history skew
      = ((s.onCircuit c (fun k => { k with
          counters := bump k.counters n.place
          buffer := { k.buffer with slots := slots, history := history, startMark := false }
          control := { k.control with
            state := .playing, mismatchRun := 0
            starvationTimer := some (s.lt + BitVec.ofNat 32 (k.entry.starvationTimeout * k.entry.frames * 1024)) }
          recovery := { k.recovery with window := some ⟨1, value, k.entry.window⟩ } })).raise (.circuit c .stateChanged)
            (.circuitState .playing)).takeSkew c skew := by
  cases skew <;> rfl

/-- What an arrival of any class makes of the buffer (R101). -/
theorem taking_of (b : Buffer) (depth : Nat) (x : Candidate) (cls : ArrivalClass) (sampled : Bool) :
    Taking b depth x cls sampled cls.counter (b.take cls depth x sampled).slots (b.take cls depth x sampled).history
      (cls.skew x.path x.capture) := by
  refine ⟨?_, rfl, ?_, rfl⟩
  · cases cls <;> rfl
  · cases cls <;> simp [ArrivalClass.isLate, ArrivalClass.counter]

/-- The decision on the first sample in STARVED within the tolerance (R65). -/
theorem fitted_reenters {cls : ArrivalClass} {n : CircuitCounter} {slots : Vector (Option HeldEntry) 128}
    {history : List HistoryRecord} {skew : Option Int} (time : (s.circuit c).recovery.rt = some rt)
    (starved : (s.circuit c).control.state = .starved) (empty : (s.circuit c).recovery.window = none)
    (more : 2 ≤ (s.circuit c).entry.window)
    (classed : classOf (s.circuit c).buffer y (s.circuit c).entry.depth x.seq = cls) (sampling : (s.circuit c).samples x.path = true)
    (fresh : cls.unsampled = true) (within : (sampleValue s c x rt).natAbs ≤ (s.circuit c).entry.reentryTolerance)
    (taking : Taking (s.circuit c).buffer (s.circuit c).entry.depth x cls true n slots history skew) :
    (s.matched c x).fitted c x y = s.reentered c (sampleValue s c x rt) n slots history skew := by
  have own := circuit_matched s c x
  have taken : Taking ((s.matched c x).circuit c).buffer ((s.matched c x).circuit c).entry.depth x cls true n slots history
      skew := by rw [own]; exact taking
  have stored := takeClass_eq taken
  have cls_eq : classOf ((s.matched c x).circuit c).buffer y ((s.matched c x).circuit c).entry.depth x.seq = cls := by
    rw [own]; exact classed
  have gives : (((s.matched c x).circuit c).samples x.path && cls.unsampled) = true := by
    rw [own, fresh]
    exact (Bool.and_true _).trans sampling
  have state : ((s.matched c x).circuit c).control.state = .starved := by rw [own]; exact starved
  have tolerance : ((s.matched c x).circuit c).entry.reentryTolerance = (s.circuit c).entry.reentryTolerance := by rw [own]; rfl
  unfold State.fitted
  dsimp only
  rw [cls_eq, if_pos gives, if_pos state, sample_matched time, tolerance, if_pos within, taking.skew, stored, reenter_eq ?_ ?_,
    reentered_eq, State.matched, onCircuit_onCircuit, onCircuit_onCircuit]
  · refine congrArg (State.takeSkew · c skew) (congrArg (State.raise · _ _) (onCircuit_congr s c ?_))
    simp only [Circuit.entered, Circuit.taken, Circuit.matched, sampling, if_true]
    rfl
  · rw [circuit_onCircuit_self, own]; exact empty
  · rw [circuit_onCircuit_self, own]; exact more

/-- The decision on the first sample in STARVED beyond the tolerance (R65, log 17). -/
theorem fitted_anchors {cls : ArrivalClass} (time : (s.circuit c).recovery.rt = some rt)
    (starved : (s.circuit c).control.state = .starved)
    (classed : classOf (s.circuit c).buffer y (s.circuit c).entry.depth x.seq = cls) (sampling : (s.circuit c).samples x.path = true)
    (fresh : cls.unsampled = true) (beyond : (s.circuit c).entry.reentryTolerance < (sampleValue s c x rt).natAbs) :
    (s.matched c x).fitted c x y = (s.matched c x).anchor c x := by
  have own := circuit_matched s c x
  have cls_eq : classOf ((s.matched c x).circuit c).buffer y ((s.matched c x).circuit c).entry.depth x.seq = cls := by
    rw [own]; exact classed
  have gives : (((s.matched c x).circuit c).samples x.path && cls.unsampled) = true := by
    rw [own, fresh]
    exact (Bool.and_true _).trans sampling
  have state : ((s.matched c x).circuit c).control.state = .starved := by rw [own]; exact starved
  have tolerance : ((s.matched c x).circuit c).entry.reentryTolerance = (s.circuit c).entry.reentryTolerance := by rw [own]; rfl
  unfold State.fitted
  dsimp only
  rw [cls_eq, if_pos gives, if_pos state, sample_matched time, tolerance, if_neg (by omega)]

end Sys2Proof.Machine

/-! PROOFS. The first sample in STARVED, settled on both sides of the tolerance (R65). -/

namespace Sys2Proof.Machine

variable {s u : State} {c : Fin 64} {x : Candidate} {y : Pointer} {rt : FineTicks}

/-- What a skew sample leaves alone of its circuit (R103). -/
theorem circuit_takeSkew (s : State) (c : Fin 64) (skew : Option Int) : ∃ (merge : Merge) (b : Bool),
    (s.takeSkew c skew).circuit c = ({ s.circuit c with merge := merge } : Circuit).raisedIf b .skewLimit .none := by
  cases skew with
  | none => exact ⟨(s.circuit c).merge, false, rfl⟩
  | some v => exact ⟨_, _, circuit_skewSample s c v⟩

/-- A slot that is held stays held when an arrival is stored or recorded (R101). -/
theorem slot_take {b : Buffer} {depth : Nat} {e : HeldEntry} {q : SeqNo} (cls : ArrivalClass) (x : Candidate) (sampled : Bool)
    (held : b.slot depth q = some e) : ((b.take cls depth x sampled).slot depth q).isSome = true := by
  have put (seq : SeqNo) (v : HeldEntry) : ((b.withSlot depth seq (some v)).slot depth q).isSome = true := by
    simp only [Buffer.slot, Buffer.withSlot, Vector.getElem_set] at held ⊢
    split
    · rfl
    · rw [held]; rfl
  have same (b' : Buffer) (slots : b'.slots = b.slots) : (b'.slot depth q).isSome = true := by
    have slot : b'.slot depth q = b.slot depth q := by simp only [Buffer.slot, slots]
    rw [slot, held]
    rfl
  cases cls with
  | firstCopy => exact put x.seq (x.entry sampled)
  | duplicateHeld _ => exact put x.seq _
  | duplicatePlayed _ => exact same _ rfl
  | lateMissed _ => exact same _ rfl
  | lateUnknown => exact held ▸ same _ rfl
  | overrun => exact held ▸ same _ rfl

/-- A circuit after re-entry, but for the paths' block and the skew limit flag (R65). -/
theorem circuit_reentered (s : State) (c : Fin 64) (value : Int) (n : CircuitCounter) (slots : Vector (Option HeldEntry) 128)
    (history : List HistoryRecord) (skew : Option Int) : ∃ (merge : Merge) (b : Bool),
    (s.reentered c value n slots history skew).circuit c
      = (({ s.circuit c with
          counters := bump (s.circuit c).counters n.place
          buffer := { (s.circuit c).buffer with slots := slots, history := history, startMark := false }
          control := { (s.circuit c).control with
            state := .playing, mismatchRun := 0
            starvationTimer := some (s.lt + BitVec.ofNat 32
              ((s.circuit c).entry.starvationTimeout * (s.circuit c).entry.frames * 1024)) }
          recovery := { (s.circuit c).recovery with window := some ⟨1, value, (s.circuit c).entry.window⟩ }
          merge := merge } : Circuit).raised .stateChanged (.circuitState .playing)).raisedIf b .skewLimit .none := by
  rw [reentered_eq]
  obtain ⟨merge, b, form⟩ := circuit_takeSkew ((s.onCircuit c (fun k => { k with
      counters := bump k.counters n.place
      buffer := { k.buffer with slots := slots, history := history, startMark := false }
      control := { k.control with
        state := .playing, mismatchRun := 0
        starvationTimer := some (s.lt + BitVec.ofNat 32 (k.entry.starvationTimeout * k.entry.frames * 1024)) }
      recovery := { k.recovery with window := some ⟨1, value, k.entry.window⟩ } })).raise (.circuit c .stateChanged)
        (.circuitState .playing)) c skew
  rw [circuit_raise_self, circuit_onCircuit_self] at form
  exact ⟨merge, b, form⟩

/-- Settles O28, on both sides of the tolerance. -/
theorem firstSampleInStarvedDecides : Obligations.FirstSampleInStarvedDecides := by
  intro s c x y rt k u v atCapture value starved pointer time empty more sampling admitted fits fresh
  have form : u = (s.matched c x).fitted c x y :=
    takeChecked_fitted pointer fits admitted (fun acquiring => by rw [show (s.circuit c).control.state = .starved from starved] at acquiring; cases acquiring)
  have reenters {cls : ArrivalClass} {n : CircuitCounter} {slots : Vector (Option HeldEntry) 128} {history : List HistoryRecord}
      {skew : Option Int} (within : value.natAbs ≤ k.entry.reentryTolerance)
      (classed : classOf k.buffer y k.entry.depth x.seq = cls) (unsampled : cls.unsampled = true)
      (taking : Taking k.buffer k.entry.depth x cls true n slots history skew) :
      u = s.reentered c value n slots history skew :=
    form.trans (fitted_reenters time starved empty more classed sampling unsampled within taking)
  refine ⟨takeChecked_only s c x, fun within => ?_, fun beyond => ?_⟩
  · have entered := reenters within rfl fresh (taking_of ..)
    obtain ⟨merge, b, circuit⟩ := circuit_reentered s c value (classOf k.buffer y k.entry.depth x.seq).counter
      (k.buffer.take (classOf k.buffer y k.entry.depth x.seq) k.entry.depth x true).slots
      (k.buffer.take (classOf k.buffer y k.entry.depth x.seq) k.entry.depth x true).history
      ((classOf k.buffer y k.entry.depth x.seq).skew x.path x.capture)
    rw [← entered] at circuit
    obtain ⟨changed, -⟩ := flag_circuit_of_raised_raisedIf (s := s) circuit rfl (by decide)
    have step : u.flag (.circuit c .delayStep) = s.flag (.circuit c .delayStep) := by
      simp only [State.flag, circuit, flags_raisedIf, Circuit.raised, raisedRow_circuitFlag]
      simp
    have own : v = _ := circuit
    refine ⟨by rw [own]; rfl, by rw [own]; exact pointer, by rw [own]; rfl, by rw [own]; rfl, by rw [own]; rfl, by rw [own]; rfl,
      by rw [own]; exact time, by rw [own]; rfl, changed, step, fun q e held => ?_, by rw [own]; rfl, fun pos => ?_⟩
    · have slots : v.buffer.slots = (k.buffer.take (classOf k.buffer y k.entry.depth x.seq) k.entry.depth x true).slots := by
        rw [own]; rfl
      have slot : v.buffer.slot k.entry.depth q
          = (k.buffer.take (classOf k.buffer y k.entry.depth x.seq) k.entry.depth x true).slot k.entry.depth q := by
        simp only [Buffer.slot, slots]
      rw [slot]
      exact slot_take _ x true held
    · intro buffer depth d taken
      refine ⟨fun ahead near free whole => ?_, fun e ahead near held => ?_, fun now begun free => ?_, fun behind none => ?_,
        fun h behind record => ⟨fun missed => ?_, fun played => ?_⟩, fun far => ?_⟩
      · exact reenters within (classOf_firstCopy ahead near free whole) rfl (taking_firstCopy ..)
      · have classed := classOf_held ahead near held
        have unmarked : e.sampled = false := by rw [classed] at fresh; simpa [ArrivalClass.unsampled] using fresh
        have taking := taking_held buffer depth x e true
        rw [unmarked, Bool.or_true] at taking
        exact reenters within classed (by rw [ArrivalClass.unsampled, unmarked]; rfl) taking
      · exact reenters within (classOf_begun now begun pos free) rfl (taking_unknown ..)
      · exact reenters within (classOf_unknown behind none) rfl (taking_unknown ..)
      · have classed := classOf_missed (depth := k.entry.depth) behind record missed
        have unmarked : (ArrivalClass.lateMissed h).unsampled = true := by rw [← classed]; exact fresh
        have taking := taking_missed buffer depth x h true
        simp only [Bool.or_true] at taking
        exact reenters within classed unmarked taking
      · have classed := classOf_played (depth := k.entry.depth) behind record played
        have unmarked : (ArrivalClass.duplicatePlayed h).unsampled = true := by rw [← classed]; exact fresh
        have taking := taking_played buffer depth x h true
        simp only [Bool.or_true] at taking
        exact reenters within classed unmarked taking
      · exact reenters within (classOf_overrun far) rfl (taking_overrun ..)
  · have anchors : u = (s.matched c x).anchor c x := form.trans (fitted_anchors time starved rfl sampling fresh beyond)
    have own := circuit_matched s c x
    have flags (g : CircuitFlag) : (s.matched c x).flag (.circuit c g) = s.flag (.circuit c g) := flag_onCircuit _ _ _ _ rfl
    have state : ((s.matched c x).circuit c).control.state = .starved := by rw [own]; exact starved
    have lt : (s.matched c x).lt = s.lt := rfl
    have base : AnchorBase (s.circuit c) ((s.matched c x).circuit c) := by
      rw [own]; exact ⟨rfl, rfl, rfl, rfl, rfl, rfl, rfl⟩
    have count : ((s.matched c x).circuit c).counters.get CircuitCounter.firstCopies.place
        = (s.circuit c).counters.get CircuitCounter.firstCopies.place := by rw [own]; rfl
    have circuit : v = _ := (congrArg (State.circuit · c) anchors).trans (circuit_anchor (s.matched c x) c x)
    refine ⟨?_, ?_, ?_, ?_, ?_, ?_, ?_⟩
    · rw [anchors]
      exact anchored_anchor (s := s) (v := s.matched c x) lt base count x
    · rw [anchors, flag_anchor, if_pos rfl, if_neg (by rw [state]; decide)]
      simp only [State.flagAfter, flags]
    · rw [anchors, flag_anchor, if_neg (by decide), if_neg (by decide), flags]
    · rw [circuit, own]; rfl
    · rw [circuit, own]; rfl
    · rw [anchors, flag_anchor, if_neg (by decide), if_neg (by decide), flags]
    · rw [anchors]
      exact tributaries_anchor (by rw [state]; decide) x

end Sys2Proof.Machine

/-! PROOFS. A delivered frame: which count, queue or circuit it goes to (R87 to R89), and what the three stages of a well-formed
arrival keep of its circuit (R91). -/

namespace Sys2Proof.Machine

variable {s u w : State} {c : Fin 64} {p : Port} {i : Fin 16}

/-! ### Counters that an arrival leaves alone (R101, R182) -/

/-- An operation leaves one counter of a circuit alone. -/
def CountStays (i : Fin 16) (s u : State) (c : Fin 64) : Prop := (u.circuit c).counters.get i = (s.circuit c).counters.get i

theorem CountStays.refl (i : Fin 16) (s : State) (c : Fin 64) : CountStays i s s c := rfl

theorem CountStays.trans (h : CountStays i s u c) (k : CountStays i u w c) : CountStays i s w c := Eq.trans k h

theorem CountStays.of_eq (h : (u.circuit c).counters = (s.circuit c).counters) : CountStays i s u c := by rw [CountStays, h]

theorem CountStays.onCircuit (s : State) (c : Fin 64) (f : Circuit → Circuit) (h : (f (s.circuit c)).counters = (s.circuit c).counters) :
    CountStays i s (s.onCircuit c f) c := .of_eq (by rw [circuit_onCircuit_self, h])

theorem CountStays.raise (s : State) (c : Fin 64) (f : CircuitFlag) (d : Detail) : CountStays i s (s.raise (.circuit c f) d) c :=
  .of_eq (by rw [circuit_raise_self]; rfl)

theorem CountStays.count {n : CircuitCounter} (s : State) (c : Fin 64) (other : i ≠ n.place) : CountStays i s (s.count c n) c := by
  rw [CountStays, count_eq, circuit_onCircuit_self]
  exact get_bump_of_ne _ other

theorem anchor_countStays (s : State) (c : Fin 64) (x : Candidate) (other : i ≠ CircuitCounter.firstCopies.place) :
    CountStays i s (s.anchor c x) c := by
  rw [CountStays, circuit_anchor]
  exact get_bump_of_ne _ other

theorem stampMismatch_countStays (s : State) (c : Fin 64) (x : Candidate) (first : i ≠ CircuitCounter.firstCopies.place)
    (mismatch : i ≠ CircuitCounter.stampMismatch.place) : CountStays i s (s.stampMismatch c x) c := by
  have counted : CountStays i s (s.count c .stampMismatch) c := .count s c mismatch
  rcases Bool.eq_false_or_eq_true ((s.circuit c).samples x.path) with sampling | out
  · by_cases last : (s.circuit c).control.state = .starved ∨ 2 ≤ (s.circuit c).control.mismatchRun
    · rw [stampMismatch_anchors sampling last]
      exact (counted.trans (anchor_countStays _ c x first)).trans (.raise _ c _ _)
    · rw [stampMismatch_runs sampling last]
      exact counted.trans (.onCircuit _ c _ rfl)
  · rw [stampMismatch_excluded out]
    exact counted

theorem slideFor_countStays (s : State) (c : Fin 64) (seq : SeqNo) : CountStays i s (s.slideFor c seq) c := by
  unfold State.slideFor
  dsimp only
  split
  · split
    · rw [onBuffer_eq]; exact .onCircuit _ c _ rfl
    · exact .refl i s c
  · exact .refl i s c

theorem takeClass_countStays (s : State) (c : Fin 64) (k : ArrivalClass) (x : Candidate) (sampled : Bool)
    (other : i ≠ k.counter.place) : CountStays i s (s.takeClass c k x sampled) c := by
  have stored : CountStays i s (s.onBuffer c (fun b => b.take k (s.circuit c).entry.depth x sampled)) c := by
    rw [onBuffer_eq]; exact .onCircuit _ c _ rfl
  exact stored.trans (.count _ c other)

theorem lateRunAfter_countStays (s : State) (c : Fin 64) (k : ArrivalClass) : CountStays i s (s.lateRunAfter c k) c := by
  unfold State.lateRunAfter
  split
  · rw [onControl_eq]; exact .onCircuit _ c _ rfl
  · exact .refl i s c

theorem enterSample_countStays (s : State) (c : Fin 64) (x : Int) : CountStays i s (s.enterSample c x) c := by
  have entered (w : Nat) : CountStays i s (s.onRecovery c (fun r => r.enter w x)) c := by
    rw [onRecovery_eq]; exact .onCircuit _ c _ rfl
  unfold State.enterSample
  dsimp only
  split
  · exact entered _
  · split
    · exact (entered _).trans (.of_eq (by rw [circuit_completeAcquisition]; rfl))
    · exact (entered _).trans (.of_eq (by rw [loopUpdate_circuit]; rfl))
    · exact entered _

theorem startStarvation_countStays (s : State) (c : Fin 64) : CountStays i s (s.startStarvation c) c :=
  .of_eq (by rw [circuit_startStarvation]; rfl)

theorem takeSample_countStays (s : State) (c : Fin 64) (x : Int) : CountStays i s (s.takeSample c x) c :=
  (startStarvation_countStays s c).trans (enterSample_countStays _ c x)

theorem reenter_countStays (s : State) (c : Fin 64) (x : Int) : CountStays i s (s.reenter c x) c := by
  have marked : CountStays i s (s.onBuffer c (fun b => { b with startMark := false })) c := by
    rw [onBuffer_eq]; exact .onCircuit _ c _ rfl
  exact ((marked.trans (startStarvation_countStays _ c)).trans (.of_eq (by rw [circuit_enter]; rfl))).trans
    (enterSample_countStays _ c x)

theorem takeSkew_countStays (s : State) (c : Fin 64) (x : Option Int) : CountStays i s (s.takeSkew c x) c := by
  cases x with
  | none => exact .refl i s c
  | some x => exact .of_eq (by rw [State.takeSkew, circuit_skewSample]; rfl)

/-- A counter that is neither a class's nor that of stamp mismatches is none that stage 3 counts. -/
theorem takeFitting_countStays (s : State) (c : Fin 64) (x : Candidate) (other : ∀ k : ArrivalClass, i ≠ k.counter.place) :
    CountStays i s (s.takeFitting c x) c := by
  have first : i ≠ CircuitCounter.firstCopies.place := other .firstCopy
  have slid : CountStays i s (s.slideFor c x.seq) c := slideFor_countStays s c x.seq
  have taken (k : ArrivalClass) (b : Bool) : CountStays i s ((s.slideFor c x.seq).takeClass c k x b) c :=
    slid.trans (takeClass_countStays _ c k x b (other k))
  unfold State.takeFitting
  dsimp only
  split
  · exact slid
  · split
    · split
      · split
        · exact ((taken _ _).trans (reenter_countStays _ c _)).trans (takeSkew_countStays _ c _)
        · exact slid.trans (anchor_countStays _ c x first)
      · split
        · exact (taken _ _).trans (anchor_countStays _ c x first)
        · exact (((taken _ _).trans (lateRunAfter_countStays _ c _)).trans (takeSample_countStays _ c _)).trans
            (takeSkew_countStays _ c _)
    · exact (taken _ _).trans (takeSkew_countStays _ c _)

theorem takeChecked_countStays (s : State) (c : Fin 64) (x : Candidate) (other : ∀ k : ArrivalClass, i ≠ k.counter.place)
    (mismatch : i ≠ CircuitCounter.stampMismatch.place) : CountStays i s (s.takeChecked c x) c := by
  unfold State.takeChecked
  dsimp only
  split
  · exact .refl i s c
  · split
    · have matched : CountStays i s (if (s.circuit c).samples x.path = true then
          s.onControl c (fun k => { k with mismatchRun := 0 }) else s) c := by
        split
        · rw [onControl_eq]; exact .onCircuit _ c _ rfl
        · exact .refl i s c
      split
      · exact matched
      · exact matched.trans (takeFitting_countStays _ c x other)
    · exact stampMismatch_countStays s c x (other .firstCopy) mismatch

theorem takeByState_countStays (s : State) (c : Fin 64) (x : Candidate) (other : ∀ k : ArrivalClass, i ≠ k.counter.place)
    (mismatch : i ≠ CircuitCounter.stampMismatch.place) : CountStays i s (s.takeByState c x) c := by
  unfold State.takeByState
  split
  · exact .refl i s c
  · split
    · exact anchor_countStays s c x (other .firstCopy)
    · exact .refl i s c
  all_goals exact takeChecked_countStays s c x other mismatch

theorem received_ne_class (p : Port) (k : ArrivalClass) : (CircuitCounter.received p).place ≠ k.counter.place := by
  intro same
  have counter := CircuitCounter.place_injective same
  cases k <;> cases counter

theorem received_ne_mismatch (p : Port) : (CircuitCounter.received p).place ≠ CircuitCounter.stampMismatch.place := by
  cases p <;> decide

/-! ### Stages 1 and 2 of an arrival (R91) -/

/-- A path come UP changes arrival and merge and flags of its circuit alone (R92). -/
theorem pathAlive_blocks (s : State) (c : Fin 64) (p : Port) : (s.pathAlive c p).circuit c
    = { s.circuit c with merge := ((s.pathAlive c p).circuit c).merge, flags := ((s.pathAlive c p).circuit c).flags } := by
  rcases pathAlive_cases s c p with ⟨-, form⟩ | ⟨-, form⟩
  · rw [form, circuit_pathHeard]
  · have chosen := (activeAfterUp_chosen (s.pathRisen c p) c p).blocks
    rw [circuit_pathRisen] at chosen
    rw [form]
    exact chosen

theorem tributaries_pathAlive (s : State) (c : Fin 64) (p : Port) : (s.pathAlive c p).tributaries = s.tributaries := by
  rcases pathAlive_cases s c p with ⟨-, form⟩ | ⟨-, form⟩
  · rw [form]; rfl
  · rw [form, (activeAfterUp_runs _ c p).tributaries, raiseCircuit_eq, tributaries_raise_circuit]
    rfl

/-- The state in which stage 3 of an arrival finds the part (R91). -/
def State.heard (s : State) (c : Fin 64) (p : Port) (x : Packet) (capture : Ticks) : State :=
  ((s.count c (.received p)).pathAlive c p).faultAndEcho c p x capture

theorem heard_only (s : State) (c : Fin 64) (p : Port) (x : Packet) (capture : Ticks) : OnlyCircuit s (s.heard c p x capture) c :=
  (((OnlyCircuit.refl s c).thenCount _).trans (pathAlive_only _ c p)).trans (faultAndEcho_only _ c p x capture)

theorem tributaries_heard (s : State) (c : Fin 64) (p : Port) (x : Packet) (capture : Ticks) :
    (s.heard c p x capture).tributaries = s.tributaries := by
  rw [State.heard, (faultAndEcho_runs _ c p x capture).tributaries, tributaries_pathAlive]
  rfl

/-- What stages 1 and 2 leave of a circuit: all but measurement block, arrival and merge, flags and the received count. -/
theorem circuit_heard (s : State) (c : Fin 64) (p : Port) (x : Packet) (capture : Ticks) : (s.heard c p x capture).circuit c
    = { s.circuit c with
        counters := bump (s.circuit c).counters (CircuitCounter.received p).place
        delay := ((s.heard c p x capture).circuit c).delay
        merge := (((s.count c (.received p)).pathAlive c p).circuit c).merge
        flags := ((s.heard c p x capture).circuit c).flags } := by
  have alive := pathAlive_blocks (s.count c (.received p)) c p
  rw [count_eq, circuit_onCircuit_self] at alive
  rw [State.heard, circuit_faultAndEcho, count_eq, alive]
  rfl

theorem takeArrival_eq (s : State) (c : Fin 64) (p : Port) (x : Packet) (size : Nat) (capture : Ticks) :
    s.takeArrival c p x size capture
      = (s.heard c p x capture).takeByState c ⟨x.seq, x.ts, x.l, x.r, x.rest.take size, p, capture⟩ := rfl

theorem takeArrival_received (s : State) (c : Fin 64) (p : Port) (x : Packet) (size : Nat) (capture : Ticks) :
    ((s.takeArrival c p x size capture).circuit c).counters.get (CircuitCounter.received p).place
      = countUp ((s.circuit c).counters.get (CircuitCounter.received p).place) := by
  rw [takeArrival_eq]
  refine Eq.trans (takeByState_countStays _ c _ (received_ne_class p) (received_ne_mismatch p)) ?_
  rw [circuit_heard]
  exact get_bump_self _ _

end Sys2Proof.Machine

/-! PROOFS. Every delivered frame is accounted for (R87 to R91), and the first arrival of a circuit in AWAITING (R60, R61). -/

namespace Sys2Proof.Machine

variable {s : State} {c : Fin 64} {p : Port} {age capture : Ticks} {o h : List Byte}

/-! ### Delivery, by what the classifier finds (R87 to R89) -/

theorem exec_frameArrival (link : (s.port p).link = .up) :
    exec (.frameArrival p age o) s = .next (s.deliver p (s.lt - age) o) := by
  show execFrameArrival p age o s = _
  simp only [execFrameArrival, link]

/-- The count of a frame leaves the values of its port in force as they were (R48). -/
theorem valuesAt_counted (s : State) (p : Port) (capture : Ticks) :
    ((s.countPort p .framesReceived).port p).valuesAt capture = (s.port p).valuesAt capture := by
  rw [countPort_eq, port_onPort_self]; rfl

theorem deliver_bad (found : classify ((s.port p).valuesAt capture).1 ((s.port p).valuesAt capture).2 o = .bad) :
    s.deliver p capture o = (s.countPort p .framesReceived).countPort p .badFrames := by
  simp only [State.deliver, valuesAt_counted, found]

theorem deliver_data (found : classify ((s.port p).valuesAt capture).1 ((s.port p).valuesAt capture).2 o = .data h) :
    s.deliver p capture o = (s.countPort p .framesReceived).takeData p h capture := by
  simp only [State.deliver, valuesAt_counted, found]

theorem deliver_management {source : Address}
    (found : classify ((s.port p).valuesAt capture).1 ((s.port p).valuesAt capture).2 o = .management source h) :
    s.deliver p capture o = (s.countPort p .framesReceived).takeManagement p source h := by
  simp only [State.deliver, valuesAt_counted, found]

theorem circuitOfLabel_counted (s : State) (p : Port) (n : PortCounter) (label : Nat) :
    (s.countPort p n).circuitOfLabel label = s.circuitOfLabel label := rfl

/-- A label names a circuit unless no engaged circuit has it (R40, R89). -/
theorem circuitOfLabel_none {label : Nat} (free : ∀ c, (s.circuit c).engaged = true → (s.circuit c).entry.inLabel ≠ 0 →
    (s.circuit c).entry.inLabel ≠ label) : s.circuitOfLabel label = none := by
  rw [State.circuitOfLabel, List.find?_eq_none]
  intro c _ named
  simp only [Bool.and_eq_true, beq_iff_eq, bne_iff_ne] at named
  obtain ⟨⟨engaged, same⟩, labelled⟩ := named
  exact free c engaged (by rw [same]; exact labelled) same

theorem takeData_unknown (unnamed : s.circuitOfLabel (labelOf h) = none) : s.takeData p h capture = s.countPort p .unknownLabel := by
  simp only [State.takeData, unnamed]

theorem takeData_named (named : s.circuitOfLabel (labelOf h) = some c) : s.takeData p h capture
    = if (readPacket h).wellFormed (s.circuit c).entry.frames ((s.circuit c).entry.frames * s.width c) p then
        s.takeArrival c p (readPacket h) ((s.circuit c).entry.frames * s.width c) capture
      else s.count c .malformed := by
  simp only [State.takeData, named]

/-- A packet is malformed by its frame count, its path, its length field or the octets it brings (R89). -/
theorem wellFormed_eq_false {x : Packet} {frames size : Nat}
    (differs : x.frames ≠ frames ∨ x.path ≠ p ∨ x.payloadLength ≠ size ∨ x.rest.length < size) :
    x.wellFormed frames size p = false := by
  rw [Bool.eq_false_iff]
  intro formed
  simp only [Packet.wellFormed, Bool.and_eq_true, beq_iff_eq, decide_eq_true_eq] at formed
  obtain ⟨⟨⟨sameFrames, sameLength⟩, enough⟩, samePath⟩ := formed
  rcases differs with frames | path | length | short
  · exact frames sameFrames
  · exact path samePath
  · exact length sameLength
  · omega

/-- A management frame by its label and the port's management accept, read with the list of accepted frames (R88, logs 9, 10). -/
theorem takeManagement_eq {source : Address} {accept : Bool} {accepted : List AcceptedFrame}
    (reads : (s.port p).entry.accept = accept) (before : (s.port p).waiting = accepted) : s.takeManagement p source h
    = if labelOf h ≠ 0 then s.countPort p .badFrames
      else if accept then (s.countPort p .managementFrames).onPort p (fun k => { k with waiting := accepted ++
        [⟨source, BitVec.ofNat 16 (numberAt h 4 2), numberAt h 6 1, h.drop 7⟩] })
      else s.countPort p .managementDiscarded := by
  have waiting : ((s.countPort p .managementFrames).port p).waiting = accepted := by rw [countPort_eq, port_onPort_self, before]
  rw [State.takeManagement, reads]
  refine congrArg (ite _ _) (congrArg (fun u => ite _ u _) (onPort_congr _ p ?_))
  rw [waiting]

/-- A well-formed arrival on a port that is UP is taken by its circuit, the frame counted (R87, R89). -/
theorem exec_wellFormed (link : (s.port p).link = .up)
    (found : classify ((s.port p).valuesAt (s.lt - age)).1 ((s.port p).valuesAt (s.lt - age)).2 o = .data h)
    (named : s.circuitOfLabel (labelOf h) = some c)
    (formed : (readPacket h).wellFormed (s.circuit c).entry.frames ((s.circuit c).entry.frames * s.width c) p = true) :
    exec (.frameArrival p age o) s = .next ((s.countPort p .framesReceived).takeArrival c p (readPacket h)
      ((s.circuit c).entry.frames * s.width c) (s.lt - age)) := by
  rw [exec_frameArrival link, deliver_data found,
    takeData_named (s := s.countPort p .framesReceived) (c := c) ((circuitOfLabel_counted ..).trans named)]
  exact congrArg Host.Outcome.next (if_pos formed)

/-! ### Stage 3, by circuit state (R61, R91) -/

theorem takeByState_awaiting {x : Candidate} (state : (s.circuit c).control.state = .awaiting) :
    s.takeByState c x = if (s.circuit c).samples x.path = true then s.anchor c x else s := by
  simp only [State.takeByState, state]

theorem takeByState_checked {x : Candidate} (state : (s.circuit c).control.state = .acquiring
    ∨ (s.circuit c).control.state = .playing ∨ (s.circuit c).control.state = .starved) : s.takeByState c x = s.takeChecked c x := by
  rcases state with state | state | state <;> simp only [State.takeByState, state]

theorem control_heard (s : State) (c : Fin 64) (p : Port) (x : Packet) (capture : Ticks) :
    ((s.heard c p x capture).circuit c).control = (s.circuit c).control := by rw [circuit_heard]

/-- Settles O24, by what the classifier finds. -/
theorem frameArrivalsAreAccountedFor : Obligations.FrameArrivalsAreAccountedFor := by
  intro p age o s link v counted
  have delivered := exec_frameArrival (o := o) (age := age) link
  refine ⟨fun bad => ?_, fun h data => ⟨fun free => ?_, fun c named => ⟨fun differs => ?_, fun formed => ?_⟩⟩,
    fun source h management => ?_⟩
  · rw [delivered, deliver_bad bad]
  · rw [delivered, deliver_data data, takeData_unknown ((circuitOfLabel_counted ..).trans (circuitOfLabel_none free))]
  · rw [delivered, deliver_data data, takeData_named (c := c) ((circuitOfLabel_counted ..).trans named)]
    exact congrArg Host.Outcome.next (if_neg (Bool.eq_false_iff.mp (wellFormed_eq_false differs)))
  · intro k x arrival heard
    have control : (heard.circuit c).control = k.control := control_heard counted c p x (s.lt - age)
    refine ⟨_, exec_wellFormed link data named formed, takeArrival_only .., takeArrival_received .., fun awaiting => ?_,
      fun checked => ?_⟩
    · rw [takeArrival_eq]
      exact takeByState_awaiting (by rw [← awaiting]; exact congrArg Control.state control)
    · rw [takeArrival_eq]
      exact takeByState_checked (by rw [← control] at checked; exact checked)
  · rw [delivered, deliver_management management]
    exact congrArg Host.Outcome.next (takeManagement_eq (by rw [countPort_eq, port_onPort_self]) (by rw [countPort_eq, port_onPort_self]))

end Sys2Proof.Machine

/-! PROOFS. The first arrival of a circuit in AWAITING: its path comes UP, and on a sampling path it anchors (R60, R61, R94). -/

namespace Sys2Proof.Machine

variable {s u : State} {c : Fin 64} {p : Port} {age capture : Ticks} {o h : List Byte}

/-! ### Stages 1 and 2 in AWAITING -/

/-- The active path once a path is UP in AWAITING (R95). -/
def Circuit.activeHeard (k : Circuit) (p : Port) : Option Port :=
  if k.merge.up.get p = .up ∨ k.entry.policy = .merge then k.merge.active
  else freshActive k.entry.policy (k.merge.up.set p .up)

theorem merge_pathAlive_awaiting (state : (s.circuit c).control.state = .awaiting) (p : Port) :
    ((s.pathAlive c p).circuit c).merge
      = { (s.circuit c).heardMerge p s.lt with active := (s.circuit c).activeHeard p } := by
  obtain ⟨-, -, -, up, down⟩ := arrivalBringsItsPathUp s c p
  cases was : (s.circuit c).merge.up.get p with
  | up =>
    rw [(up was).1, Circuit.activeHeard, if_pos (.inl was)]
    rfl
  | down =>
    have dead : ¬(s.circuit c).merge.up.get p = .up := by rw [was]; decide
    obtain ⟨-, merged, prefers, -⟩ := down was
    have fresh (q : Port) (preferred : (s.circuit c).entry.policy.preferred = some q) :
        ((s.pathAlive c p).circuit c).merge
          = { (s.circuit c).heardMerge p s.lt with active := (s.circuit c).activeHeard p } := by
      have unmerged : ¬(s.circuit c).entry.policy = .merge := fun e => by rw [e] at preferred; cases preferred
      rw [prefers q preferred (.inl state), Circuit.activeHeard, if_neg (not_or.mpr ⟨dead, unmerged⟩),
        freshActive_of_up preferred (Pair.get_set_self _ p _)]
      rfl
    cases policy : (s.circuit c).entry.policy with
    | merge =>
      rw [merged policy, Circuit.activeHeard, if_pos (.inr policy)]
      rfl
    | preferA => exact fresh .A (by rw [policy]; rfl)
    | preferB => exact fresh .B (by rw [policy]; rfl)

theorem stateChanged_pathAlive (s : State) (c : Fin 64) (p : Port) :
    (s.pathAlive c p).flag (.circuit c .stateChanged) = s.flag (.circuit c .stateChanged) := by
  rcases pathAlive_cases s c p with ⟨-, form⟩ | ⟨-, form⟩
  · rw [form, flag_pathHeard]
  · rw [form]
    refine ((activeAfterUp_chosen (s.pathRisen c p) c p).flags _ (by simp)).trans ?_
    rw [flag_pathRisen, if_neg (by simp)]

/-- Stages 1 and 2 of an arrival change no circuit state (R91). -/
theorem stateChanged_heard (s : State) (c : Fin 64) (p : Port) (x : Packet) (capture : Ticks) :
    (s.heard c p x capture).flag (.circuit c .stateChanged) = s.flag (.circuit c .stateChanged) := by
  have alive := stateChanged_pathAlive (s.count c (.received p)) c p
  have counted : (s.count c (.received p)).flag (.circuit c .stateChanged) = s.flag (.circuit c .stateChanged) := by
    rw [count_eq]; exact flag_onCircuit _ _ _ _ rfl
  refine Eq.trans ?_ (alive.trans counted)
  rw [State.heard]
  generalize (s.count c (.received p)).pathAlive c p = v
  have same (k : Circuit) (b : Bool) (f : CircuitFlag) (d : Detail) (apart : CircuitFlag.stateChanged ≠ f) :
      (k.raisedIf b f d).flags[CircuitFlag.stateChanged.code.val] = k.flags[CircuitFlag.stateChanged.code.val] := by
    rw [flags_raisedIf, if_neg (fun both => apart both.2)]
  show ((v.faultAndEcho c p x capture).circuit c).flags[CircuitFlag.stateChanged.code.val] = _
  rw [circuit_faultAndEcho, same _ _ _ _ (by decide), same _ _ _ _ (by decide), same _ _ _ _ (by decide)]
  rfl

/-- Whether a path is a sampling path (R94). -/
theorem samples_iff (k : Circuit) (p : Port) : k.samples p = true ↔ k.merge.forced = some p
    ∨ k.merge.forced = none ∧ (k.entry.policy = .merge ∨ k.merge.active = some p) := by
  unfold Circuit.samples
  cases forced : k.merge.forced with
  | some q => simp only [beq_iff_eq, Option.some.injEq, reduceCtorEq, false_and, or_false]; exact eq_comm
  | none => cases policy : k.entry.policy <;> simp only [beq_iff_eq, reduceCtorEq, true_and, false_or, true_or]

/-! ### The circuit as stage 3 finds it, and as it leaves it -/

/-- The part as stage 3 finds it, seen from the state before the frame was counted. -/
def State.heardFrom (s : State) (c : Fin 64) (p : Port) (x : Packet) (capture : Ticks) : State :=
  (s.countPort p .framesReceived).heard c p x capture

/-- A circuit as stage 3 of the arrival finds it in AWAITING (R91, R92, R95). -/
theorem circuit_heardFrom (state : (s.circuit c).control.state = .awaiting) (p : Port) (x : Packet) (capture : Ticks) :
    (s.heardFrom c p x capture).circuit c = { s.circuit c with
      counters := bump (s.circuit c).counters (CircuitCounter.received p).place
      delay := ((s.heardFrom c p x capture).circuit c).delay
      merge := { (s.circuit c).heardMerge p s.lt with active := (s.circuit c).activeHeard p }
      flags := ((s.heardFrom c p x capture).circuit c).flags } := by
  have heard := circuit_heard (s.countPort p .framesReceived) c p x capture
  have alive := merge_pathAlive_awaiting (s := (s.countPort p .framesReceived).count c (.received p)) (c := c)
    (by rw [count_eq, circuit_onCircuit_self]; exact state) p
  rw [alive, count_eq, circuit_onCircuit_self] at heard
  exact heard

theorem stateChanged_heardFrom (s : State) (c : Fin 64) (p : Port) (x : Packet) (capture : Ticks) :
    (s.heardFrom c p x capture).flag (.circuit c .stateChanged) = s.flag (.circuit c .stateChanged) :=
  stateChanged_heard (s.countPort p .framesReceived) c p x capture

/-- Settles O25: with the frame counted, the three stages of R91 on a circuit in AWAITING. -/
theorem firstArrivalAnchorsTheCircuit : Obligations.FirstArrivalAnchorsTheCircuit := by
  intro p age o h c s v k size x up active sampling link found named formed awaiting
  have executed := exec_wellFormed (s := s) (c := c) link found named formed
  have only : OnlyCircuit (s.countPort p .framesReceived)
    ((s.countPort p .framesReceived).takeArrival c p x size (s.lt - age)) c := takeArrival_only ..
  have received := takeArrival_received (s.countPort p .framesReceived) c p x size (s.lt - age)
  have taken := takeArrival_eq (s.countPort p .framesReceived) c p x size (s.lt - age)
  have own := circuit_heardFrom awaiting p x (s.lt - age)
  have changed := stateChanged_heardFrom s c p x (s.lt - age)
  have heardOnly := heard_only (s.countPort p .framesReceived) c p x (s.lt - age)
  have tributaries := tributaries_heard (s.countPort p .framesReceived) c p x (s.lt - age)
  have byState := takeByState_awaiting (s := s.heardFrom c p x (s.lt - age)) (c := c)
    (x := ⟨x.seq, x.ts, x.l, x.r, x.rest.take size, p, s.lt - age⟩) (by rw [own]; exact awaiting)
  have sampled : ((s.heardFrom c p x (s.lt - age)).circuit c).samples p = true ↔ sampling := by
    rw [samples_iff, own]
    exact Iff.rfl
  change _ = (s.heardFrom c p x (s.lt - age)).takeByState c _ at taken
  change OnlyCircuit _ (s.heardFrom c p x (s.lt - age)) c at heardOnly
  change (s.heardFrom c p x (s.lt - age)).tributaries = _ at tributaries
  rw [byState] at taken
  generalize s.heardFrom c p x (s.lt - age) = w at own changed heardOnly tributaries sampled taken
  generalize (s.countPort p .framesReceived).takeArrival c p x size (s.lt - age) = u at executed only received taken
  have state : (w.circuit c).control.state = .awaiting := by rw [own]; exact awaiting
  refine ⟨u, executed, ?_, ?_, received, fun samples => ?_, fun skips => ?_, only.entry, only.others, ?_, ?_,
    ⟨only.run.lt, only.run.answer, only.run.draws, only.run.pending⟩, ?_⟩
  · rw [taken]
    split
    · rw [circuit_anchor, own]; rfl
    · rw [own]; rfl
  · rw [taken]
    split
    · rw [circuit_anchor, own]; rfl
    · rw [own]; rfl
  · rw [if_pos (sampled.mpr samples)] at taken
    have base : AnchorBase (s.circuit c) (w.circuit c) := by rw [own]; exact ⟨rfl, rfl, rfl, rfl, rfl, rfl, rfl⟩
    have first : (w.circuit c).counters.get CircuitCounter.firstCopies.place
        = (s.circuit c).counters.get CircuitCounter.firstCopies.place := by
      rw [own]; exact get_bump_of_ne _ (received_ne_class p .firstCopy).symm
    refine ⟨by rw [taken]; exact anchored_anchor (s := s) (v := w) heardOnly.run.lt base first _, ?_, ?_⟩
    · rw [taken, circuit_anchor, own]; rfl
    · rw [taken, flag_anchor, if_pos rfl, if_neg (by rw [state]; decide), State.flagAfter, changed]
      rfl
  · rw [if_neg (fun samples => skips (sampled.mp samples))] at taken
    rw [taken, changed, own]
    exact ⟨rfl, rfl, rfl, rfl, rfl, rfl, get_bump_of_ne _ (received_ne_class p .firstCopy).symm⟩
  · refine Eq.trans ?_ tributaries
    rw [taken]
    split
    · exact tributaries_anchor (by rw [state]; decide) _
    · rfl
  · rw [State.port_congr only.ports, countPort_eq, port_onPort_of_ne _ _ (otherPort_ne p)]
  · rw [State.port_congr only.ports, countPort_eq, port_onPort_self]

end Sys2Proof.Machine
